-- ==== Sys2Proof/Word.lean ====
section
/-!
DEFINITION. Sys2Proof/Word.lean: the words of the Huaron architecture (00 R4, R8) and their plainest arithmetic.
-/
namespace Sys2Proof

/-- A byte, the smallest addressable datum (R4). -/
abbrev Byte := BitVec 8
/-- A half (R4). -/
abbrev Half := BitVec 16
/-- A word: one instruction or one vector-lane register (R4). -/
abbrev Word := BitVec 32
/-- A doubleword: one sequencer register (R4). -/
abbrev DWord := BitVec 64

/-- 2^n as a natural number, the spelling used throughout. -/
abbrev pow2 (n : Nat) : Nat := 2 ^ n

/-- The bit slice x[h:l] of R3, as a natural number. -/
def slice (x h l : Nat) : Nat := (x >>> l) % 2 ^ (h + 1 - l)

/-- Bit n of x (R3). -/
def bitAt (x n : Nat) : Bool := (x >>> n) % 2 == 1

/-- Quotient rounded up. -/
def ceilDiv (a b : Nat) : Nat := (a + b - 1) / b

/-- Set bit n of x to b. -/
def setBit (x n : Nat) (b : Bool) : Nat :=
  if bitAt x n then (if b then x else x - 2 ^ n) else (if b then x + 2 ^ n else x)

end Sys2Proof
end

