-- ==== Sys2Proof/Machine/Tbl.lean ====
section
/-!
DEFINITION. Sys2Proof/Machine/Tbl.lean: sparse tables in one canonical form: keys strictly rising, no entry equal to what
an unlisted key reads as. Memory (List Host.Cell), register files and the sets of cores, contexts and lines are such tables,
so that equal contents are equal data.
-/
namespace Sys2Proof.Machine

/-- A sparse table from natural numbers. -/
abbrev Tbl (α : Type) := List (Nat × α)

variable {α : Type}

/-- The entry listed at key k. -/
def Tbl.find (k : Nat) : Tbl α → Option α
  | [] => none
  | (j, v) :: t => if j = k then some v else Tbl.find k t

/-- What key k reads as: its entry, or the default. -/
def Tbl.get (dflt : α) (t : Tbl α) (k : Nat) : α := (Tbl.find k t).getD dflt

/-- List v at key k. -/
def Tbl.put (k : Nat) (v : α) : Tbl α → Tbl α
  | [] => [(k, v)]
  | (j, w) :: t =>
    if k < j then (k, v) :: (j, w) :: t
    else if k = j then (k, v) :: t
    else (j, w) :: Tbl.put k v t

/-- Remove key k. -/
def Tbl.erase (k : Nat) : Tbl α → Tbl α
  | [] => []
  | (j, w) :: t => if k = j then Tbl.erase k t else (j, w) :: Tbl.erase k t

/-- Key k holds v from now on; a value equal to the default is not listed. -/
def Tbl.set [DecidableEq α] (dflt : α) (t : Tbl α) (k : Nat) (v : α) : Tbl α :=
  if v = dflt then Tbl.erase k t else Tbl.put k v t

/-- The keys of a table are all above b and strictly rising, and no value is the default. -/
def Tbl.wfFrom [DecidableEq α] (dflt : α) : Option Nat → Tbl α → Bool
  | _, [] => true
  | lo, (j, v) :: t =>
    (match lo with | none => true | some b => decide (b < j)) && decide (v ≠ dflt) && Tbl.wfFrom dflt (some j) t

/-- The canonical form of a table. -/
def Tbl.wf [DecidableEq α] (dflt : α) (t : Tbl α) : Bool := Tbl.wfFrom dflt none t

/-- Change the entry at key k by f. -/
def Tbl.modify [DecidableEq α] (dflt : α) (t : Tbl α) (k : Nat) (f : α → α) : Tbl α :=
  Tbl.set dflt t k (f (Tbl.get dflt t k))

/-- A set of natural numbers: the table of its characteristic function. -/
abbrev NatSet := Tbl Bool

/-- Membership. -/
def NatSet.has (t : NatSet) (k : Nat) : Bool := Tbl.get false t k

/-- Put k in, or take it out. -/
def NatSet.mark (t : NatSet) (k : Nat) (b : Bool) : NatSet := Tbl.set false t k b

/-- Take out every element in the range [lo, hi). -/
def NatSet.clearRange (t : NatSet) (lo hi : Nat) : NatSet := t.filter (fun e => !(lo ≤ e.1 && e.1 < hi))

/-- The first element of a list that meets p, with the list without it. -/
def takeFirst (p : α → Bool) : List α → Option (α × List α)
  | [] => none
  | x :: xs => if p x then some (x, xs) else (takeFirst p xs).map (fun r => (r.1, x :: r.2))

/-- Change the first element that meets p. -/
def mapFirst (p : α → Bool) (f : α → α) : List α → List α
  | [] => []
  | x :: xs => if p x then f x :: xs else x :: mapFirst p f xs

/-- The numbers lo, lo+1, …, lo+n-1. -/
def upFrom (lo : Nat) : Nat → List Nat
  | 0 => []
  | n + 1 => lo :: upFrom (lo + 1) n

/-- Little-endian bytes of x (R4). -/
def leBytes (x : Nat) : Nat → List Byte
  | 0 => []
  | n + 1 => BitVec.ofNat 8 x :: leBytes (x / 256) n

/-- The number that little-endian bytes hold (R4). -/
def leNat : List Byte → Nat
  | [] => 0
  | b :: bs => b.toNat + 256 * leNat bs

/-- Cut a list into pieces of n elements (the last may be shorter); the fuel is the number of pieces. -/
def chunks (n : Nat) : Nat → List α → List (List α)
  | 0, _ => []
  | f + 1, xs => xs.take n :: chunks n f (xs.drop n)

end Sys2Proof.Machine
end

