-- ==== Sys2Proof/Syntax.lean ====
section
/-!
DEFINITION. Sys2Proof/Syntax.lean: the instructions, one constructor per row of spec/opcode_table.json: sequencer words
(02 R38-R48), vector words (R49-R56), step words (R57-R60), and the events of 95_what_each_step_holds.md, which are
transitions of their own and have no encoding.
-/
namespace Sys2Proof

/-- A vector register operand (02 R49, R52): a window register, named directly, or v[xk], named through an index register. -/
inductive VReg where
  | win (n : BitVec 10)
  | ind (k : BitVec 3)
  deriving DecidableEq, Repr

/-- The q modifier of VLD, VLDS and VLDX (02 R55). -/
inductive LoadMode where
  | plain | f | fe
  deriving DecidableEq, Repr

/-- The q modifier of VST, VSTS and VSTX (02 R55). -/
inductive StoreMode where
  | plain | sf
  deriving DecidableEq, Repr

/-- Where a load's data returns (95 LOAD_DATA_RETURN): a sequencer register, or a window register of a member of a strand. -/
inductive LoadDst where
  | seq (core : Nat) (reg : BitVec 5)
  | cluster (core strand rank reg : Nat)
  deriving DecidableEq, Repr

/-- Whose store is performed (95 STORE_PERFORMED): the sequencer of a core, or one of its clusters. -/
inductive StoreSrc where
  | seq (core : Nat)
  | cluster (core cluster : Nat)
  deriving DecidableEq, Repr

/-- A waiting agent (95 WAIT_INTERRUPTED, FULL_WAIT_RELEASE). -/
inductive Waiter where
  | seq (core : Nat)
  | cluster (core strand rank : Nat)
  | matrix (core : Nat)
  | command (core sel : Nat)
  deriving DecidableEq, Repr

/-- A command queue (08 R187): a core's six queues by timeline selector, and the shared queues of a context. -/
inductive QId where
  | core (core sel : Nat)
  | stash (ctx die : Nat)
  | crsl (ctx die : Nat)
  | dou (ctx stack : Nat)
  deriving DecidableEq, Repr

/-- What a carousel message says (21 R353): the header's fields, the data, and the 64-byte pieces of the chunk in the sender's memory that were
poisoned. On the wire it is a header of 16 bytes with the data after it. -/
structure RingMsg where
  src    : Nat
  bump   : Nat
  fmt    : Nat
  bucket : Nat
  chunk  : Nat
  minus  : Bool
  gather : Bool
  bytes  : List (BitVec 8)
  poison : List Nat
  deriving DecidableEq, Repr

/-- A carousel message as it arrives (21 R353): its bytes, header first, and the 64-byte pieces of the sender's chunk that were poisoned. -/
structure RingWire where
  wire   : List (BitVec 8)
  poison : List Nat
  deriving DecidableEq, Repr

/-- An end of a channel on another W4 of a launch (16 R300, R302; 15 R278): the ring, the W4 that holds it, whether it is a consumer end, and of such
an end the claimed and freed counts. -/
structure ChannelJoin where
  ring     : Nat
  w4       : Nat
  consumer : Bool
  claimed  : BitVec 32
  freed    : BitVec 32
  deriving DecidableEq, Repr

/-- What a curtain message says of a launch (15 R277; 16 R300): its W4 list, and the channel ends of its other W4s. -/
structure CurtainList where
  w4s   : List (BitVec 32)
  joins : List ChannelJoin
  deriving DecidableEq, Repr

/-- What the message of a curtain's fall names (15 R277; 24 R392): the W4 at fault, and the W4 list along which it is forwarded. -/
structure CurtainFallen where
  w4  : BitVec 24
  w4s : List (BitVec 32)
  deriving DecidableEq, Repr

/-- What bring-up finds (22 R369): whether both signatures of the firmware image verify, whether the identity is derived, whether the signed
configuration can be applied, the core sites that it enables, which of the two copies of the wear records, the newer and the older, hold their CRC
(25 R397), the ports left down by training, the image's version and digest, the identity's public key. -/
structure Bringup where
  fwOk    : Bool
  idOk    : Bool
  enabled : List Nat
  down    : List Nat
  cfgOk   : Bool := true
  newerOk : Bool := true
  olderOk : Bool := true
  image   : List (BitVec 8) := []
  key     : List (BitVec 8) := []
  deriving DecidableEq, Repr

/-- One sample of a core's monitors (25 R394, R395): its duration in ns, the duty in 10^-6, the supply in mV, the junction temperature in
10^-3 °C, the current ratio in 10^-6, the oscillator's drift in 10^-4, an open segment. -/
structure WearReading where
  core  : Nat
  dt    : Nat
  duty  : Nat
  volt  : Nat
  temp  : Int
  rho   : Nat
  drift : Nat
  open_ : Bool
  deriving DecidableEq, Repr

/-- A request another W4 makes of this home (13 R253): a store, or a lease on a line. -/
inductive HomeAccess where
  | store (w4 pa ts : Nat) (data : List (BitVec 8))
  | read (w4 pa ts : Nat)
  deriving DecidableEq, Repr

/-- The instructions and events of the opcode table. -/
inductive Instr where
  /-- ADD (R79): Writes s[a] + s[b] modulo 2^64 to s[d]. -/
  | add (d a b : BitVec 5)
  /-- SUB (R79): Writes s[a] - s[b] modulo 2^64 to s[d]. -/
  | sub (d a b : BitVec 5)
  /-- MUL (R79): Writes the low 64 bits of s[a] × s[b] to s[d]. -/
  | mul (d a b : BitVec 5)
  /-- MULH (R79): Writes the high 64 bits of the signed product to s[d]. -/
  | mulh (d a b : BitVec 5)
  /-- MULHN (R79): Writes the high 64 bits of the unsigned product to s[d]. -/
  | mulhn (d a b : BitVec 5)
  /-- DIV (R79): Signed division truncated toward zero, with defined results for a zero divisor and for overflow. -/
  | div (d a b : BitVec 5)
  /-- DIVN (R79): Unsigned division, giving all ones when the divisor is zero. -/
  | divn (d a b : BitVec 5)
  /-- REM (R79): Signed remainder that carries the sign of the dividend. -/
  | rem (d a b : BitVec 5)
  /-- REMN (R79): Unsigned remainder. -/
  | remn (d a b : BitVec 5)
  /-- AND (R79): Bitwise AND of s[a] and s[b]. -/
  | and (d a b : BitVec 5)
  /-- OR (R79): Bitwise OR of s[a] and s[b]. -/
  | or (d a b : BitVec 5)
  /-- XOR (R79): Bitwise XOR of s[a] and s[b]. -/
  | xor (d a b : BitVec 5)
  /-- SHL (R79): Shifts s[a] left by b[5:0]. -/
  | shl (d a b : BitVec 5)
  /-- SHR (R79): Shifts s[a] right logically by b[5:0]. -/
  | shr (d a b : BitVec 5)
  /-- SAR (R79): Shifts s[a] right arithmetically by b[5:0]. -/
  | sar (d a b : BitVec 5)
  /-- MIN (R79): Signed minimum of s[a] and s[b]. -/
  | min (d a b : BitVec 5)
  /-- MAX (R79): Signed maximum of s[a] and s[b]. -/
  | max (d a b : BitVec 5)
  /-- MINN (R79): Unsigned minimum of s[a] and s[b]. -/
  | minn (d a b : BitVec 5)
  /-- MAXN (R79): Unsigned maximum of s[a] and s[b]. -/
  | maxn (d a b : BitVec 5)
  /-- SLT (R79): Writes 1 when s[a] is less than s[b] as signed integers, else 0. -/
  | slt (d a b : BitVec 5)
  /-- SLTN (R79): Writes 1 when s[a] is less than s[b] as unsigned integers, else 0. -/
  | sltn (d a b : BitVec 5)
  /-- CLZ (R79): Counts the leading zero bits of s[a]. -/
  | clz (d a : BitVec 5)
  /-- POPC (R79): Counts the one bits of s[a]. -/
  | popc (d a : BitVec 5)
  /-- SEL (R79): Writes s[a] when s[c] is non-zero, otherwise s[b]. -/
  | sel (d c a b : BitVec 5)
  /-- ADDI (R80): Adds the sign-extended immediate to s[a]. -/
  | addi (d a : BitVec 5) (imm : BitVec 16)
  /-- ANDI (R80): ANDs s[a] with the zero-extended immediate. -/
  | andi (d a : BitVec 5) (imm : BitVec 16)
  /-- ORI (R80): ORs s[a] with the zero-extended immediate. -/
  | ori (d a : BitVec 5) (imm : BitVec 16)
  /-- XORI (R80): XORs s[a] with the zero-extended immediate. -/
  | xori (d a : BitVec 5) (imm : BitVec 16)
  /-- SHLI (R80): Shifts s[a] left by the count n. -/
  | shli (d a : BitVec 5) (n : BitVec 6)
  /-- SHRI (R80): Shifts s[a] right logically by the count n. -/
  | shri (d a : BitVec 5) (n : BitVec 6)
  /-- SARI (R80): Shifts s[a] right arithmetically by the count n. -/
  | sari (d a : BitVec 5) (n : BitVec 6)
  /-- SLTI (R80): Compares s[a] with the sign-extended immediate as signed integers. -/
  | slti (d a : BitVec 5) (imm : BitVec 16)
  /-- MOVHI (R80): Writes the sign-extended immediate shifted left by 16 to s[d]. -/
  | movhi (d : BitVec 5) (imm : BitVec 16)
  /-- LD_B (R81): Loads a byte, zero-extended, and marks s[d] poisoned when the line is poisoned. -/
  | ldB (d a : BitVec 5) (imm : BitVec 16)
  /-- LD_H (R81): Loads a half, zero-extended. -/
  | ldH (d a : BitVec 5) (imm : BitVec 16)
  /-- LD_W (R81): Loads a word, zero-extended. -/
  | ldW (d a : BitVec 5) (imm : BitVec 16)
  /-- LD_D (R81): Loads a doubleword. -/
  | ldD (d a : BitVec 5) (imm : BitVec 16)
  /-- LDS_B (R81): Loads a byte, sign-extended. -/
  | ldsB (d a : BitVec 5) (imm : BitVec 16)
  /-- LDS_H (R81): Loads a half, sign-extended. -/
  | ldsH (d a : BitVec 5) (imm : BitVec 16)
  /-- LDS_W (R81): Loads a word, sign-extended. -/
  | ldsW (d a : BitVec 5) (imm : BitVec 16)
  /-- LDS_D (R81): Loads a doubleword, with the same effect as LD.d. -/
  | ldsD (d a : BitVec 5) (imm : BitVec 16)
  /-- ST_B (R81): Stores the low byte of s[d] to the shadow frame or to plain memory. -/
  | stB (d a : BitVec 5) (imm : BitVec 16)
  /-- ST_H (R81): Stores the low half of s[d]. -/
  | stH (d a : BitVec 5) (imm : BitVec 16)
  /-- ST_W (R81): Stores the low word of s[d]. -/
  | stW (d a : BitVec 5) (imm : BitVec 16)
  /-- ST_D (R81): Stores the doubleword s[d]. -/
  | stD (d a : BitVec 5) (imm : BitVec 16)
  /-- B_EQ (R83): Branches when s[a] equals s[b]. -/
  | bEq (a b : BitVec 5) (off : BitVec 16)
  /-- B_NE (R83): Branches when s[a] differs from s[b]. -/
  | bNe (a b : BitVec 5) (off : BitVec 16)
  /-- B_LT (R83): Branches when s[a] is less than s[b], signed. -/
  | bLt (a b : BitVec 5) (off : BitVec 16)
  /-- B_GE (R83): Branches when s[a] is at least s[b], signed. -/
  | bGe (a b : BitVec 5) (off : BitVec 16)
  /-- B_LTN (R83): Branches when s[a] is less than s[b], unsigned. -/
  | bLtn (a b : BitVec 5) (off : BitVec 16)
  /-- B_GEN (R83): Branches when s[a] is at least s[b], unsigned. -/
  | bGen (a b : BitVec 5) (off : BitVec 16)
  /-- J (R83): Jumps to the PC-relative target. -/
  | j (off : BitVec 26)
  /-- JAL (R83): Jumps to the target and writes the return address to s31. -/
  | jal (off : BitVec 26)
  /-- JR (R83): Jumps to s[a] and writes the address of the next word to s[d]. -/
  | jr (d a : BitVec 5)
  /-- TSTW (R83): Branches when the named bit of s[a] is 1. -/
  | tstw (a bit : BitVec 5) (off : BitVec 16)
  /-- SEMADD (R85): Atomically adds s[a] to semaphore m and returns the old value. -/
  | semadd (d a : BitVec 5) (m : BitVec 9)
  /-- SEMADDC (R86): Adds s[a] to semaphore m, holding the add until retirement when the task runs under COMMIT=1. -/
  | semaddc (a : BitVec 5) (m : BitVec 9)
  /-- SEMCAS (R85): Compares semaphore m with s[d] and, when they are equal, swaps in s[a]. -/
  | semcas (d a : BitVec 5) (m : BitVec 9)
  /-- SEMSET (R85): Sets semaphore m to s[a]. -/
  | semset (a : BitVec 5) (m : BitVec 9)
  /-- SEMREAD (R85): Reads semaphore m into s[d]. -/
  | semread (d : BitVec 5) (m : BitVec 9)
  /-- SEMWAIT (R85): Tests semaphore m against s[a] and stalls until the condition holds. -/
  | semwait (a : BitVec 5) (m : BitVec 9)
  /-- DRAW (R87): Atomically draws the next chunk of task items from the lead core's counter. -/
  | draw (d a : BitVec 5)
  /-- RCLAIM (R88): Claims the next ring slot, or returns 0 when none is free. -/
  | rclaim (d : BitVec 5) (q : BitVec 8)
  /-- RFILL (R88): Marks a claimed slot filled and advances the filled frontier; the fill is held under COMMIT=1. -/
  | rfill (a : BitVec 5) (q : BitVec 8)
  /-- RWAITF (R88): Stalls until the ring holds a filled slot that is not yet taken. -/
  | rwaitf (q : BitVec 8)
  /-- RWAITE (R88): Stalls until the ring has a free slot. -/
  | rwaite (q : BitVec 8)
  /-- RTAKE (R88): Takes the oldest filled slot, or returns 0 when there is none. -/
  | rtake (d : BitVec 5) (q : BitVec 8)
  /-- RFREE (R88): Marks a taken slot done and advances the freed frontier; the free is held under COMMIT=1. -/
  | rfree (a : BitVec 5) (q : BitVec 8)
  /-- RSTAT (R88): Returns the ring's counts. -/
  | rstat (d : BitVec 5) (q : BitVec 8)
  /-- JOIN (R91): Adds the issuing sequencer to membership set g. -/
  | join (g : BitVec 6)
  /-- LEAVE (R91): Removes the issuing sequencer from set g, which may complete a phase. -/
  | leave (g : BitVec 6)
  /-- ARRIVE (R91): Sets the issuer's arrived flag and returns the phase count. -/
  | arrive (d : BitVec 5) (g : BitVec 6)
  /-- BWAIT (R91): Stalls until the set's phase count differs from s[a]. -/
  | bwait (a : BitVec 5) (g : BitVec 6)
  /-- BTEST (R91): Returns the phase count minus s[a], modulo 2^16. -/
  | btest (d a : BitVec 5) (g : BitVec 6)
  /-- TLWAIT (R93): Stalls until the timeline count reaches s[a], then acquires those commands' writes. -/
  | tlwait (a : BitVec 5) (ctr inst : BitVec 4)
  /-- TLREAD (R93): Reads a timeline count without acquiring. -/
  | tlread (d : BitVec 5) (ctr inst : BitVec 4)
  /-- XFENCE_O2E (R94): Completes when the issuer's earlier stores are performed, so that commands pushed later see them. -/
  | xfenceO2E
  /-- XFENCE_E2O (R94): Acquires the writes of every command whose completion the issuer has observed. -/
  | xfenceE2O
  /-- CLOAD (R95): Copies 128 bytes from memory into a staging buffer. -/
  | cload (k : BitVec 4) (a : BitVec 5) (imm : BitVec 8)
  /-- CSET (R95): Writes s[a], with its poison bit, to doubleword n of a staging buffer. -/
  | cset (k n : BitVec 4) (a : BitVec 5)
  /-- CSETI (R95): Writes a sign-extended 18-bit immediate to doubleword n of a staging buffer. -/
  | cseti (k n : BitVec 4) (imm : BitVec 18)
  /-- CPUSH (R96): Copies a staging buffer and pushes it as a command to the queue it names, with token pops and pushes, and returns its timeline number. -/
  | cpush (d : BitVec 5) (k : BitVec 4)
  /-- CSTAT (R97): Returns the state of one engine queue. -/
  | cstat (d : BitVec 5) (eng k : BitVec 4)
  /-- TNEXT (R98): Stalls until the ringmaster dispatches a task, then writes the task registers and jumps to the entry point. -/
  | tnext (d : BitVec 5)
  /-- TEND (R99): Ends the core's share of its task once its commands have retired, and reports to the ringmaster. -/
  | tend
  /-- TABORT (R100): Aborts the issuing core's task. -/
  | tabort
  /-- TQUERY (R101): Reads one ringmaster counter of one stage. -/
  | tquery (d a : BitVec 5)
  /-- NOP (R103): Does nothing. -/
  | nop
  /-- HALT (R103): Halts the issuing sequencer as in a debug halt and sends a halt record. -/
  | halt
  /-- TRAP (R103): Takes a software trap that records its code. -/
  | trap (code : BitVec 5)
  /-- ERET (R102): Leaves handler mode, restarts the stopped queues and continues at EPC. -/
  | eret
  /-- SYSR (R104): Reads a system register, stalling on cut registers in handler mode until the cut is complete. -/
  | sysr (d : BitVec 5) (sr : BitVec 10)
  /-- SYSW (R104): Writes a system register. -/
  | sysw (a : BitVec 5) (sr : BitVec 10)
  /-- PROBE (R105): Tests whether s[a] is translated, and takes a translation fault with a probe record when it is not. -/
  | probe (a : BitVec 5)
  /-- CLEAN (R106): Performs the pending stores, then writes back the dirty L2 lines of the range. -/
  | clean (a b : BitVec 5)
  /-- INVAL (R106): Discards the L2 lines of the range without writing them back. -/
  | inval (a b : BitVec 5)
  /-- PTEST (R105): Writes the translation of s[a] to s[d] without faulting. -/
  | ptest (d a : BitVec 5)
  /-- PFX_C (R46): Prefix that names a remote core's semaphore file for the next word. -/
  | pfxC (coord : BitVec 8)
  /-- PFX_I (R46): Prefix that extends the next word's immediate to 40 bits. -/
  | pfxI (imm : BitVec 24)
  /-- FADD (R114): Adds the elements, rounding once under VSH. -/
  | fadd (p : BitVec 4) (d a b : VReg)
  /-- FSUB (R114): Subtracts the elements. -/
  | fsub (p : BitVec 4) (d a b : VReg)
  /-- FMUL (R114): Multiplies the elements. -/
  | fmul (p : BitVec 4) (d a b : VReg)
  /-- FMA (R114): Computes a × b + d with one rounding. -/
  | fma (p : BitVec 4) (d a b : VReg)
  /-- FMS (R114): Computes a × b − d with one rounding. -/
  | fms (p : BitVec 4) (d a b : VReg)
  /-- FNMA (R114): Computes −(a × b) + d with one rounding. -/
  | fnma (p : BitVec 4) (d a b : VReg)
  /-- FMIN (R115): Chooses the lesser element, with defined NaN handling. -/
  | fmin (p : BitVec 4) (d a b : VReg)
  /-- FMAX (R115): Chooses the greater element. -/
  | fmax (p : BitVec 4) (d a b : VReg)
  /-- FABS (R115): Clears the sign bit. -/
  | fabs (p : BitVec 4) (d a : VReg)
  /-- FNEG (R115): Inverts the sign bit. -/
  | fneg (p : BitVec 4) (d a : VReg)
  /-- FCMP_SET1 (R116): Quiet float compare, EQ, NE, LT or LE, writing predicate bits. -/
  | fcmpSet1 (p : BitVec 4) (cc : BitVec 2) (pd : BitVec 4) (a b : VReg)
  /-- FCMP_SET2 (R116): Quiet float compare, GT, GE, UN or OR, writing predicate bits. -/
  | fcmpSet2 (p : BitVec 4) (cc : BitVec 2) (pd : BitVec 4) (a b : VReg)
  /-- FRCP (R114): Writes the correctly rounded reciprocal. -/
  | frcp (p : BitVec 4) (d a : VReg)
  /-- FRSQ (R114): Writes the correctly rounded reciprocal square root. -/
  | frsq (p : BitVec 4) (d a : VReg)
  /-- FSQRT (R114): Writes the correctly rounded square root. -/
  | fsqrt (p : BitVec 4) (d a : VReg)
  /-- FDIV (R114): Writes the correctly rounded quotient. -/
  | fdiv (p : BitVec 4) (d a b : VReg)
  /-- FEXP2 (R114): Writes the correctly rounded 2^a. -/
  | fexp2 (p : BitVec 4) (d a : VReg)
  /-- FLOG2 (R114): Writes the correctly rounded log2 a. -/
  | flog2 (p : BitVec 4) (d a : VReg)
  /-- FCLASS (R117): Writes a one-hot class code for each element. -/
  | fclass (p : BitVec 4) (d a : VReg)
  /-- IADD (R118): Integer add modulo 2^w. -/
  | iadd (p : BitVec 4) (d a b : VReg)
  /-- IADDS (R118): Saturating integer add that counts each clamp. -/
  | iadds (p : BitVec 4) (d a b : VReg)
  /-- ISUB (R118): Integer subtract modulo 2^w. -/
  | isub (p : BitVec 4) (d a b : VReg)
  /-- IMUL (R118): Low half of the integer product. -/
  | imul (p : BitVec 4) (d a b : VReg)
  /-- IMULH (R118): High half of the integer product. -/
  | imulh (p : BitVec 4) (d a b : VReg)
  /-- IMAD (R118): Integer multiply-add modulo 2^w. -/
  | imad (p : BitVec 4) (d a b : VReg)
  /-- IMIN (R118): Integer minimum. -/
  | imin (p : BitVec 4) (d a b : VReg)
  /-- IMAX (R118): Integer maximum. -/
  | imax (p : BitVec 4) (d a b : VReg)
  /-- IABS (R118): Integer absolute value. -/
  | iabs (p : BitVec 4) (d a : VReg)
  /-- IAND (R118): Bitwise AND of the elements. -/
  | iand (p : BitVec 4) (d a b : VReg)
  /-- IOR (R118): Bitwise OR of the elements. -/
  | ior (p : BitVec 4) (d a b : VReg)
  /-- IXOR (R118): Bitwise XOR of the elements. -/
  | ixor (p : BitVec 4) (d a b : VReg)
  /-- INOT (R118): Bitwise complement of the elements. -/
  | inot (p : BitVec 4) (d a : VReg)
  /-- ISHL (R118): Shifts each element left. -/
  | ishl (p : BitVec 4) (d a b : VReg)
  /-- ISHR (R118): Shifts each element right logically. -/
  | ishr (p : BitVec 4) (d a b : VReg)
  /-- ISAR (R118): Shifts each element right arithmetically. -/
  | isar (p : BitVec 4) (d a b : VReg)
  /-- ICMP_SET1 (R119): Integer compare, EQ, NE, LT or LE, writing predicate bits. -/
  | icmpSet1 (p : BitVec 4) (cc : BitVec 2) (pd : BitVec 4) (a b : VReg)
  /-- ICMP_SET2 (R119): Integer compare, GT, GE, LTN or LEN, writing predicate bits. -/
  | icmpSet2 (p : BitVec 4) (cc : BitVec 2) (pd : BitVec 4) (a b : VReg)
  /-- CVT (R120): Converts elements from VSH.FMT to the named format. -/
  | cvt (p : BitVec 4) (d a : VReg) (fmt : BitVec 4)
  /-- CVTSR (R121): Converts elements with stochastic rounding. -/
  | cvtsr (p : BitVec 4) (d a : VReg) (fmt : BitVec 4)
  /-- BAMAX (R125): Writes the largest magnitude of each 256-element block. -/
  | bamax (p : BitVec 4) (d a : VReg)
  /-- BSCALE (R126): Multiplies each block's elements by its s24 scale. -/
  | bscale (p : BitVec 4) (d a b : VReg)
  /-- QNT (R127): Quantises f32 blocks to a block format, writing codes and scales. -/
  | qnt (p : BitVec 4) (d a : VReg) (fmt : BitVec 4)
  /-- DQNT (R128): Dequantises block codes to f32. -/
  | dqnt (p : BitVec 4) (d a : VReg) (fmt : BitVec 4)
  /-- PACK (R122): Converts a span of registers into fewer registers of a narrower format. -/
  | pack (p : BitVec 4) (d a : VReg) (fmt : BitVec 4)
  /-- UNPACK (R122): Converts a register into a span of registers of a wider format. -/
  | unpack (p : BitVec 4) (d a : VReg) (fmt : BitVec 4)
  /-- MOV (R133): Copies register bits. -/
  | mov (p : BitVec 4) (d a : VReg)
  /-- MOVI (R133): Writes an immediate to every active lane. -/
  | movi (p : BitVec 4) (d : VReg) (imm : BitVec 32)
  /-- MOVX (R133): Adds the strand lane number to a register. -/
  | movx (p : BitVec 4) (d a : VReg)
  /-- VGETX (R133): Copies an index register into two vector registers. -/
  | vgetx (p : BitVec 4) (d : VReg) (xa : BitVec 3)
  /-- VSETX (R133): Sets an index register from lane 0 of a register pair. -/
  | vsetx (p : BitVec 4) (xd : BitVec 3) (a : VReg)
  /-- PERM (R134): Permutes lanes within the cluster. -/
  | perm (p : BitVec 4) (d a b : VReg)
  /-- XPERM (R135): Permutes lanes across the strand's clusters. -/
  | xperm (p : BitVec 4) (d a b : VReg)
  /-- BCAST (R134): Broadcasts one lane's value within the cluster. -/
  | bcast (p : BitVec 4) (d a : VReg) (lane : BitVec 5)
  /-- LSHIFT (R134): Shifts lane values within the cluster. -/
  | lshift (p : BitVec 4) (d a b : VReg)
  /-- REDSUM (R136): Tree sum of the taking-part elements, written to each of them. -/
  | redsum (p : BitVec 4) (d a : VReg)
  /-- REDMAX (R136): Tree maximum of the taking-part elements. -/
  | redmax (p : BitVec 4) (d a : VReg)
  /-- SCAN (R136): Inclusive prefix sum by the fixed tree. -/
  | scan (p : BitVec 4) (d a : VReg)
  /-- VLD (R137): Contiguous lane load, optionally waiting for full lines (.f) or emptying them (.fe). -/
  | vld (p : BitVec 4) (mode : LoadMode) (d : VReg) (xa : BitVec 3) (disp : BitVec 30)
  /-- VST (R137): Contiguous lane store, optionally marking the lines full (.sf). -/
  | vst (p : BitVec 4) (mode : StoreMode) (d : VReg) (xa : BitVec 3) (disp : BitVec 30)
  /-- VLDS (R137): Strided lane load. -/
  | vlds (p : BitVec 4) (mode : LoadMode) (d : VReg) (xa xb : BitVec 3)
  /-- VSTS (R137): Strided lane store. -/
  | vsts (p : BitVec 4) (mode : StoreMode) (d : VReg) (xa xb : BitVec 3)
  /-- VLDX (R137): Indexed lane load. -/
  | vldx (p : BitVec 4) (mode : LoadMode) (d : VReg) (xa : BitVec 3) (b : VReg)
  /-- VSTX (R137): Indexed lane store. -/
  | vstx (p : BitVec 4) (mode : StoreMode) (d : VReg) (xa : BitVec 3) (b : VReg)
  /-- VSTM (R140): Marks the cluster's stage-SRAM line empty. -/
  | vstm (p : BitVec 4) (xa : BitVec 3) (disp : BitVec 6)
  /-- VTSTW (R143): Branches on a bit of the sticky status once the flags it covers are final. -/
  | vtstw (bit : BitVec 6) (off : BitVec 12)
  /-- PSET (R141): Sets predicate bits from an 8-bit immediate. -/
  | pset (p : BitVec 4) (pd : BitVec 4) (imm : BitVec 8)
  /-- PAND (R141): ANDs two predicates. -/
  | pand (p : BitVec 4) (pd pa pb : BitVec 4)
  /-- POR (R141): ORs two predicates. -/
  | por (p : BitVec 4) (pd pa pb : BitVec 4)
  /-- PXOR (R141): XORs two predicates. -/
  | pxor (p : BitVec 4) (pd pa pb : BitVec 4)
  /-- PNOT (R141): Inverts a predicate. -/
  | pnot (p : BitVec 4) (pd pa : BitVec 4)
  /-- PANY (R141): Writes 1 when any in-scope predicate bit of the cluster is set. -/
  | pany (p : BitVec 4) (d : VReg) (pa : BitVec 4)
  /-- PCNT (R141): Counts the set predicate bits of the cluster. -/
  | pcnt (p : BitVec 4) (d : VReg) (pa : BitVec 4)
  /-- VBR (R143): Branches on any, all or none of the in-scope predicate bits. -/
  | vbr (p : BitVec 4) (cond : BitVec 2) (off : BitVec 18)
  /-- VJMP (R143): Jumps unconditionally. -/
  | vjmp (off : BitVec 18)
  /-- VYIELD (R148): Lowers the strand's priority for the next choice. -/
  | vyield
  /-- VEXIT (R145): Ends the cluster's iteration and waits at the exit join. -/
  | vexit
  /-- VWAIT (R147): Stalls the cluster until a semaphore of the own file reaches x[b]. -/
  | vwait (m : BitVec 9) (xb : BitVec 3)
  /-- VSETSH_IMM (R109): Writes the issuing cluster's VSH from an immediate, optionally reseeding. -/
  | vsetshImm (imm : BitVec 24)
  /-- VSETSH_X (R109): Writes the issuing cluster's VSH from an index register. -/
  | vsetshX (xa : BitVec 3)
  /-- VNOP (R54): Does nothing. -/
  | vnop
  /-- VPFXR (R52): Prefix bundle that extends register fields to 10 bits. -/
  | vpfxr (e : Bool) (dh ah bh : BitVec 4)
  /-- VPFXI (R53): Prefix bundle that extends an immediate or a displacement. -/
  | vpfxi (imm : BitVec 24)
  /-- MMA (R159): One matrix multiply step into a held result of the accumulator. -/
  | mma (acc : BitVec 3) (hA hB : BitVec 6) (z : Bool)
  /-- MMABS (R159): One block-scaled matrix multiply step. -/
  | mmabs (acc : BitVec 3) (hA hB : BitVec 6) (z : Bool)
  /-- AZERO (R167): Zeroes all rows of the accumulator and clears their poison. -/
  | azero (acc : BitVec 3)
  /-- ALOAD (R167): Loads accumulator rows through a handle. -/
  | aload (acc : BitVec 3) (h : BitVec 6)
  /-- ASTORE (R168): Stores accumulator rows in a format through a handle. -/
  | astore (acc : BitVec 3) (h : BitVec 6) (n : BitVec 8)
  /-- AWM (R170): Sets the accumulator's watermark. -/
  | awm (acc : BitVec 3) (n : BitVec 8)
  /-- AWAIT (R171): Holds later steps until rows are committed and earlier ASTOREs performed. -/
  | await (acc : BitVec 3) (n : BitVec 8)
  /-- ASCALE (R169): Scales the accumulator's columns by an f32 row. -/
  | ascale (acc : BitVec 3) (h : BitVec 6)
  /-- ACVT (R169): Rounds the accumulator elements to a format and keeps them as f32. -/
  | acvt (acc : BitVec 3) (n : BitVec 8)
  /-- ACHK (R173): Scrubs the accumulator through its correcting code. -/
  | achk (acc : BitVec 3)
  /-- HSET (R156): Loads a tile handle from a stream address. -/
  | hset (h : BitVec 6) (st : BitVec 2)
  /-- HVER (R157): Overrides the weight version of a handle for the command. -/
  | hver (h : BitVec 6) (n : BitVec 8)
  /-- CTBL (R165): Loads and validates a decoder probability table. -/
  | ctbl (t : BitVec 8) (st : BitVec 2)
  /-- COPY (R196): Mover copy of n units per iteration. -/
  | copy (sa sb : BitVec 2) (f1 : BitVec 4) (n : BitVec 12)
  /-- FILL (R196): Mover fill with an 8-byte pattern. -/
  | fill (sa sb : BitVec 2) (f1 : BitVec 4) (n : BitVec 12)
  /-- GATHER (R197): Mover gather of units through an index list. -/
  | gather (sa sb sc : BitVec 2) (f1 : BitVec 4) (n : BitVec 12)
  /-- SCATTER (R197): Mover scatter of units through an index list. -/
  | scatter (sa sb sc : BitVec 2) (f1 : BitVec 4) (n : BitVec 12)
  /-- MCAST (R198): Copies data to every receiver of a list and adds to each receiver's semaphore. -/
  | mcast (sa sc : BitVec 2) (f1 : BitVec 4) (n : BitVec 12)
  /-- CHSEND (R199): Sends one slot on a tensor channel once window is available, then publishes it. -/
  | chsend (sa : BitVec 2) (q : BitVec 8) (n : BitVec 12)
  /-- XFORM_CONVERT (R201): Converts blocks of 256 elements between formats. -/
  | xformConvert (sa sb : BitVec 2) (f1 f2 : BitVec 4) (n : BitVec 12)
  /-- XFORM_COMPRESS (R201): Compresses 4 KiB blocks by a method. -/
  | xformCompress (sa sb : BitVec 2) (method : BitVec 4) (n : BitVec 12)
  /-- XFORM_EXPAND (R201): Expands compressed 4 KiB blocks. -/
  | xformExpand (sa sb : BitVec 2) (f1 method : BitVec 4) (n : BitVec 12)
  /-- ENC (R202): Codes plain tiles and appends them through a descriptor. -/
  | enc (sa sb : BitVec 2) (f1 t : BitVec 4) (n : BitVec 12)
  /-- DEC (R203): Decodes coded tiles into plain tiles. -/
  | dec (sa sb : BitVec 2) (f1 : BitVec 4) (n : BitVec 12)
  /-- DCOPY (R204): Copies DRAM rows inside the DOU. -/
  | dcopy (sa sb : BitVec 2) (n : BitVec 12)
  /-- DFILL (R204): Fills DRAM rows with an 8-byte pattern. -/
  | dfill (sa sb : BitVec 2) (n : BitVec 12)
  /-- DAND (R204): ANDs DRAM rows. -/
  | dand (sa sb sc : BitVec 2) (n : BitVec 12)
  /-- DOR (R204): ORs DRAM rows. -/
  | dor (sa sb sc : BitVec 2) (n : BitVec 12)
  /-- DXOR (R204): XORs DRAM rows. -/
  | dxor (sa sb sc : BitVec 2) (n : BitVec 12)
  /-- DNOT (R204): Complements DRAM rows. -/
  | dnot (sa sb : BitVec 2) (n : BitVec 12)
  /-- DGSUM (R205): Pools bags of table rows in the base die into stage SRAM. -/
  | dgsum (sa sb sc : BitVec 2) (f1 : BitVec 4) (n : BitVec 12)
  /-- SPUT (R206): Hands a tensor to the stash, held under COMMIT=1. -/
  | sput (sa : BitVec 2) (slot n : BitVec 12)
  /-- SGET (R206): Lands a stashed tensor and writes its record. -/
  | sget (sa : BitVec 2) (slot n : BitVec 12)
  /-- SDROP (R206): Discards a stashed tensor or records the name as dropped. -/
  | sdrop (slot : BitVec 12)
  /-- SPREF (R296): Prefetches a spilled tensor into the store. -/
  | spref (slot : BitVec 12)
  /-- SQRY (R206): Writes the stash record of a name. -/
  | sqry (sa : BitVec 2) (slot : BitVec 12)
  /-- CRED (R348): Hands a chunk to the carousel for reduce-scatter. -/
  | cred (sa : BitVec 2) (chunk : BitVec 12) (fmt : BitVec 4) (bucket : BitVec 8)
  /-- CGATH (R349): Hands a chunk to the carousel for all-gather. -/
  | cgath (sa : BitVec 2) (chunk : BitVec 12) (fmt : BitVec 4) (bucket : BitVec 8)
  /-- CBAR (R350): Finishes when every earlier step of its bucket has finished. -/
  | cbar (bucket : BitVec 8)
  /-- CHECKED_OP_EFFECT (R77): A checked operation takes effect when the shadow's matching copy arrives. -/
  | checkedOpEffect (core : Nat) (ok : Bool)
  /-- LOAD_DATA_RETURN (R76): A load's data arrive and the register holds its result. -/
  | loadDataReturn (dst : LoadDst)
  /-- STORE_PERFORMED (R82): A pending store is performed or acknowledged at its home, which frees a store-buffer entry. -/
  | storePerformed (src : StoreSrc)
  /-- STALLED_ISSUE_RESUME (R96): A word stalled on a full queue, check queue or store buffer issues once room appears. -/
  | stalledIssueResume (core : Nat)
  /-- SEMWAIT_RELEASE (R85): A semaphore waiter is released when its condition holds after an operation. -/
  | semwaitRelease (core : Nat)
  /-- WAIT_INTERRUPTED (R404): An interrupt ends a wait with no effect, so the word executes again later. -/
  | waitInterrupted (w : Waiter)
  /-- RING_WAIT_RELEASE (R88): An RWAITF or RWAITE waiter is released in arrival order. -/
  | ringWaitRelease (core : Nat)
  /-- BWAIT_RELEASE (R91): Barrier waiters are released when the phase changes. -/
  | bwaitRelease (core : Nat)
  /-- TLWAIT_RELEASE (R93): A TLWAIT is released when the counter reaches the awaited count. -/
  | tlwaitRelease (core : Nat)
  /-- TEND_REPORT (R99): Once its commands have retired, TEND reports the core's share to the ringmaster. -/
  | tendReport (core : Nat)
  /-- VWAIT_RELEASE (R147): A cluster's VWAIT is released when the semaphore reaches the value. -/
  | vwaitRelease (core strand rank : Nat)
  /-- FULL_WAIT_RELEASE (R140): A .f or .fe load or a handle FE wait proceeds once its lines are full. -/
  | fullWaitRelease (w : Waiter)
  /-- SYNC_BUNDLE_JOIN (R144): A synced bundle issues when every member cluster waits at it. -/
  | syncBundleJoin (core strand : Nat)
  /-- VEXIT_JOIN (R145): When every member has executed VEXIT, the next iteration starts or the strand ends. -/
  | vexitJoin (core strand : Nat)
  /-- STARVATION_COUNT_EXPIRY (R219): A strand whose starvation count reaches 256 issues in pass 1. -/
  | starvationCountExpiry (core strand : Nat)
  /-- VCC_RESUME (R222): A late synced-group load's data become usable and the virtual cycle counter resumes. -/
  | vccResume (core : Nat)
  /-- COMMAND_HEAD_CHECK (R188): A command that reaches the head of its queue is checked, and its body is fetched. -/
  | commandHeadCheck (q : QId)
  /-- COMMAND_WAITS_MET (R188): WVAL and the waited tokens are met in one step; the tokens are popped and the writes acquired. -/
  | commandWaitsMet (q : QId)
  /-- STRAND_CREATE (R213): Creates a strand once slots are free and windows do not overlap. -/
  | strandCreate (core : Nat)
  /-- CHAINED_COMMAND_START (R176): A chained matrix command runs once its mover has landed its last byte. -/
  | chainedCommandStart (core : Nat)
  /-- COMMAND_COMPLETE (R188): Every write of the command, including its status word, has been performed. -/
  | commandComplete (q : QId) (num : Nat)
  /-- COMMAND_SIGNAL (R188): Pushes tokens, adds SADD and makes the timeline number countable, in number order, once the token queues have room. -/
  | commandSignal (q : QId) (num : Nat)
  /-- MCAST_LANDING (R198): A receiver's copy has landed, and its semaphore receives the add. -/
  | mcastLanding (q : QId) (num idx : Nat)
  /-- MATRIX_STEP_CHECK (R172): The checker compares the step's sums; the held result is committed on a match. -/
  | matrixStepCheck (core : Nat) (ok : Bool)
  /-- PIN_WAIT_RELEASE (R163): The fetcher proceeds once enough lines are unpinned or the quota allows. -/
  | pinWaitRelease (core : Nat)
  /-- PIN_TIMEOUT (R163): After 2^20 cycles of a quota stall, the core takes a pin-timeout trap. -/
  | pinTimeout (core : Nat)
  /-- CUT_COMPLETE (R377): When every per-core queue has stopped, CUTS.V becomes set. -/
  | cutComplete (core : Nat)
  /-- QCTL_DISCARD (R378): A write to QCTL discards the stopped or faulted command of a queue. -/
  | qctlDiscard (core bit : Nat)
  /-- STRCTL_END_STRAND (R380): A write to STRCTL ends the faulted strand. -/
  | strctlEndStrand (core : Nat)
  /-- STRAND_DRAIN_TIMEOUT (R381): A strand that has not reached its boundary within 2^16 cycles is saved whole. -/
  | strandDrainTimeout (core strand : Nat)
  /-- RINGMASTER_ROUND (R282): The ringmaster chooses a task for a stage from reruns, the age limit or the playbill. -/
  | ringmasterRound (ctx stage : Nat)
  /-- TASK_RETIRE (R285): Commits or flips, queues the next phase, releases the tag and counts W retirements. -/
  | taskRetire (ctx stage task : Nat)
  /-- STASH_LOOKAHEAD (R296): The ringmaster prefetches the tensors of the first two B tasks into the store. -/
  | stashLookahead (ctx stage : Nat)
  /-- CHSEND_WINDOW_GRANT (R302): A waiting CHSEND step takes window and a sequence number. -/
  | chsendWindowGrant (ctx ring : Nat)
  /-- CHANNEL_LANDING (R302): Channel bytes land in the consumer's slot. -/
  | channelLanding (ctx ring slot : Nat) (first : Nat) (bytes : List (BitVec 8)) (poisoned : Bool)
  /-- CHANNEL_PUBLISH (R303): Marks the slot filled, advances F and adds arrivals to the consumer stage. -/
  | channelPublish (ctx ring seq : Nat) (tag : BitVec 16) (void : Bool)
  /-- CHANNEL_ADVERTISEMENT (R304): The producer receives the freed count and sets its window. -/
  | channelAdvertisement (ctx ring : Nat) (freed : BitVec 32)
  /-- CAROUSEL_CONSUME (R352): A carousel step consumes its send semaphore once it is at least 1, then sends. -/
  | carouselConsume (ctx die chunk : Nat)
  /-- CAROUSEL_REDUCE_ARRIVAL (R348): A reduce partial arrives and lands in a slot, with an add to ASEM. -/
  | carouselReduceArrival (ctx die : Nat) (msg : RingWire)
  /-- CAROUSEL_GATHER_ARRIVAL (R349): A gather message lands in the data and is forwarded when the step says so. -/
  | carouselGatherArrival (ctx die : Nat) (msg : RingWire)
  /-- LOAD_LTT (R273): Packet that places the context from a placement image. -/
  | loadLtt (ctx : Nat)
  /-- DECLARE_STAGE (R274): Packet that declares a stage and reads its stage block. -/
  | declareStage (ctx : Nat)
  /-- LAUNCH (R276): Packet that raises the curtain across the listed W4s. -/
  | launch (ctx : Nat)
  /-- PREEMPT (R381): Packet that stops, drains and saves the context. -/
  | preempt (ctx : Nat)
  /-- PREEMPT_SAVED (R381): After the drain, state is saved, STATE becomes SAVED and a saved record is sent. -/
  | preemptSaved (ctx : Nat)
  /-- RESUME (R382): Packet that restores a saved context. -/
  | resume (ctx : Nat)
  /-- KILL (R272): Packet that kills the context and sends a killed record. -/
  | kill (ctx : Nat)
  /-- CURTAIN_MESSAGE (R277): A W4 receives the forwarded LAUNCH, checks GEN and state, and reports arrival or a fault. -/
  | curtainMessage (ctx : Nat) (gen : BitVec 32) (start : BitVec 56) (tag0 mbnm1 : BitVec 16) (list : CurtainList)
  /-- CURTAIN_REPORT (R277): The root collects an arrival or fault report. -/
  | curtainReport (ctx w4 : Nat) (fault : Bool)
  /-- CURTAIN_RISE (R278): Enters RUNNING, starts sequencers at START and joins channel ends. -/
  | curtainRise (ctx : Nat) (joins : List ChannelJoin)
  /-- CURTAIN_FALL (R277): Returns the contexts to LOADED and sends curtain-fault records. -/
  | curtainFall (ctx : Nat) (err : BitVec 8) (fallen : CurtainFallen)
  /-- CURTAIN_TIMEOUT (R277): CTO expires at the root before the rise. -/
  | curtainTimeout (ctx : Nat)
  /-- LOSS_MESSAGE (R389): Another W4 of the launch receives the loss and loses its part with class 16. -/
  | lossMessage (ctx : Nat) (w4 : BitVec 24)
  /-- FLIT_RECEIVE (R361): A flit is checked by CRC and either delivered in order or rejected for replay. -/
  | flitReceive (port : Nat) (flit : List (BitVec 8))
  /-- LINK_DOWN (R361): The link is down after 16 failures of one flit or 1 ms untrained. -/
  | linkDown (port : Nat) (lost : List (BitVec 24)) (ranks : List Nat)
  /-- REMOTE_STORE_ACK (R254): The home acknowledges a remote store. -/
  | remoteStoreAck (src : StoreSrc)
  /-- HOST_MEM_ACCESS (R364): A host CXL.mem read or write is served at the line's home L2. -/
  | hostMemAccess (write : Bool) (addr : Nat) (data : List (BitVec 8))
  /-- LRBASE_WRITE (R268): Sets the ring base and zeroes LRHEAD, only in EMPTY. -/
  | lrbaseWrite (ctx : Nat) (value : BitVec 64)
  /-- LRSIZE_WRITE (R269): Sets the ring size, or is refused and sets BADW. -/
  | lrsizeWrite (ctx : Nat) (value : BitVec 64)
  /-- LRTAIL_WRITE (R270): Doorbell that lets the front end read and carry out packets. -/
  | lrtailWrite (ctx : Nat) (value : BitVec 64)
  /-- LRSTAT_WRITE (R270): W1C write; clearing STOP makes the front end read the packet again. -/
  | lrstatWrite (ctx : Nat) (value : BitVec 64)
  /-- LRKILL_WRITE (R268): Kills the context at once, as KILL does. -/
  | lrkillWrite (ctx : Nat) (value : BitVec 64)
  /-- LTTCMD_WRITE (R341): Writes the staged translation entry at an index, or refuses. -/
  | lttcmdWrite (ctx : Nat) (value : BitVec 64)
  /-- LTTCMD_REMOVE (R341): Removes a translation entry in LOADED. -/
  | lttcmdRemove (ctx : Nat) (value : BitVec 64)
  /-- LTTCMD_RESUME (R341): Makes every waiting PROBE execute again. -/
  | lttcmdResume (ctx : Nat) (value : BitVec 64)
  /-- DBGCTL_HALT (R384): Halts the context's or one core's sequencers and strands. -/
  | dbgctlHalt (ctx : Nat) (value : BitVec 64)
  /-- DBGCTL_RESUME (R384): Resumes a debug-halted context or core. -/
  | dbgctlResume (ctx : Nat) (value : BitVec 64)
  /-- EVBASE_WRITE (R390): Sets the event ring base and zeroes EVHEAD and EVTAIL. -/
  | evbaseWrite (ctx : Nat) (value : BitVec 64)
  /-- EVSIZE_WRITE (R390): Sets the event ring size, or is refused and sets BADW. -/
  | evsizeWrite (ctx : Nat) (value : BitVec 64)
  /-- EVHEAD_WRITE (R390): The owner advances EVHEAD, making room for records. -/
  | evheadWrite (ctx : Nat) (value : BitVec 64)
  /-- REGISTER_WRITE (R269): A write to a register without behaviour of its own, such as CRCFG, CRTAB or LTTD. -/
  | registerWrite (ctx : Nat) (offset : BitVec 12) (value : BitVec 64)
  /-- MODULE_RESET (R369): Bring-up verifies firmware, derives identity, applies configuration, trains links and sets READY. -/
  | moduleReset (fw : Bringup)
  /-- WEAR_SAMPLE (R394): The 1 ms sample accrues wear, updates WREC and charges contexts. -/
  | wearSample (samples : List WearReading)
  /-- WEAR_FLASH_WRITE (R397): Every 60 s the wear records are written to flash. -/
  | wearFlashWrite
  /-- CLOCK_CHANGE_START (R399): A derated core changes clock once its sequencer idles in TNEXT. -/
  | clockChangeStart (core : Nat)
  /-- CLOCK_CHANGE_COMPLETE (R399): The 10 µs clock change ends and the core is free again. -/
  | clockChangeComplete (core : Nat)
  /-- LANE_REPAIR (R368): Firmware maps a failing HBM lane to a redundant one and pauses the channel. -/
  | laneRepair (stack channel : Nat)
  /-- LANE_REPAIR_DONE (R368): The channel pause ends and waiting accesses complete. -/
  | laneRepairDone (stack channel : Nat)
  /-- TNEXT_ANSWER_ARRIVAL (R284): The ringmaster's answer reaches a crew core, TNEXT writes the task registers and the core jumps to the entry point. -/
  | tnextAnswerArrival (core : Nat)
  /-- REMOTE_RESULT_RETURN (R96): The result of a remote semaphore, ring, set, DRAW or TQUERY word, of a TLREAD of a shared counter, or a CPUSH number from a shared engine, reaches s[d]. -/
  | remoteResultReturn (core : Nat) (d : BitVec 5)
  /-- REMOTE_ACCESS_AT_HOME (R254): A store or lease request for a line homed on this W4 arrives from another W4, is performed or served at the home, and is acknowledged. -/
  | remoteAccessAtHome (acc : HomeAccess)
  /-- LEASE_EXPIRY (R253): After 2 µs of wall time a leased read-only copy of a remote-homed line stops serving loads, and the next load must renew it at the home. -/
  | leaseExpiry (line : Nat)
  /-- DIRTY_SECTOR_WRITE_BACK (R321): The W4 writes a dirty L2 sector back to memory on its own, and for a compressed range the codec does it as a read-modify-write with a CRC check and possible poisoning. -/
  | dirtySectorWriteBack (sector : Nat)
  /-- POWER_LOSS (R397): The module loses power, and all state goes with it except the wear records last written to flash. -/
  | powerLoss
  deriving DecidableEq, Repr

end Sys2Proof
end

