-- ==== Sys2Proof/WellFormed.lean ====
section
/-!
DEFINITION. Sys2Proof/WellFormed.lean: the limits that the encoding rules put on operands: 02 R45 (TNEXT), R43 (timelines), R44
(CSTAT), R30 (coordinates), R49, R52, R54 (vector fields), R58, R59 (step words). An instruction that breaks one is illegal (R48,
R56) or makes its command take a command fault (R60).
-/
namespace Sys2Proof

/-- A valid core coordinate (R30). -/
def coordOk (c : Nat) : Bool :=
  let row := c / 8 % 16
  decide (row ≤ 7) || (row == 8 && decide (c % 8 ≤ 3))

/-- A timeline selector with its instance (R43). -/
def tlOk (sel inst : Nat) : Bool :=
  if sel ≤ 5 then inst == 0 else if sel ≤ 7 then decide (inst ≤ 1) else sel == 8 && decide (inst ≤ 7)

/-- An engine code with its queue or instance (R44, R48). -/
def cstatOk (eng k : Nat) : Bool :=
  if eng ≤ 1 then k == 0 else if eng ≤ 5 then decide (k ≤ 1) else eng == 6 && decide (k ≤ 7)

/-- A stream number of a step word (R60). -/
def streamOk (s : BitVec 2) : Bool := decide (s.toNat ≤ 2)

/-- A format of the weight coder (R202). -/
def codedFmt (f : Nat) : Bool := f == 2 || f == 4 || f == 5 || f == 6

/-- A vector register field that needs VPFXR (R49). -/
def VReg.high : VReg → Bool
  | .win n => decide (56 ≤ n.toNat)
  | .ind _ => false

/-- A vector register field that VPFXR cannot give (R52). -/
def VReg.isInd : VReg → Bool
  | .win _ => false
  | .ind _ => true

/-- One word encodes these register fields together (R49, R52). -/
def vregsOk (rs : List VReg) : Bool := !(rs.any VReg.high && rs.any VReg.isInd)

/-- The operands of an instruction are inside their limits. -/
def Instr.wf : Instr → Bool
  | .add _ _ _ => true
  | .sub _ _ _ => true
  | .mul _ _ _ => true
  | .mulh _ _ _ => true
  | .mulhn _ _ _ => true
  | .div _ _ _ => true
  | .divn _ _ _ => true
  | .rem _ _ _ => true
  | .remn _ _ _ => true
  | .and _ _ _ => true
  | .or _ _ _ => true
  | .xor _ _ _ => true
  | .shl _ _ _ => true
  | .shr _ _ _ => true
  | .sar _ _ _ => true
  | .min _ _ _ => true
  | .max _ _ _ => true
  | .minn _ _ _ => true
  | .maxn _ _ _ => true
  | .slt _ _ _ => true
  | .sltn _ _ _ => true
  | .clz _ _ => true
  | .popc _ _ => true
  | .sel _ _ _ _ => true
  | .addi _ _ _ => true
  | .andi _ _ _ => true
  | .ori _ _ _ => true
  | .xori _ _ _ => true
  | .shli _ _ _ => true
  | .shri _ _ _ => true
  | .sari _ _ _ => true
  | .slti _ _ _ => true
  | .movhi _ _ => true
  | .ldB _ _ _ => true
  | .ldH _ _ _ => true
  | .ldW _ _ _ => true
  | .ldD _ _ _ => true
  | .ldsB _ _ _ => true
  | .ldsH _ _ _ => true
  | .ldsW _ _ _ => true
  | .ldsD _ _ _ => true
  | .stB _ _ _ => true
  | .stH _ _ _ => true
  | .stW _ _ _ => true
  | .stD _ _ _ => true
  | .bEq _ _ _ => true
  | .bNe _ _ _ => true
  | .bLt _ _ _ => true
  | .bGe _ _ _ => true
  | .bLtn _ _ _ => true
  | .bGen _ _ _ => true
  | .j _ => true
  | .jal _ => true
  | .jr _ _ => true
  | .tstw _ _ _ => true
  | .semadd _ _ _ => true
  | .semaddc _ _ => true
  | .semcas _ _ _ => true
  | .semset _ _ => true
  | .semread _ _ => true
  | .semwait _ _ => true
  | .draw _ _ => true
  | .rclaim _ _ => true
  | .rfill _ _ => true
  | .rwaitf _ => true
  | .rwaite _ => true
  | .rtake _ _ => true
  | .rfree _ _ => true
  | .rstat _ _ => true
  | .join _ => true
  | .leave _ => true
  | .arrive _ _ => true
  | .bwait _ _ => true
  | .btest _ _ _ => true
  | .tlwait _ ctr inst => tlOk ctr.toNat inst.toNat
  | .tlread _ ctr inst => tlOk ctr.toNat inst.toNat
  | .xfenceO2E => true
  | .xfenceE2O => true
  | .cload _ _ _ => true
  | .cset _ _ _ => true
  | .cseti _ _ _ => true
  | .cpush _ _ => true
  | .cstat _ eng k => cstatOk eng.toNat k.toNat
  | .tnext d => decide (1 ≤ d.toNat ∧ d.toNat ≤ 26)
  | .tend => true
  | .tabort => true
  | .tquery _ _ => true
  | .nop => true
  | .halt => true
  | .trap _ => true
  | .eret => true
  | .sysr _ _ => true
  | .sysw _ _ => true
  | .probe _ => true
  | .clean _ _ => true
  | .inval _ _ => true
  | .ptest _ _ => true
  | .pfxC coord => coordOk coord.toNat
  | .pfxI _ => true
  | .fadd _ d a b => vregsOk [d, a, b]
  | .fsub _ d a b => vregsOk [d, a, b]
  | .fmul _ d a b => vregsOk [d, a, b]
  | .fma _ d a b => vregsOk [d, a, b]
  | .fms _ d a b => vregsOk [d, a, b]
  | .fnma _ d a b => vregsOk [d, a, b]
  | .fmin _ d a b => vregsOk [d, a, b]
  | .fmax _ d a b => vregsOk [d, a, b]
  | .fabs _ d a => vregsOk [d, a]
  | .fneg _ d a => vregsOk [d, a]
  | .fcmpSet1 _ _ pd a b => vregsOk [a, b] && pd != 0
  | .fcmpSet2 _ _ pd a b => vregsOk [a, b] && pd != 0
  | .frcp _ d a => vregsOk [d, a]
  | .frsq _ d a => vregsOk [d, a]
  | .fsqrt _ d a => vregsOk [d, a]
  | .fdiv _ d a b => vregsOk [d, a, b]
  | .fexp2 _ d a => vregsOk [d, a]
  | .flog2 _ d a => vregsOk [d, a]
  | .fclass _ d a => vregsOk [d, a]
  | .iadd _ d a b => vregsOk [d, a, b]
  | .iadds _ d a b => vregsOk [d, a, b]
  | .isub _ d a b => vregsOk [d, a, b]
  | .imul _ d a b => vregsOk [d, a, b]
  | .imulh _ d a b => vregsOk [d, a, b]
  | .imad _ d a b => vregsOk [d, a, b]
  | .imin _ d a b => vregsOk [d, a, b]
  | .imax _ d a b => vregsOk [d, a, b]
  | .iabs _ d a => vregsOk [d, a]
  | .iand _ d a b => vregsOk [d, a, b]
  | .ior _ d a b => vregsOk [d, a, b]
  | .ixor _ d a b => vregsOk [d, a, b]
  | .inot _ d a => vregsOk [d, a]
  | .ishl _ d a b => vregsOk [d, a, b]
  | .ishr _ d a b => vregsOk [d, a, b]
  | .isar _ d a b => vregsOk [d, a, b]
  | .icmpSet1 _ _ pd a b => vregsOk [a, b] && pd != 0
  | .icmpSet2 _ _ pd a b => vregsOk [a, b] && pd != 0
  | .cvt _ d a _ => vregsOk [d, a]
  | .cvtsr _ d a _ => vregsOk [d, a]
  | .bamax _ d a => vregsOk [d, a]
  | .bscale _ d a b => vregsOk [d, a, b]
  | .qnt _ d a _ => vregsOk [d, a]
  | .dqnt _ d a _ => vregsOk [d, a]
  | .pack _ d a _ => vregsOk [d, a]
  | .unpack _ d a _ => vregsOk [d, a]
  | .mov _ d a => vregsOk [d, a]
  | .movi _ _ _ => true
  | .movx _ d a => vregsOk [d, a]
  | .vgetx _ _ _ => true
  | .vsetx _ _ _ => true
  | .perm _ d a b => vregsOk [d, a, b]
  | .xperm _ d a b => vregsOk [d, a, b]
  | .bcast _ d a _ => vregsOk [d, a]
  | .lshift _ d a b => vregsOk [d, a, b]
  | .redsum _ d a => vregsOk [d, a]
  | .redmax _ d a => vregsOk [d, a]
  | .scan _ d a => vregsOk [d, a]
  | .vld _ _ _ _ _ => true
  | .vst _ _ _ _ _ => true
  | .vlds _ _ _ _ _ => true
  | .vsts _ _ _ _ _ => true
  | .vldx _ _ d _ b => vregsOk [d, b]
  | .vstx _ _ d _ b => vregsOk [d, b]
  | .vstm _ _ _ => true
  | .vtstw _ _ => true
  | .pset _ pd _ => pd != 0
  | .pand _ pd _ _ => pd != 0
  | .por _ pd _ _ => pd != 0
  | .pxor _ pd _ _ => pd != 0
  | .pnot _ pd _ => pd != 0
  | .pany _ _ _ => true
  | .pcnt _ _ _ => true
  | .vbr _ cond _ => decide (cond.toNat ≤ 2)
  | .vjmp _ => true
  | .vyield => true
  | .vexit => true
  | .vwait _ _ => true
  | .vsetshImm _ => true
  | .vsetshX _ => true
  | .vnop => true
  | .vpfxr e dh ah bh => e || (dh == 0 && ah == 0 && bh == 0)
  | .vpfxi _ => true
  | .mma _ _ _ _ => true
  | .mmabs _ _ _ _ => true
  | .azero _ => true
  | .aload _ _ => true
  | .astore _ _ n => decide (n.toNat ≤ 15)
  | .awm _ n => decide (n.toNat ≤ 96)
  | .await _ n => decide (1 ≤ n.toNat ∧ n.toNat ≤ 96)
  | .ascale _ _ => true
  | .acvt _ n => decide (n.toNat ≤ 15)
  | .achk _ => true
  | .hset _ st => streamOk st
  | .hver _ n => decide (n.toNat ≤ 7)
  | .ctbl t st => decide (t.toNat ≤ 15) && streamOk st
  | .copy sa sb f1 _ => streamOk sa && streamOk sb && decide (f1.toNat ≤ 7)
  | .fill sa sb f1 _ => streamOk sa && streamOk sb && decide (f1.toNat ≤ 7)
  | .gather sa sb sc f1 _ => streamOk sa && streamOk sb && streamOk sc && decide (f1.toNat ≤ 7)
  | .scatter sa sb sc f1 _ => streamOk sa && streamOk sb && streamOk sc && decide (f1.toNat ≤ 7)
  | .mcast sa sc f1 _ => streamOk sa && streamOk sc && decide (f1.toNat ≤ 7)
  | .chsend sa _ n => streamOk sa && decide (1 ≤ n.toNat ∧ n.toNat ≤ 512)
  | .xformConvert sa sb _ _ _ => streamOk sa && streamOk sb
  | .xformCompress sa sb method _ => streamOk sa && streamOk sb && decide (1 ≤ method.toNat ∧ method.toNat ≤ 3)
  | .xformExpand sa sb f1 method _ => streamOk sa && streamOk sb && f1 == 0 && decide (1 ≤ method.toNat ∧ method.toNat ≤ 3)
  | .enc sa sb f1 _ _ => streamOk sa && streamOk sb && codedFmt f1.toNat
  | .dec sa sb f1 _ => streamOk sa && streamOk sb && codedFmt f1.toNat
  | .dcopy sa sb _ => streamOk sa && streamOk sb
  | .dfill sa sb _ => streamOk sa && streamOk sb
  | .dand sa sb sc _ => streamOk sa && streamOk sb && streamOk sc
  | .dor sa sb sc _ => streamOk sa && streamOk sb && streamOk sc
  | .dxor sa sb sc _ => streamOk sa && streamOk sb && streamOk sc
  | .dnot sa sb _ => streamOk sa && streamOk sb
  | .dgsum sa sb sc f1 n => streamOk sa && streamOk sb && streamOk sc && decide (1 ≤ f1.toNat ∧ f1.toNat ≤ 2) && decide (1 ≤ n.toNat ∧ n.toNat ≤ 8)
  | .sput sa _ _ => streamOk sa
  | .sget sa _ _ => streamOk sa
  | .sdrop _ => true
  | .spref _ => true
  | .sqry sa _ => streamOk sa
  | .cred sa _ _ _ => streamOk sa
  | .cgath sa _ _ _ => streamOk sa
  | .cbar _ => true
  | .checkedOpEffect _ _ => true
  | .loadDataReturn _ => true
  | .storePerformed _ => true
  | .stalledIssueResume _ => true
  | .semwaitRelease _ => true
  | .waitInterrupted _ => true
  | .ringWaitRelease _ => true
  | .bwaitRelease _ => true
  | .tlwaitRelease _ => true
  | .tendReport _ => true
  | .vwaitRelease _ _ _ => true
  | .fullWaitRelease _ => true
  | .syncBundleJoin _ _ => true
  | .vexitJoin _ _ => true
  | .starvationCountExpiry _ _ => true
  | .vccResume _ => true
  | .commandHeadCheck _ => true
  | .commandWaitsMet _ => true
  | .strandCreate _ => true
  | .chainedCommandStart _ => true
  | .commandComplete _ _ => true
  | .commandSignal _ _ => true
  | .mcastLanding _ _ _ => true
  | .matrixStepCheck _ _ => true
  | .pinWaitRelease _ => true
  | .pinTimeout _ => true
  | .cutComplete _ => true
  | .qctlDiscard _ _ => true
  | .strctlEndStrand _ => true
  | .strandDrainTimeout _ _ => true
  | .ringmasterRound _ _ => true
  | .taskRetire _ _ _ => true
  | .stashLookahead _ _ => true
  | .chsendWindowGrant _ _ => true
  | .channelLanding _ _ _ _ _ _ => true
  | .channelPublish _ _ _ _ _ => true
  | .channelAdvertisement _ _ _ => true
  | .carouselConsume _ _ _ => true
  | .carouselReduceArrival _ _ _ => true
  | .carouselGatherArrival _ _ _ => true
  | .loadLtt _ => true
  | .declareStage _ => true
  | .launch _ => true
  | .preempt _ => true
  | .preemptSaved _ => true
  | .resume _ => true
  | .kill _ => true
  | .curtainMessage _ _ _ _ _ _ => true
  | .curtainReport _ _ _ => true
  | .curtainRise _ _ => true
  | .curtainFall _ _ _ => true
  | .curtainTimeout _ => true
  | .lossMessage _ _ => true
  | .flitReceive _ _ => true
  | .linkDown _ _ _ => true
  | .remoteStoreAck _ => true
  | .hostMemAccess _ _ _ => true
  | .lrbaseWrite _ _ => true
  | .lrsizeWrite _ _ => true
  | .lrtailWrite _ _ => true
  | .lrstatWrite _ _ => true
  | .lrkillWrite _ _ => true
  | .lttcmdWrite _ _ => true
  | .lttcmdRemove _ _ => true
  | .lttcmdResume _ _ => true
  | .dbgctlHalt _ _ => true
  | .dbgctlResume _ _ => true
  | .evbaseWrite _ _ => true
  | .evsizeWrite _ _ => true
  | .evheadWrite _ _ => true
  | .registerWrite _ _ _ => true
  | .moduleReset _ => true
  | .wearSample _ => true
  | .wearFlashWrite => true
  | .clockChangeStart _ => true
  | .clockChangeComplete _ => true
  | .laneRepair _ _ => true
  | .laneRepairDone _ _ => true
  | .tnextAnswerArrival _ => true
  | .remoteResultReturn _ _ => true
  | .remoteAccessAtHome _ => true
  | .leaseExpiry _ => true
  | .dirtySectorWriteBack _ => true
  | .powerLoss => true

end Sys2Proof
end

