-- ==== Sys2Proof/Decode.lean ====
section
/-!
DEFINITION. Sys2Proof/Decode.lean: from bits to instructions (02 R38-R60), one decoder per opcode space, and after it the encoders
of the same tables. Decoding is total: a word that is no instruction of its space gives `none`. The limits of operands are
WellFormed.lean's.
-/
namespace Sys2Proof

/-- The n bits of w from bit lo up. -/
def fld (w lo n : Nat) : Nat := w / 2 ^ lo % 2 ^ n

/-- The n bits of w from bit lo up, as a field. -/
def bfld (w lo n : Nat) : BitVec n := BitVec.ofNat n (w / 2 ^ lo)

/-- An instruction whose listed fields must be zero (R48, R60). -/
def whenZero (zs : List Nat) (i : Instr) : Option Instr := if zs.all (· == 0) then some i else none

/-! ### Sequencer words -/

/-- The integer group (R42), function f. -/
def decodeInt (f w : Nat) : Option Instr :=
  let d := bfld w 21 5
  let a := bfld w 16 5
  let b := bfld w 11 5
  let z := fld w 6 5
  match f with
  | 0x00 => whenZero [z] (.add d a b)
  | 0x01 => whenZero [z] (.sub d a b)
  | 0x02 => whenZero [z] (.mul d a b)
  | 0x03 => whenZero [z] (.mulh d a b)
  | 0x04 => whenZero [z] (.mulhn d a b)
  | 0x05 => whenZero [z] (.div d a b)
  | 0x06 => whenZero [z] (.divn d a b)
  | 0x07 => whenZero [z] (.rem d a b)
  | 0x08 => whenZero [z] (.remn d a b)
  | 0x09 => whenZero [z] (.and d a b)
  | 0x0A => whenZero [z] (.or d a b)
  | 0x0B => whenZero [z] (.xor d a b)
  | 0x0C => whenZero [z] (.shl d a b)
  | 0x0D => whenZero [z] (.shr d a b)
  | 0x0E => whenZero [z] (.sar d a b)
  | 0x0F => whenZero [z] (.min d a b)
  | 0x10 => whenZero [z] (.max d a b)
  | 0x11 => whenZero [z] (.minn d a b)
  | 0x12 => whenZero [z] (.maxn d a b)
  | 0x13 => whenZero [z] (.slt d a b)
  | 0x14 => whenZero [z] (.sltn d a b)
  | 0x15 => whenZero [z, fld w 11 5] (.clz d a)
  | 0x16 => whenZero [z, fld w 11 5] (.popc d a)
  | 0x17 => some (.sel d (bfld w 6 5) a b)
  | _ => none

/-- The semaphore, ring, set and ordering groups (R43). -/
def decodeM (op w : Nat) : Option Instr :=
  let d := bfld w 21 5
  let a := bfld w 16 5
  let nd := fld w 21 5
  let na := fld w 16 5
  let sub := fld w 12 4
  if op = 0x2C then
    let m := bfld w 0 9
    let hi := fld w 9 3
    match sub with
    | 0 => whenZero [hi] (.semadd d a m)
    | 1 => whenZero [hi, nd] (.semaddc a m)
    | 2 => whenZero [hi] (.semcas d a m)
    | 3 => whenZero [hi, nd] (.semset a m)
    | 4 => whenZero [hi, na] (.semread d m)
    | 5 => whenZero [hi, nd] (.semwait a m)
    | 6 => whenZero [fld w 0 12] (.draw d a)
    | _ => none
  else if op = 0x2D then
    let q := bfld w 0 8
    let hi := fld w 8 4
    match sub with
    | 0 => whenZero [hi, na] (.rclaim d q)
    | 1 => whenZero [hi, nd] (.rfill a q)
    | 2 => whenZero [hi, nd, na] (.rwaitf q)
    | 3 => whenZero [hi, nd, na] (.rwaite q)
    | 4 => whenZero [hi, na] (.rtake d q)
    | 5 => whenZero [hi, nd] (.rfree a q)
    | 6 => whenZero [hi, na] (.rstat d q)
    | _ => none
  else if op = 0x2E then
    let g := bfld w 0 6
    let hi := fld w 6 6
    match sub with
    | 0 => whenZero [hi, nd, na] (.join g)
    | 1 => whenZero [hi, nd, na] (.leave g)
    | 2 => whenZero [hi, na] (.arrive d g)
    | 3 => whenZero [hi, nd] (.bwait a g)
    | 4 => whenZero [hi] (.btest d a g)
    | _ => none
  else
    let sel := bfld w 0 4
    let inst := bfld w 4 4
    let hi := fld w 8 4
    match sub with
    | 0 => whenZero [hi, nd] (.tlwait a sel inst)
    | 1 => whenZero [hi, na] (.tlread d sel inst)
    | 2 => whenZero [fld w 0 12, nd, na] .xfenceO2E
    | 3 => whenZero [fld w 0 12, nd, na] .xfenceE2O
    | _ => none

/-- The task and system groups (R45). A non-zero field that R45 neither names nor asks to be zero (TNEXT's a, b and f[10:6], those of TQUERY, TRAP,
SYSR, SYSW, PROBE, CLEAN, INVAL and PTEST) makes the word illegal (DESIGN CHOICE, log entry 77). -/
def decodeSys (op w : Nat) : Option Instr :=
  let d := bfld w 21 5
  let a := bfld w 16 5
  let nd := fld w 21 5
  let na := fld w 16 5
  let nb := fld w 11 5
  let nc := fld w 6 5
  let sr := bfld (fld w 11 5 * 32 + fld w 6 5) 0 10
  if op = 0x35 then
    match fld w 0 6 with
    | 0 => whenZero [na, nb, nc] (.tnext d)
    | 1 => whenZero [nd, na, nb, nc] .tend
    | 2 => whenZero [nd, na, nb, nc] .tabort
    | 3 => whenZero [nb, nc] (.tquery d a)
    | _ => none
  else
    match fld w 0 6 with
    | 0 => whenZero [nd, na, nb, nc] .nop
    | 1 => whenZero [nd, na, nb, nc] .halt
    | 2 => whenZero [nd, na, nb] (.trap (bfld w 6 5))
    | 3 => whenZero [nd, na, nb, nc] .eret
    | 4 => whenZero [na] (.sysr d sr)
    | 5 => whenZero [nd] (.sysw a sr)
    | 6 => whenZero [nd, nb, nc] (.probe a)
    | 7 => whenZero [nd, nc] (.clean a (bfld w 11 5))
    | 8 => whenZero [nd, nc] (.inval a (bfld w 11 5))
    | 9 => whenZero [nb, nc] (.ptest d a)
    | _ => none

/-- A sequencer word whose primary opcode is op (R38, R39). -/
def decodeSeqOp (op w : Nat) : Option Instr :=
  let d := bfld w 21 5
  let a := bfld w 16 5
  let imm := bfld w 0 16
  let nd := fld w 21 5
  let na := fld w 16 5
  let eng := bfld w 12 4
  let k := bfld w 8 4
  let neng := fld w 12 4
  let low := fld w 0 8
  match op with
  | 0x00 => decodeInt (fld w 0 6) w
  | 0x01 => some (.addi d a imm)
  | 0x02 => some (.andi d a imm)
  | 0x03 => some (.ori d a imm)
  | 0x04 => some (.xori d a imm)
  | 0x05 => whenZero [fld w 6 10] (.shli d a (bfld w 0 6))
  | 0x06 => whenZero [fld w 6 10] (.shri d a (bfld w 0 6))
  | 0x07 => whenZero [fld w 6 10] (.sari d a (bfld w 0 6))
  | 0x08 => some (.slti d a imm)
  | 0x09 => whenZero [na] (.movhi d imm)
  | 0x10 => some (.ldB d a imm)
  | 0x11 => some (.ldH d a imm)
  | 0x12 => some (.ldW d a imm)
  | 0x13 => some (.ldD d a imm)
  | 0x14 => some (.ldsB d a imm)
  | 0x15 => some (.ldsH d a imm)
  | 0x16 => some (.ldsW d a imm)
  | 0x17 => some (.ldsD d a imm)
  | 0x18 => some (.stB d a imm)
  | 0x19 => some (.stH d a imm)
  | 0x1A => some (.stW d a imm)
  | 0x1B => some (.stD d a imm)
  | 0x20 => some (.bEq d a imm)
  | 0x21 => some (.bNe d a imm)
  | 0x22 => some (.bLt d a imm)
  | 0x23 => some (.bGe d a imm)
  | 0x24 => some (.bLtn d a imm)
  | 0x25 => some (.bGen d a imm)
  | 0x26 => some (.j (bfld w 0 26))
  | 0x27 => some (.jal (bfld w 0 26))
  | 0x28 => whenZero [fld w 0 16] (.jr d a)
  | 0x2C => decodeM 0x2C w
  | 0x2D => decodeM 0x2D w
  | 0x2E => decodeM 0x2E w
  | 0x2F => decodeM 0x2F w
  | 0x30 => whenZero [nd, neng] (.cload k a (bfld w 0 8))
  | 0x31 => whenZero [nd, low] (.cset k eng a)
  | 0x32 => some (.cseti k eng (bfld (nd * 2 ^ 13 + na * 2 ^ 8 + low) 0 18))
  | 0x33 => whenZero [na, neng, low] (.cpush d k)
  | 0x34 => whenZero [na, low] (.cstat d eng k)
  | 0x35 => decodeSys 0x35 w
  | 0x36 => decodeSys 0x36 w
  | 0x37 => some (.tstw d a imm)
  | 0x3F =>
    match fld w 24 2 with
    | 0 => whenZero [fld w 8 16] (.pfxC (bfld w 0 8))
    | 1 => some (.pfxI (bfld w 0 24))
    | _ => none
  | _ => none

/-- A sequencer word (R38, R39). -/
def decodeSeq (w : Nat) : Option Instr := decodeSeqOp (fld w 26 6) w

/-! ### Step words -/

/-- A matrix step word (R58). -/
def decodeMtx (w : Nat) : Option Instr :=
  let acc := bfld w 23 3
  let h1 := bfld w 17 6
  let h2 := bfld w 11 6
  let z := bfld w 10 1 == 1
  let st := bfld w 8 2
  let n := bfld w 0 8
  let na := fld w 23 3
  let n1 := fld w 17 6
  let n2 := fld w 11 6
  let nz := fld w 10 1
  let ns := fld w 8 2
  let nn := fld w 0 8
  match fld w 26 6 with
  | 0x01 => whenZero [ns, nn] (.mma acc h1 h2 z)
  | 0x02 => whenZero [ns, nn] (.mmabs acc h1 h2 z)
  | 0x08 => whenZero [n1, n2, nz, ns, nn] (.azero acc)
  | 0x09 => whenZero [n2, nz, ns, nn] (.aload acc h1)
  | 0x0A => whenZero [n2, nz, ns] (.astore acc h1 n)
  | 0x0B => whenZero [n1, n2, nz, ns] (.awm acc n)
  | 0x0C => whenZero [n1, n2, nz, ns] (.await acc n)
  | 0x0D => whenZero [n2, nz, ns, nn] (.ascale acc h1)
  | 0x0E => whenZero [n1, n2, nz, ns] (.acvt acc n)
  | 0x0F => whenZero [n1, n2, nz, ns, nn] (.achk acc)
  | 0x10 => whenZero [na, n2, nz, nn] (.hset h1 st)
  | 0x11 => whenZero [na, n2, nz, ns] (.hver h1 n)
  | 0x18 => whenZero [na, n1, n2, nz] (.ctbl n st)
  | _ => none

/-- A step word of a mover's copy queue (R59). -/
def decodeMvCopy (w : Nat) : Option Instr :=
  let sa := bfld w 24 2
  let sb := bfld w 22 2
  let sc := bfld w 20 2
  let f1 := bfld w 16 4
  let n := bfld w 0 12
  let zb := fld w 22 2
  let zc := fld w 20 2
  let z2 := fld w 12 4
  match fld w 26 6 with
  | 0x01 => whenZero [zc, z2] (.copy sa sb f1 n)
  | 0x02 => whenZero [zc, z2] (.fill sa sb f1 n)
  | 0x03 => whenZero [z2] (.gather sa sb sc f1 n)
  | 0x04 => whenZero [z2] (.scatter sa sb sc f1 n)
  | 0x05 => whenZero [zb, z2] (.mcast sa sc f1 n)
  | 0x06 => whenZero [z2] (.chsend sa (bfld w 16 8) n)
  | _ => none

/-- A step word of a mover's transform queue (R59). -/
def decodeMvXform (w : Nat) : Option Instr :=
  let sa := bfld w 24 2
  let sb := bfld w 22 2
  let f1 := bfld w 16 4
  let f2 := bfld w 12 4
  let n := bfld w 0 12
  match fld w 26 6, fld w 20 2 with
  | 0x01, 0 => some (.xformConvert sa sb f1 f2 n)
  | 0x01, 1 => whenZero [fld w 16 4] (.xformCompress sa sb f2 n)
  | 0x01, 2 => some (.xformExpand sa sb f1 f2 n)
  | 0x02, 0 => some (.enc sa sb f1 f2 n)
  | 0x03, 0 => whenZero [fld w 12 4] (.dec sa sb f1 n)
  | _, _ => none

/-- A DOU step word (R59). -/
def decodeDou (w : Nat) : Option Instr :=
  let sa := bfld w 24 2
  let sb := bfld w 22 2
  let sc := bfld w 20 2
  let n := bfld w 0 12
  let zc := fld w 20 2
  let z1 := fld w 16 4
  let z2 := fld w 12 4
  match fld w 26 6 with
  | 0x01 => whenZero [zc, z1, z2] (.dcopy sa sb n)
  | 0x02 => whenZero [zc, z1, z2] (.dfill sa sb n)
  | 0x03 => whenZero [z1, z2] (.dand sa sb sc n)
  | 0x04 => whenZero [z1, z2] (.dor sa sb sc n)
  | 0x05 => whenZero [z1, z2] (.dxor sa sb sc n)
  | 0x06 => whenZero [zc, z1, z2] (.dnot sa sb n)
  | 0x07 => whenZero [z2] (.dgsum sa sb sc (bfld w 16 4) n)
  | _ => none

/-- A stash step word (R59). -/
def decodeStash (w : Nat) : Option Instr :=
  let sa := bfld w 24 2
  let slot := bfld w 12 12
  let n := bfld w 0 12
  let za := fld w 24 2
  let zn := fld w 0 12
  match fld w 26 6 with
  | 0x01 => some (.sput sa slot n)
  | 0x02 => some (.sget sa slot n)
  | 0x03 => whenZero [za, zn] (.sdrop slot)
  | 0x04 => whenZero [za, zn] (.spref slot)
  | 0x05 => whenZero [zn] (.sqry sa slot)
  | _ => none

/-- A carousel step word (R59). -/
def decodeCrsl (w : Nat) : Option Instr :=
  let sa := bfld w 24 2
  let chunk := bfld w 12 12
  let fmt := bfld w 8 4
  let bucket := bfld w 0 8
  match fld w 26 6 with
  | 0x01 => some (.cred sa chunk fmt bucket)
  | 0x02 => some (.cgath sa chunk fmt bucket)
  | 0x03 => whenZero [fld w 8 18] (.cbar bucket)
  | _ => none

/-! ### Vector words -/

/-- What a VPFXR with E = 1 extends a word's fields by (R52). -/
structure HighFields where
  dh : BitVec 4
  ah : BitVec 4
  bh : BitVec 4
  deriving DecidableEq, Repr

/-- A vector register field (R49, R52). -/
def vregField (high : Option (BitVec 4)) (f : Nat) : VReg :=
  match high with
  | some h => .win (BitVec.ofNat 10 (h.toNat * 64 + f))
  | none => if f < 56 then .win (BitVec.ofNat 10 f) else .ind (BitVec.ofNat 3 (f - 56))

/-- The q modifiers of loads and stores (R55). -/
def loadMode : Nat → Option LoadMode
  | 0 => some .plain | 1 => some .f | 2 => some .fe | _ => none
def storeMode : Nat → Option StoreMode
  | 0 => some .plain | 1 => some .sf | _ => none

/-- A vector word with its prefixes (R49-R55): `pr` is a VPFXR with E = 1, `pi` a VPFXI. A prefix that the word does not take,
and a high field on a field that is no vector register, make it illegal (R51, R52). So does a non-zero field that R54 does not list for the word
(DESIGN CHOICE, log entry 77). -/
def decodeVec (pr : Option HighFields) (pi : Option (BitVec 24)) (w : Nat) : Option Instr :=
  let nd := fld w 18 6
  let na := fld w 12 6
  let nb := fld w 6 6
  let q := fld w 4 2
  let p := bfld w 0 4
  let np := fld w 0 4
  let d := vregField (pr.map (·.dh)) nd
  let a := vregField (pr.map (·.ah)) na
  let b := vregField (pr.map (·.bh)) nb
  let zdh := match pr with | some h => h.dh.toNat | none => 0
  let zah := match pr with | some h => h.ah.toNat | none => 0
  let zbh := match pr with | some h => h.bh.toNat | none => 0
  let zpi := match pi with | some _ => 1 | none => 0
  let three := fun (i : Instr) => whenZero [q, zpi] i
  let two := fun (i : Instr) => whenZero [q, zpi, nb, zbh] i
  let fmt := fun (i : Instr) => whenZero [q, zpi, fld w 10 2, zbh] i
  let xa := bfld w 12 3
  let xb := bfld w 6 3
  let xd := bfld w 18 3
  let zxa := fld w 15 3
  let zxb := fld w 9 3
  let pd := bfld w 18 4
  let pa := bfld w 12 4
  let pb := bfld w 6 4
  let zpd := fld w 22 2
  let zpa := fld w 16 2
  let zpb := fld w 10 2
  let cc := bfld w 4 2
  let noR := zdh + zah + zbh
  let off18 := bfld w 6 18
  let disp : BitVec 30 := match pi with
    | some h => BitVec.ofNat 30 (h.toNat * 64 + nb)
    | none => (BitVec.ofNat 6 nb).signExtend 30
  match fld w 24 7 with
  | 0x00 => three (.fadd p d a b)
  | 0x01 => three (.fsub p d a b)
  | 0x02 => three (.fmul p d a b)
  | 0x03 => three (.fma p d a b)
  | 0x04 => three (.fms p d a b)
  | 0x05 => three (.fnma p d a b)
  | 0x06 => three (.fmin p d a b)
  | 0x07 => three (.fmax p d a b)
  | 0x08 => two (.fabs p d a)
  | 0x09 => two (.fneg p d a)
  | 0x0A => whenZero [zpi, zpd, zdh] (.fcmpSet1 p cc pd a b)
  | 0x0B => whenZero [zpi, zpd, zdh] (.fcmpSet2 p cc pd a b)
  | 0x0C => two (.frcp p d a)
  | 0x0D => two (.frsq p d a)
  | 0x0E => two (.fsqrt p d a)
  | 0x0F => three (.fdiv p d a b)
  | 0x10 => two (.fexp2 p d a)
  | 0x11 => two (.flog2 p d a)
  | 0x12 => two (.fclass p d a)
  | 0x20 => three (.iadd p d a b)
  | 0x21 => three (.iadds p d a b)
  | 0x22 => three (.isub p d a b)
  | 0x23 => three (.imul p d a b)
  | 0x24 => three (.imulh p d a b)
  | 0x25 => three (.imad p d a b)
  | 0x26 => three (.imin p d a b)
  | 0x27 => three (.imax p d a b)
  | 0x28 => two (.iabs p d a)
  | 0x29 => three (.iand p d a b)
  | 0x2A => three (.ior p d a b)
  | 0x2B => three (.ixor p d a b)
  | 0x2C => two (.inot p d a)
  | 0x2D => three (.ishl p d a b)
  | 0x2E => three (.ishr p d a b)
  | 0x2F => three (.isar p d a b)
  | 0x30 => whenZero [zpi, zpd, zdh] (.icmpSet1 p cc pd a b)
  | 0x31 => whenZero [zpi, zpd, zdh] (.icmpSet2 p cc pd a b)
  | 0x40 => fmt (.cvt p d a pb)
  | 0x41 => fmt (.cvtsr p d a pb)
  | 0x42 => two (.bamax p d a)
  | 0x43 => three (.bscale p d a b)
  | 0x44 => fmt (.qnt p d a pb)
  | 0x45 => fmt (.dqnt p d a pb)
  | 0x46 => fmt (.pack p d a pb)
  | 0x47 => fmt (.unpack p d a pb)
  | 0x50 => two (.mov p d a)
  | 0x51 =>
    match pi with
    | some h => whenZero [q, zah, zbh, h.toNat / 2 ^ 20] (.movi p d (BitVec.ofNat 32 (h.toNat * 2 ^ 12 + na * 64 + nb)))
    | none => whenZero [q, zah, zbh] (.movi p d ((BitVec.ofNat 12 (na * 64 + nb)).signExtend 32))
  | 0x52 => two (.movx p d a)
  | 0x53 => three (.perm p d a b)
  | 0x54 => three (.xperm p d a b)
  | 0x55 => whenZero [q, zpi, fld w 11 1, zbh] (.bcast p d a (bfld w 6 5))
  | 0x56 => three (.lshift p d a b)
  | 0x57 => two (.redsum p d a)
  | 0x58 => two (.redmax p d a)
  | 0x59 => two (.scan p d a)
  | 0x60 => (loadMode q).bind (fun m => whenZero [zxa, zah, zbh] (.vld p m d xa disp))
  | 0x61 => (storeMode q).bind (fun m => whenZero [zxa, zah, zbh] (.vst p m d xa disp))
  | 0x62 => (loadMode q).bind (fun m => whenZero [zpi, zxa, zxb, zah, zbh] (.vlds p m d xa xb))
  | 0x63 => (storeMode q).bind (fun m => whenZero [zpi, zxa, zxb, zah, zbh] (.vsts p m d xa xb))
  | 0x64 => (loadMode q).bind (fun m => whenZero [zpi, zxa, zah] (.vldx p m d xa b))
  | 0x65 => (storeMode q).bind (fun m => whenZero [zpi, zxa, zah] (.vstx p m d xa b))
  | 0x66 => whenZero [q, zpi, nd, zxa, noR] (.vstm p xa (bfld w 6 6))
  | 0x68 => whenZero [q, zpi, zxa, nb, zah, zbh] (.vgetx p d xa)
  | 0x69 => whenZero [q, zpi, fld w 21 3, nb, zdh, zbh] (.vsetx p xd a)
  | 0x6A => whenZero [q, zpi, np, noR] (.vtstw (bfld w 18 6) (bfld w 6 12))
  | 0x70 => whenZero [q, zpi, zpd, zpa, zpb, noR] (.pset p pd (BitVec.ofNat 8 (na * 16 + nb)))
  | 0x71 => whenZero [q, zpi, zpd, zpa, zpb, noR] (.pand p pd pa pb)
  | 0x72 => whenZero [q, zpi, zpd, zpa, zpb, noR] (.por p pd pa pb)
  | 0x73 => whenZero [q, zpi, zpd, zpa, zpb, noR] (.pxor p pd pa pb)
  | 0x74 => whenZero [q, zpi, zpd, zpa, nb, noR] (.pnot p pd pa)
  | 0x75 => whenZero [q, zpi, zpa, nb, zah, zbh] (.pany p d pa)
  | 0x76 => whenZero [q, zpi, zpa, nb, zah, zbh] (.pcnt p d pa)
  | 0x77 => whenZero [zpi, noR] (.vbr p cc off18)
  | 0x78 => whenZero [q, zpi, np, noR] (.vjmp off18)
  | 0x79 => whenZero [q, zpi, np, nd, na, nb, noR] .vyield
  | 0x7A => whenZero [q, zpi, np, nd, na, nb, noR] .vexit
  | 0x7B => if fld w 12 12 / 512 = 0 then whenZero [q, zpi, np, zxb, noR] (.vwait (bfld w 12 9) xb) else none
  | 0x7C =>
    match q with
    | 0 =>
      match pi with
      -- the high bits of I24, which R53 does not use, are ignored (DESIGN CHOICE, log entry 77)
      | some h => whenZero [np, noR] (.vsetshImm (BitVec.ofNat 24 (h.toNat * 2 ^ 18 + fld w 6 18)))
      | none => whenZero [np, noR] (.vsetshImm (BitVec.ofNat 24 (fld w 6 18)))
    | 1 => whenZero [zpi, np, nd, nb, zxa, noR] (.vsetshX xa)
    | _ => none
  | 0x7D => whenZero [q, zpi, np, nd, na, nb, noR] .vnop
  | 0x7F =>
    if fld w 31 1 = 1 then
      whenZero [fld w 12 11, zpi, noR] (.vpfxr (bfld w 23 1 == 1) (bfld w 8 4) (bfld w 4 4) (bfld w 0 4))
    else whenZero [zpi, noR] (.vpfxi (bfld w 0 24))
  | _ => none

/-! ### The bits of the opcode table -/

/-- The instruction that a word of n bits gives, its bits numbered as the opcode table numbers them. The sequencer's space is
tried first, then the matrix space and the others: words of the step spaces share their bits with sequencer words (02 R57), and
only the queue they stand on tells them apart (log entry 7). -/
def decodeTableWord (nbits w : Nat) : Option Instr :=
  if nbits > 32 then none
  else
    match decodeSeq w with
    | some i => some i
    | none =>
      match decodeMtx w with
      | some i => some i
      | none =>
        match decodeMvCopy w with
        | some i => some i
        | none =>
          match decodeMvXform w with
          | some i => some i
          | none =>
            match decodeDou w with
            | some i => some i
            | none =>
              match decodeStash w with
              | some i => some i
              | none => decodeCrsl w

/-! ### Encoders, from the same tables -/

/-- R form (R38). -/
def encR (op d a b c f : Nat) : Nat := op * 2 ^ 26 + d * 2 ^ 21 + a * 2 ^ 16 + b * 2 ^ 11 + c * 2 ^ 6 + f
/-- I and B form (R38). -/
def encI (op d a imm : Nat) : Nat := op * 2 ^ 26 + d * 2 ^ 21 + a * 2 ^ 16 + imm
/-- M form (R38). -/
def encM (op d a sub idx : Nat) : Nat := op * 2 ^ 26 + d * 2 ^ 21 + a * 2 ^ 16 + sub * 2 ^ 12 + idx
/-- C form (R38). -/
def encC (op d a eng k imm : Nat) : Nat := op * 2 ^ 26 + d * 2 ^ 21 + a * 2 ^ 16 + eng * 2 ^ 12 + k * 2 ^ 8 + imm
/-- Matrix step words (R58). -/
def encMtx (op acc h1 h2 z st n : Nat) : Nat :=
  op * 2 ^ 26 + acc * 2 ^ 23 + h1 * 2 ^ 17 + h2 * 2 ^ 11 + z * 2 ^ 10 + st * 2 ^ 8 + n
/-- Mover and DOU step words (R59). -/
def encStep (op sa sb sc f1 f2 n : Nat) : Nat :=
  op * 2 ^ 26 + sa * 2 ^ 24 + sb * 2 ^ 22 + sc * 2 ^ 20 + f1 * 2 ^ 16 + f2 * 2 ^ 12 + n
/-- Step words with the 12-bit id (R59). -/
def encId (op sa id n : Nat) : Nat := op * 2 ^ 26 + sa * 2 ^ 24 + id * 2 ^ 12 + n
/-- Carousel step words (R59). -/
def encCrsl (op sa chunk fmt bucket : Nat) : Nat := op * 2 ^ 26 + sa * 2 ^ 24 + chunk * 2 ^ 12 + fmt * 2 ^ 8 + bucket
/-- Vector words with S = 0 (R49). -/
def encV (op d a b q p : Nat) : Nat := op * 2 ^ 24 + d * 2 ^ 18 + a * 2 ^ 12 + b * 2 ^ 6 + q * 2 ^ 4 + p

/-- The low six bits of a register field (R49). -/
def VReg.field : VReg → Nat
  | .win n => n.toNat % 64
  | .ind k => 56 + k.toNat

/-- The high bits that VPFXR carries (R52). -/
def VReg.high4 : VReg → BitVec 4
  | .win n => BitVec.ofNat 4 (n.toNat / 64)
  | .ind _ => 0

/-- A field that is no vector register: its high bits are zero. -/
def VReg.zero : VReg := .win 0

/-- The VPFXR that a word's register fields need: none when every one of them is below v56 or indirect. -/
def vregPfx (d a b : VReg) : Option HighFields :=
  if d.high || a.high || b.high then some ⟨d.high4, a.high4, b.high4⟩ else none

/-- The VPFXI that an immediate needs: none when the word's own field gives it. -/
def immPfx (short : Bool) (hi : Nat) : Option (BitVec 24) := if short then none else some (BitVec.ofNat 24 hi)

/-- MOVI's 12 bits give the immediate by sign extension (06 R133). -/
def moviShort (imm : BitVec 32) : Bool := (BitVec.ofNat 12 imm.toNat).signExtend 32 == imm
/-- VLD's and VST's 6 bits give the displacement by sign extension (R53). -/
def dispShort (disp : BitVec 30) : Bool := (BitVec.ofNat 6 disp.toNat).signExtend 30 == disp

def LoadMode.q : LoadMode → Nat
  | .plain => 0 | .f => 1 | .fe => 2
def StoreMode.q : StoreMode → Nat
  | .plain => 0 | .sf => 1

/-- The word of a sequencer instruction (R38-R46). -/
def encodeSeq : Instr → Option Nat
  | .add d a b => some (encR 0x00 d.toNat a.toNat b.toNat 0 0x00)
  | .sub d a b => some (encR 0x00 d.toNat a.toNat b.toNat 0 0x01)
  | .mul d a b => some (encR 0x00 d.toNat a.toNat b.toNat 0 0x02)
  | .mulh d a b => some (encR 0x00 d.toNat a.toNat b.toNat 0 0x03)
  | .mulhn d a b => some (encR 0x00 d.toNat a.toNat b.toNat 0 0x04)
  | .div d a b => some (encR 0x00 d.toNat a.toNat b.toNat 0 0x05)
  | .divn d a b => some (encR 0x00 d.toNat a.toNat b.toNat 0 0x06)
  | .rem d a b => some (encR 0x00 d.toNat a.toNat b.toNat 0 0x07)
  | .remn d a b => some (encR 0x00 d.toNat a.toNat b.toNat 0 0x08)
  | .and d a b => some (encR 0x00 d.toNat a.toNat b.toNat 0 0x09)
  | .or d a b => some (encR 0x00 d.toNat a.toNat b.toNat 0 0x0A)
  | .xor d a b => some (encR 0x00 d.toNat a.toNat b.toNat 0 0x0B)
  | .shl d a b => some (encR 0x00 d.toNat a.toNat b.toNat 0 0x0C)
  | .shr d a b => some (encR 0x00 d.toNat a.toNat b.toNat 0 0x0D)
  | .sar d a b => some (encR 0x00 d.toNat a.toNat b.toNat 0 0x0E)
  | .min d a b => some (encR 0x00 d.toNat a.toNat b.toNat 0 0x0F)
  | .max d a b => some (encR 0x00 d.toNat a.toNat b.toNat 0 0x10)
  | .minn d a b => some (encR 0x00 d.toNat a.toNat b.toNat 0 0x11)
  | .maxn d a b => some (encR 0x00 d.toNat a.toNat b.toNat 0 0x12)
  | .slt d a b => some (encR 0x00 d.toNat a.toNat b.toNat 0 0x13)
  | .sltn d a b => some (encR 0x00 d.toNat a.toNat b.toNat 0 0x14)
  | .clz d a => some (encR 0x00 d.toNat a.toNat 0 0 0x15)
  | .popc d a => some (encR 0x00 d.toNat a.toNat 0 0 0x16)
  | .sel d c a b => some (encR 0x00 d.toNat a.toNat b.toNat c.toNat 0x17)
  | .addi d a imm => some (encI 0x01 d.toNat a.toNat imm.toNat)
  | .andi d a imm => some (encI 0x02 d.toNat a.toNat imm.toNat)
  | .ori d a imm => some (encI 0x03 d.toNat a.toNat imm.toNat)
  | .xori d a imm => some (encI 0x04 d.toNat a.toNat imm.toNat)
  | .shli d a n => some (encI 0x05 d.toNat a.toNat n.toNat)
  | .shri d a n => some (encI 0x06 d.toNat a.toNat n.toNat)
  | .sari d a n => some (encI 0x07 d.toNat a.toNat n.toNat)
  | .slti d a imm => some (encI 0x08 d.toNat a.toNat imm.toNat)
  | .movhi d imm => some (encI 0x09 d.toNat 0 imm.toNat)
  | .ldB d a imm => some (encI 0x10 d.toNat a.toNat imm.toNat)
  | .ldH d a imm => some (encI 0x11 d.toNat a.toNat imm.toNat)
  | .ldW d a imm => some (encI 0x12 d.toNat a.toNat imm.toNat)
  | .ldD d a imm => some (encI 0x13 d.toNat a.toNat imm.toNat)
  | .ldsB d a imm => some (encI 0x14 d.toNat a.toNat imm.toNat)
  | .ldsH d a imm => some (encI 0x15 d.toNat a.toNat imm.toNat)
  | .ldsW d a imm => some (encI 0x16 d.toNat a.toNat imm.toNat)
  | .ldsD d a imm => some (encI 0x17 d.toNat a.toNat imm.toNat)
  | .stB d a imm => some (encI 0x18 d.toNat a.toNat imm.toNat)
  | .stH d a imm => some (encI 0x19 d.toNat a.toNat imm.toNat)
  | .stW d a imm => some (encI 0x1A d.toNat a.toNat imm.toNat)
  | .stD d a imm => some (encI 0x1B d.toNat a.toNat imm.toNat)
  | .bEq a b off => some (encI 0x20 a.toNat b.toNat off.toNat)
  | .bNe a b off => some (encI 0x21 a.toNat b.toNat off.toNat)
  | .bLt a b off => some (encI 0x22 a.toNat b.toNat off.toNat)
  | .bGe a b off => some (encI 0x23 a.toNat b.toNat off.toNat)
  | .bLtn a b off => some (encI 0x24 a.toNat b.toNat off.toNat)
  | .bGen a b off => some (encI 0x25 a.toNat b.toNat off.toNat)
  | .j off => some (0x26 * 2 ^ 26 + off.toNat)
  | .jal off => some (0x27 * 2 ^ 26 + off.toNat)
  | .jr d a => some (encR 0x28 d.toNat a.toNat 0 0 0)
  | .tstw a bit off => some (encI 0x37 a.toNat bit.toNat off.toNat)
  | .semadd d a m => some (encM 0x2C d.toNat a.toNat 0 m.toNat)
  | .semaddc a m => some (encM 0x2C 0 a.toNat 1 m.toNat)
  | .semcas d a m => some (encM 0x2C d.toNat a.toNat 2 m.toNat)
  | .semset a m => some (encM 0x2C 0 a.toNat 3 m.toNat)
  | .semread d m => some (encM 0x2C d.toNat 0 4 m.toNat)
  | .semwait a m => some (encM 0x2C 0 a.toNat 5 m.toNat)
  | .draw d a => some (encM 0x2C d.toNat a.toNat 6 0)
  | .rclaim d q => some (encM 0x2D d.toNat 0 0 q.toNat)
  | .rfill a q => some (encM 0x2D 0 a.toNat 1 q.toNat)
  | .rwaitf q => some (encM 0x2D 0 0 2 q.toNat)
  | .rwaite q => some (encM 0x2D 0 0 3 q.toNat)
  | .rtake d q => some (encM 0x2D d.toNat 0 4 q.toNat)
  | .rfree a q => some (encM 0x2D 0 a.toNat 5 q.toNat)
  | .rstat d q => some (encM 0x2D d.toNat 0 6 q.toNat)
  | .join g => some (encM 0x2E 0 0 0 g.toNat)
  | .leave g => some (encM 0x2E 0 0 1 g.toNat)
  | .arrive d g => some (encM 0x2E d.toNat 0 2 g.toNat)
  | .bwait a g => some (encM 0x2E 0 a.toNat 3 g.toNat)
  | .btest d a g => some (encM 0x2E d.toNat a.toNat 4 g.toNat)
  | .tlwait a ctr inst => some (encM 0x2F 0 a.toNat 0 (inst.toNat * 16 + ctr.toNat))
  | .tlread d ctr inst => some (encM 0x2F d.toNat 0 1 (inst.toNat * 16 + ctr.toNat))
  | .xfenceO2E => some (encM 0x2F 0 0 2 0)
  | .xfenceE2O => some (encM 0x2F 0 0 3 0)
  | .cload k a imm => some (encC 0x30 0 a.toNat 0 k.toNat imm.toNat)
  | .cset k n a => some (encC 0x31 0 a.toNat n.toNat k.toNat 0)
  | .cseti k n imm => some (encC 0x32 (imm.toNat / 2 ^ 13) (imm.toNat / 2 ^ 8 % 32) n.toNat k.toNat (imm.toNat % 2 ^ 8))
  | .cpush d k => some (encC 0x33 d.toNat 0 0 k.toNat 0)
  | .cstat d eng k => some (encC 0x34 d.toNat 0 eng.toNat k.toNat 0)
  | .tnext d => some (encR 0x35 d.toNat 0 0 0 0)
  | .tend => some (encR 0x35 0 0 0 0 1)
  | .tabort => some (encR 0x35 0 0 0 0 2)
  | .tquery d a => some (encR 0x35 d.toNat a.toNat 0 0 3)
  | .nop => some (encR 0x36 0 0 0 0 0)
  | .halt => some (encR 0x36 0 0 0 0 1)
  | .trap code => some (encR 0x36 0 0 0 code.toNat 2)
  | .eret => some (encR 0x36 0 0 0 0 3)
  | .sysr d sr => some (encR 0x36 d.toNat 0 (sr.toNat / 32) (sr.toNat % 32) 4)
  | .sysw a sr => some (encR 0x36 0 a.toNat (sr.toNat / 32) (sr.toNat % 32) 5)
  | .probe a => some (encR 0x36 0 a.toNat 0 0 6)
  | .clean a b => some (encR 0x36 0 a.toNat b.toNat 0 7)
  | .inval a b => some (encR 0x36 0 a.toNat b.toNat 0 8)
  | .ptest d a => some (encR 0x36 d.toNat a.toNat 0 0 9)
  | .pfxC coord => some (0x3F * 2 ^ 26 + coord.toNat)
  | .pfxI imm => some (0x3F * 2 ^ 26 + 2 ^ 24 + imm.toNat)
  | .fadd _ _ _ _ => none
  | .fsub _ _ _ _ => none
  | .fmul _ _ _ _ => none
  | .fma _ _ _ _ => none
  | .fms _ _ _ _ => none
  | .fnma _ _ _ _ => none
  | .fmin _ _ _ _ => none
  | .fmax _ _ _ _ => none
  | .fabs _ _ _ => none
  | .fneg _ _ _ => none
  | .fcmpSet1 _ _ _ _ _ => none
  | .fcmpSet2 _ _ _ _ _ => none
  | .frcp _ _ _ => none
  | .frsq _ _ _ => none
  | .fsqrt _ _ _ => none
  | .fdiv _ _ _ _ => none
  | .fexp2 _ _ _ => none
  | .flog2 _ _ _ => none
  | .fclass _ _ _ => none
  | .iadd _ _ _ _ => none
  | .iadds _ _ _ _ => none
  | .isub _ _ _ _ => none
  | .imul _ _ _ _ => none
  | .imulh _ _ _ _ => none
  | .imad _ _ _ _ => none
  | .imin _ _ _ _ => none
  | .imax _ _ _ _ => none
  | .iabs _ _ _ => none
  | .iand _ _ _ _ => none
  | .ior _ _ _ _ => none
  | .ixor _ _ _ _ => none
  | .inot _ _ _ => none
  | .ishl _ _ _ _ => none
  | .ishr _ _ _ _ => none
  | .isar _ _ _ _ => none
  | .icmpSet1 _ _ _ _ _ => none
  | .icmpSet2 _ _ _ _ _ => none
  | .cvt _ _ _ _ => none
  | .cvtsr _ _ _ _ => none
  | .bamax _ _ _ => none
  | .bscale _ _ _ _ => none
  | .qnt _ _ _ _ => none
  | .dqnt _ _ _ _ => none
  | .pack _ _ _ _ => none
  | .unpack _ _ _ _ => none
  | .mov _ _ _ => none
  | .movi _ _ _ => none
  | .movx _ _ _ => none
  | .vgetx _ _ _ => none
  | .vsetx _ _ _ => none
  | .perm _ _ _ _ => none
  | .xperm _ _ _ _ => none
  | .bcast _ _ _ _ => none
  | .lshift _ _ _ _ => none
  | .redsum _ _ _ => none
  | .redmax _ _ _ => none
  | .scan _ _ _ => none
  | .vld _ _ _ _ _ => none
  | .vst _ _ _ _ _ => none
  | .vlds _ _ _ _ _ => none
  | .vsts _ _ _ _ _ => none
  | .vldx _ _ _ _ _ => none
  | .vstx _ _ _ _ _ => none
  | .vstm _ _ _ => none
  | .vtstw _ _ => none
  | .pset _ _ _ => none
  | .pand _ _ _ _ => none
  | .por _ _ _ _ => none
  | .pxor _ _ _ _ => none
  | .pnot _ _ _ => none
  | .pany _ _ _ => none
  | .pcnt _ _ _ => none
  | .vbr _ _ _ => none
  | .vjmp _ => none
  | .vyield => none
  | .vexit => none
  | .vwait _ _ => none
  | .vsetshImm _ => none
  | .vsetshX _ => none
  | .vnop => none
  | .vpfxr _ _ _ _ => none
  | .vpfxi _ => none
  | .mma _ _ _ _ => none
  | .mmabs _ _ _ _ => none
  | .azero _ => none
  | .aload _ _ => none
  | .astore _ _ _ => none
  | .awm _ _ => none
  | .await _ _ => none
  | .ascale _ _ => none
  | .acvt _ _ => none
  | .achk _ => none
  | .hset _ _ => none
  | .hver _ _ => none
  | .ctbl _ _ => none
  | .copy _ _ _ _ => none
  | .fill _ _ _ _ => none
  | .gather _ _ _ _ _ => none
  | .scatter _ _ _ _ _ => none
  | .mcast _ _ _ _ => none
  | .chsend _ _ _ => none
  | .xformConvert _ _ _ _ _ => none
  | .xformCompress _ _ _ _ => none
  | .xformExpand _ _ _ _ _ => none
  | .enc _ _ _ _ _ => none
  | .dec _ _ _ _ => none
  | .dcopy _ _ _ => none
  | .dfill _ _ _ => none
  | .dand _ _ _ _ => none
  | .dor _ _ _ _ => none
  | .dxor _ _ _ _ => none
  | .dnot _ _ _ => none
  | .dgsum _ _ _ _ _ => none
  | .sput _ _ _ => none
  | .sget _ _ _ => none
  | .sdrop _ => none
  | .spref _ => none
  | .sqry _ _ => none
  | .cred _ _ _ _ => none
  | .cgath _ _ _ _ => none
  | .cbar _ => none
  | .checkedOpEffect _ _ => none
  | .loadDataReturn _ => none
  | .storePerformed _ => none
  | .stalledIssueResume _ => none
  | .semwaitRelease _ => none
  | .waitInterrupted _ => none
  | .ringWaitRelease _ => none
  | .bwaitRelease _ => none
  | .tlwaitRelease _ => none
  | .tendReport _ => none
  | .vwaitRelease _ _ _ => none
  | .fullWaitRelease _ => none
  | .syncBundleJoin _ _ => none
  | .vexitJoin _ _ => none
  | .starvationCountExpiry _ _ => none
  | .vccResume _ => none
  | .commandHeadCheck _ => none
  | .commandWaitsMet _ => none
  | .strandCreate _ => none
  | .chainedCommandStart _ => none
  | .commandComplete _ _ => none
  | .commandSignal _ _ => none
  | .mcastLanding _ _ _ => none
  | .matrixStepCheck _ _ => none
  | .pinWaitRelease _ => none
  | .pinTimeout _ => none
  | .cutComplete _ => none
  | .qctlDiscard _ _ => none
  | .strctlEndStrand _ => none
  | .strandDrainTimeout _ _ => none
  | .ringmasterRound _ _ => none
  | .taskRetire _ _ _ => none
  | .stashLookahead _ _ => none
  | .chsendWindowGrant _ _ => none
  | .channelLanding _ _ _ _ _ _ => none
  | .channelPublish _ _ _ _ _ => none
  | .channelAdvertisement _ _ _ => none
  | .carouselConsume _ _ _ => none
  | .carouselReduceArrival _ _ _ => none
  | .carouselGatherArrival _ _ _ => none
  | .loadLtt _ => none
  | .declareStage _ => none
  | .launch _ => none
  | .preempt _ => none
  | .preemptSaved _ => none
  | .resume _ => none
  | .kill _ => none
  | .curtainMessage _ _ _ _ _ _ => none
  | .curtainReport _ _ _ => none
  | .curtainRise _ _ => none
  | .curtainFall _ _ _ => none
  | .curtainTimeout _ => none
  | .lossMessage _ _ => none
  | .flitReceive _ _ => none
  | .linkDown _ _ _ => none
  | .remoteStoreAck _ => none
  | .hostMemAccess _ _ _ => none
  | .lrbaseWrite _ _ => none
  | .lrsizeWrite _ _ => none
  | .lrtailWrite _ _ => none
  | .lrstatWrite _ _ => none
  | .lrkillWrite _ _ => none
  | .lttcmdWrite _ _ => none
  | .lttcmdRemove _ _ => none
  | .lttcmdResume _ _ => none
  | .dbgctlHalt _ _ => none
  | .dbgctlResume _ _ => none
  | .evbaseWrite _ _ => none
  | .evsizeWrite _ _ => none
  | .evheadWrite _ _ => none
  | .registerWrite _ _ _ => none
  | .moduleReset _ => none
  | .wearSample _ => none
  | .wearFlashWrite => none
  | .clockChangeStart _ => none
  | .clockChangeComplete _ => none
  | .laneRepair _ _ => none
  | .laneRepairDone _ _ => none
  | .tnextAnswerArrival _ => none
  | .remoteResultReturn _ _ => none
  | .remoteAccessAtHome _ => none
  | .leaseExpiry _ => none
  | .dirtySectorWriteBack _ => none
  | .powerLoss => none

/-- The word of a matrix step (R58). -/
def encodeMtx : Instr → Option Nat
  | .add _ _ _ => none
  | .sub _ _ _ => none
  | .mul _ _ _ => none
  | .mulh _ _ _ => none
  | .mulhn _ _ _ => none
  | .div _ _ _ => none
  | .divn _ _ _ => none
  | .rem _ _ _ => none
  | .remn _ _ _ => none
  | .and _ _ _ => none
  | .or _ _ _ => none
  | .xor _ _ _ => none
  | .shl _ _ _ => none
  | .shr _ _ _ => none
  | .sar _ _ _ => none
  | .min _ _ _ => none
  | .max _ _ _ => none
  | .minn _ _ _ => none
  | .maxn _ _ _ => none
  | .slt _ _ _ => none
  | .sltn _ _ _ => none
  | .clz _ _ => none
  | .popc _ _ => none
  | .sel _ _ _ _ => none
  | .addi _ _ _ => none
  | .andi _ _ _ => none
  | .ori _ _ _ => none
  | .xori _ _ _ => none
  | .shli _ _ _ => none
  | .shri _ _ _ => none
  | .sari _ _ _ => none
  | .slti _ _ _ => none
  | .movhi _ _ => none
  | .ldB _ _ _ => none
  | .ldH _ _ _ => none
  | .ldW _ _ _ => none
  | .ldD _ _ _ => none
  | .ldsB _ _ _ => none
  | .ldsH _ _ _ => none
  | .ldsW _ _ _ => none
  | .ldsD _ _ _ => none
  | .stB _ _ _ => none
  | .stH _ _ _ => none
  | .stW _ _ _ => none
  | .stD _ _ _ => none
  | .bEq _ _ _ => none
  | .bNe _ _ _ => none
  | .bLt _ _ _ => none
  | .bGe _ _ _ => none
  | .bLtn _ _ _ => none
  | .bGen _ _ _ => none
  | .j _ => none
  | .jal _ => none
  | .jr _ _ => none
  | .tstw _ _ _ => none
  | .semadd _ _ _ => none
  | .semaddc _ _ => none
  | .semcas _ _ _ => none
  | .semset _ _ => none
  | .semread _ _ => none
  | .semwait _ _ => none
  | .draw _ _ => none
  | .rclaim _ _ => none
  | .rfill _ _ => none
  | .rwaitf _ => none
  | .rwaite _ => none
  | .rtake _ _ => none
  | .rfree _ _ => none
  | .rstat _ _ => none
  | .join _ => none
  | .leave _ => none
  | .arrive _ _ => none
  | .bwait _ _ => none
  | .btest _ _ _ => none
  | .tlwait _ _ _ => none
  | .tlread _ _ _ => none
  | .xfenceO2E => none
  | .xfenceE2O => none
  | .cload _ _ _ => none
  | .cset _ _ _ => none
  | .cseti _ _ _ => none
  | .cpush _ _ => none
  | .cstat _ _ _ => none
  | .tnext _ => none
  | .tend => none
  | .tabort => none
  | .tquery _ _ => none
  | .nop => none
  | .halt => none
  | .trap _ => none
  | .eret => none
  | .sysr _ _ => none
  | .sysw _ _ => none
  | .probe _ => none
  | .clean _ _ => none
  | .inval _ _ => none
  | .ptest _ _ => none
  | .pfxC _ => none
  | .pfxI _ => none
  | .fadd _ _ _ _ => none
  | .fsub _ _ _ _ => none
  | .fmul _ _ _ _ => none
  | .fma _ _ _ _ => none
  | .fms _ _ _ _ => none
  | .fnma _ _ _ _ => none
  | .fmin _ _ _ _ => none
  | .fmax _ _ _ _ => none
  | .fabs _ _ _ => none
  | .fneg _ _ _ => none
  | .fcmpSet1 _ _ _ _ _ => none
  | .fcmpSet2 _ _ _ _ _ => none
  | .frcp _ _ _ => none
  | .frsq _ _ _ => none
  | .fsqrt _ _ _ => none
  | .fdiv _ _ _ _ => none
  | .fexp2 _ _ _ => none
  | .flog2 _ _ _ => none
  | .fclass _ _ _ => none
  | .iadd _ _ _ _ => none
  | .iadds _ _ _ _ => none
  | .isub _ _ _ _ => none
  | .imul _ _ _ _ => none
  | .imulh _ _ _ _ => none
  | .imad _ _ _ _ => none
  | .imin _ _ _ _ => none
  | .imax _ _ _ _ => none
  | .iabs _ _ _ => none
  | .iand _ _ _ _ => none
  | .ior _ _ _ _ => none
  | .ixor _ _ _ _ => none
  | .inot _ _ _ => none
  | .ishl _ _ _ _ => none
  | .ishr _ _ _ _ => none
  | .isar _ _ _ _ => none
  | .icmpSet1 _ _ _ _ _ => none
  | .icmpSet2 _ _ _ _ _ => none
  | .cvt _ _ _ _ => none
  | .cvtsr _ _ _ _ => none
  | .bamax _ _ _ => none
  | .bscale _ _ _ _ => none
  | .qnt _ _ _ _ => none
  | .dqnt _ _ _ _ => none
  | .pack _ _ _ _ => none
  | .unpack _ _ _ _ => none
  | .mov _ _ _ => none
  | .movi _ _ _ => none
  | .movx _ _ _ => none
  | .vgetx _ _ _ => none
  | .vsetx _ _ _ => none
  | .perm _ _ _ _ => none
  | .xperm _ _ _ _ => none
  | .bcast _ _ _ _ => none
  | .lshift _ _ _ _ => none
  | .redsum _ _ _ => none
  | .redmax _ _ _ => none
  | .scan _ _ _ => none
  | .vld _ _ _ _ _ => none
  | .vst _ _ _ _ _ => none
  | .vlds _ _ _ _ _ => none
  | .vsts _ _ _ _ _ => none
  | .vldx _ _ _ _ _ => none
  | .vstx _ _ _ _ _ => none
  | .vstm _ _ _ => none
  | .vtstw _ _ => none
  | .pset _ _ _ => none
  | .pand _ _ _ _ => none
  | .por _ _ _ _ => none
  | .pxor _ _ _ _ => none
  | .pnot _ _ _ => none
  | .pany _ _ _ => none
  | .pcnt _ _ _ => none
  | .vbr _ _ _ => none
  | .vjmp _ => none
  | .vyield => none
  | .vexit => none
  | .vwait _ _ => none
  | .vsetshImm _ => none
  | .vsetshX _ => none
  | .vnop => none
  | .vpfxr _ _ _ _ => none
  | .vpfxi _ => none
  | .mma acc hA hB z => some (encMtx 0x01 acc.toNat hA.toNat hB.toNat z.toNat 0 0)
  | .mmabs acc hA hB z => some (encMtx 0x02 acc.toNat hA.toNat hB.toNat z.toNat 0 0)
  | .azero acc => some (encMtx 0x08 acc.toNat 0 0 0 0 0)
  | .aload acc h => some (encMtx 0x09 acc.toNat h.toNat 0 0 0 0)
  | .astore acc h n => some (encMtx 0x0A acc.toNat h.toNat 0 0 0 n.toNat)
  | .awm acc n => some (encMtx 0x0B acc.toNat 0 0 0 0 n.toNat)
  | .await acc n => some (encMtx 0x0C acc.toNat 0 0 0 0 n.toNat)
  | .ascale acc h => some (encMtx 0x0D acc.toNat h.toNat 0 0 0 0)
  | .acvt acc n => some (encMtx 0x0E acc.toNat 0 0 0 0 n.toNat)
  | .achk acc => some (encMtx 0x0F acc.toNat 0 0 0 0 0)
  | .hset h st => some (encMtx 0x10 0 h.toNat 0 0 st.toNat 0)
  | .hver h n => some (encMtx 0x11 0 h.toNat 0 0 0 n.toNat)
  | .ctbl t st => some (encMtx 0x18 0 0 0 0 st.toNat t.toNat)
  | .copy _ _ _ _ => none
  | .fill _ _ _ _ => none
  | .gather _ _ _ _ _ => none
  | .scatter _ _ _ _ _ => none
  | .mcast _ _ _ _ => none
  | .chsend _ _ _ => none
  | .xformConvert _ _ _ _ _ => none
  | .xformCompress _ _ _ _ => none
  | .xformExpand _ _ _ _ _ => none
  | .enc _ _ _ _ _ => none
  | .dec _ _ _ _ => none
  | .dcopy _ _ _ => none
  | .dfill _ _ _ => none
  | .dand _ _ _ _ => none
  | .dor _ _ _ _ => none
  | .dxor _ _ _ _ => none
  | .dnot _ _ _ => none
  | .dgsum _ _ _ _ _ => none
  | .sput _ _ _ => none
  | .sget _ _ _ => none
  | .sdrop _ => none
  | .spref _ => none
  | .sqry _ _ => none
  | .cred _ _ _ _ => none
  | .cgath _ _ _ _ => none
  | .cbar _ => none
  | .checkedOpEffect _ _ => none
  | .loadDataReturn _ => none
  | .storePerformed _ => none
  | .stalledIssueResume _ => none
  | .semwaitRelease _ => none
  | .waitInterrupted _ => none
  | .ringWaitRelease _ => none
  | .bwaitRelease _ => none
  | .tlwaitRelease _ => none
  | .tendReport _ => none
  | .vwaitRelease _ _ _ => none
  | .fullWaitRelease _ => none
  | .syncBundleJoin _ _ => none
  | .vexitJoin _ _ => none
  | .starvationCountExpiry _ _ => none
  | .vccResume _ => none
  | .commandHeadCheck _ => none
  | .commandWaitsMet _ => none
  | .strandCreate _ => none
  | .chainedCommandStart _ => none
  | .commandComplete _ _ => none
  | .commandSignal _ _ => none
  | .mcastLanding _ _ _ => none
  | .matrixStepCheck _ _ => none
  | .pinWaitRelease _ => none
  | .pinTimeout _ => none
  | .cutComplete _ => none
  | .qctlDiscard _ _ => none
  | .strctlEndStrand _ => none
  | .strandDrainTimeout _ _ => none
  | .ringmasterRound _ _ => none
  | .taskRetire _ _ _ => none
  | .stashLookahead _ _ => none
  | .chsendWindowGrant _ _ => none
  | .channelLanding _ _ _ _ _ _ => none
  | .channelPublish _ _ _ _ _ => none
  | .channelAdvertisement _ _ _ => none
  | .carouselConsume _ _ _ => none
  | .carouselReduceArrival _ _ _ => none
  | .carouselGatherArrival _ _ _ => none
  | .loadLtt _ => none
  | .declareStage _ => none
  | .launch _ => none
  | .preempt _ => none
  | .preemptSaved _ => none
  | .resume _ => none
  | .kill _ => none
  | .curtainMessage _ _ _ _ _ _ => none
  | .curtainReport _ _ _ => none
  | .curtainRise _ _ => none
  | .curtainFall _ _ _ => none
  | .curtainTimeout _ => none
  | .lossMessage _ _ => none
  | .flitReceive _ _ => none
  | .linkDown _ _ _ => none
  | .remoteStoreAck _ => none
  | .hostMemAccess _ _ _ => none
  | .lrbaseWrite _ _ => none
  | .lrsizeWrite _ _ => none
  | .lrtailWrite _ _ => none
  | .lrstatWrite _ _ => none
  | .lrkillWrite _ _ => none
  | .lttcmdWrite _ _ => none
  | .lttcmdRemove _ _ => none
  | .lttcmdResume _ _ => none
  | .dbgctlHalt _ _ => none
  | .dbgctlResume _ _ => none
  | .evbaseWrite _ _ => none
  | .evsizeWrite _ _ => none
  | .evheadWrite _ _ => none
  | .registerWrite _ _ _ => none
  | .moduleReset _ => none
  | .wearSample _ => none
  | .wearFlashWrite => none
  | .clockChangeStart _ => none
  | .clockChangeComplete _ => none
  | .laneRepair _ _ => none
  | .laneRepairDone _ _ => none
  | .tnextAnswerArrival _ => none
  | .remoteResultReturn _ _ => none
  | .remoteAccessAtHome _ => none
  | .leaseExpiry _ => none
  | .dirtySectorWriteBack _ => none
  | .powerLoss => none

/-- The word of a mover copy step (R59). -/
def encodeMvCopy : Instr → Option Nat
  | .add _ _ _ => none
  | .sub _ _ _ => none
  | .mul _ _ _ => none
  | .mulh _ _ _ => none
  | .mulhn _ _ _ => none
  | .div _ _ _ => none
  | .divn _ _ _ => none
  | .rem _ _ _ => none
  | .remn _ _ _ => none
  | .and _ _ _ => none
  | .or _ _ _ => none
  | .xor _ _ _ => none
  | .shl _ _ _ => none
  | .shr _ _ _ => none
  | .sar _ _ _ => none
  | .min _ _ _ => none
  | .max _ _ _ => none
  | .minn _ _ _ => none
  | .maxn _ _ _ => none
  | .slt _ _ _ => none
  | .sltn _ _ _ => none
  | .clz _ _ => none
  | .popc _ _ => none
  | .sel _ _ _ _ => none
  | .addi _ _ _ => none
  | .andi _ _ _ => none
  | .ori _ _ _ => none
  | .xori _ _ _ => none
  | .shli _ _ _ => none
  | .shri _ _ _ => none
  | .sari _ _ _ => none
  | .slti _ _ _ => none
  | .movhi _ _ => none
  | .ldB _ _ _ => none
  | .ldH _ _ _ => none
  | .ldW _ _ _ => none
  | .ldD _ _ _ => none
  | .ldsB _ _ _ => none
  | .ldsH _ _ _ => none
  | .ldsW _ _ _ => none
  | .ldsD _ _ _ => none
  | .stB _ _ _ => none
  | .stH _ _ _ => none
  | .stW _ _ _ => none
  | .stD _ _ _ => none
  | .bEq _ _ _ => none
  | .bNe _ _ _ => none
  | .bLt _ _ _ => none
  | .bGe _ _ _ => none
  | .bLtn _ _ _ => none
  | .bGen _ _ _ => none
  | .j _ => none
  | .jal _ => none
  | .jr _ _ => none
  | .tstw _ _ _ => none
  | .semadd _ _ _ => none
  | .semaddc _ _ => none
  | .semcas _ _ _ => none
  | .semset _ _ => none
  | .semread _ _ => none
  | .semwait _ _ => none
  | .draw _ _ => none
  | .rclaim _ _ => none
  | .rfill _ _ => none
  | .rwaitf _ => none
  | .rwaite _ => none
  | .rtake _ _ => none
  | .rfree _ _ => none
  | .rstat _ _ => none
  | .join _ => none
  | .leave _ => none
  | .arrive _ _ => none
  | .bwait _ _ => none
  | .btest _ _ _ => none
  | .tlwait _ _ _ => none
  | .tlread _ _ _ => none
  | .xfenceO2E => none
  | .xfenceE2O => none
  | .cload _ _ _ => none
  | .cset _ _ _ => none
  | .cseti _ _ _ => none
  | .cpush _ _ => none
  | .cstat _ _ _ => none
  | .tnext _ => none
  | .tend => none
  | .tabort => none
  | .tquery _ _ => none
  | .nop => none
  | .halt => none
  | .trap _ => none
  | .eret => none
  | .sysr _ _ => none
  | .sysw _ _ => none
  | .probe _ => none
  | .clean _ _ => none
  | .inval _ _ => none
  | .ptest _ _ => none
  | .pfxC _ => none
  | .pfxI _ => none
  | .fadd _ _ _ _ => none
  | .fsub _ _ _ _ => none
  | .fmul _ _ _ _ => none
  | .fma _ _ _ _ => none
  | .fms _ _ _ _ => none
  | .fnma _ _ _ _ => none
  | .fmin _ _ _ _ => none
  | .fmax _ _ _ _ => none
  | .fabs _ _ _ => none
  | .fneg _ _ _ => none
  | .fcmpSet1 _ _ _ _ _ => none
  | .fcmpSet2 _ _ _ _ _ => none
  | .frcp _ _ _ => none
  | .frsq _ _ _ => none
  | .fsqrt _ _ _ => none
  | .fdiv _ _ _ _ => none
  | .fexp2 _ _ _ => none
  | .flog2 _ _ _ => none
  | .fclass _ _ _ => none
  | .iadd _ _ _ _ => none
  | .iadds _ _ _ _ => none
  | .isub _ _ _ _ => none
  | .imul _ _ _ _ => none
  | .imulh _ _ _ _ => none
  | .imad _ _ _ _ => none
  | .imin _ _ _ _ => none
  | .imax _ _ _ _ => none
  | .iabs _ _ _ => none
  | .iand _ _ _ _ => none
  | .ior _ _ _ _ => none
  | .ixor _ _ _ _ => none
  | .inot _ _ _ => none
  | .ishl _ _ _ _ => none
  | .ishr _ _ _ _ => none
  | .isar _ _ _ _ => none
  | .icmpSet1 _ _ _ _ _ => none
  | .icmpSet2 _ _ _ _ _ => none
  | .cvt _ _ _ _ => none
  | .cvtsr _ _ _ _ => none
  | .bamax _ _ _ => none
  | .bscale _ _ _ _ => none
  | .qnt _ _ _ _ => none
  | .dqnt _ _ _ _ => none
  | .pack _ _ _ _ => none
  | .unpack _ _ _ _ => none
  | .mov _ _ _ => none
  | .movi _ _ _ => none
  | .movx _ _ _ => none
  | .vgetx _ _ _ => none
  | .vsetx _ _ _ => none
  | .perm _ _ _ _ => none
  | .xperm _ _ _ _ => none
  | .bcast _ _ _ _ => none
  | .lshift _ _ _ _ => none
  | .redsum _ _ _ => none
  | .redmax _ _ _ => none
  | .scan _ _ _ => none
  | .vld _ _ _ _ _ => none
  | .vst _ _ _ _ _ => none
  | .vlds _ _ _ _ _ => none
  | .vsts _ _ _ _ _ => none
  | .vldx _ _ _ _ _ => none
  | .vstx _ _ _ _ _ => none
  | .vstm _ _ _ => none
  | .vtstw _ _ => none
  | .pset _ _ _ => none
  | .pand _ _ _ _ => none
  | .por _ _ _ _ => none
  | .pxor _ _ _ _ => none
  | .pnot _ _ _ => none
  | .pany _ _ _ => none
  | .pcnt _ _ _ => none
  | .vbr _ _ _ => none
  | .vjmp _ => none
  | .vyield => none
  | .vexit => none
  | .vwait _ _ => none
  | .vsetshImm _ => none
  | .vsetshX _ => none
  | .vnop => none
  | .vpfxr _ _ _ _ => none
  | .vpfxi _ => none
  | .mma _ _ _ _ => none
  | .mmabs _ _ _ _ => none
  | .azero _ => none
  | .aload _ _ => none
  | .astore _ _ _ => none
  | .awm _ _ => none
  | .await _ _ => none
  | .ascale _ _ => none
  | .acvt _ _ => none
  | .achk _ => none
  | .hset _ _ => none
  | .hver _ _ => none
  | .ctbl _ _ => none
  | .copy sa sb f1 n => some (encStep 0x01 sa.toNat sb.toNat 0 f1.toNat 0 n.toNat)
  | .fill sa sb f1 n => some (encStep 0x02 sa.toNat sb.toNat 0 f1.toNat 0 n.toNat)
  | .gather sa sb sc f1 n => some (encStep 0x03 sa.toNat sb.toNat sc.toNat f1.toNat 0 n.toNat)
  | .scatter sa sb sc f1 n => some (encStep 0x04 sa.toNat sb.toNat sc.toNat f1.toNat 0 n.toNat)
  | .mcast sa sc f1 n => some (encStep 0x05 sa.toNat 0 sc.toNat f1.toNat 0 n.toNat)
  | .chsend sa q n => some (encId 0x06 sa.toNat (q.toNat * 16) n.toNat)
  | .xformConvert _ _ _ _ _ => none
  | .xformCompress _ _ _ _ => none
  | .xformExpand _ _ _ _ _ => none
  | .enc _ _ _ _ _ => none
  | .dec _ _ _ _ => none
  | .dcopy _ _ _ => none
  | .dfill _ _ _ => none
  | .dand _ _ _ _ => none
  | .dor _ _ _ _ => none
  | .dxor _ _ _ _ => none
  | .dnot _ _ _ => none
  | .dgsum _ _ _ _ _ => none
  | .sput _ _ _ => none
  | .sget _ _ _ => none
  | .sdrop _ => none
  | .spref _ => none
  | .sqry _ _ => none
  | .cred _ _ _ _ => none
  | .cgath _ _ _ _ => none
  | .cbar _ => none
  | .checkedOpEffect _ _ => none
  | .loadDataReturn _ => none
  | .storePerformed _ => none
  | .stalledIssueResume _ => none
  | .semwaitRelease _ => none
  | .waitInterrupted _ => none
  | .ringWaitRelease _ => none
  | .bwaitRelease _ => none
  | .tlwaitRelease _ => none
  | .tendReport _ => none
  | .vwaitRelease _ _ _ => none
  | .fullWaitRelease _ => none
  | .syncBundleJoin _ _ => none
  | .vexitJoin _ _ => none
  | .starvationCountExpiry _ _ => none
  | .vccResume _ => none
  | .commandHeadCheck _ => none
  | .commandWaitsMet _ => none
  | .strandCreate _ => none
  | .chainedCommandStart _ => none
  | .commandComplete _ _ => none
  | .commandSignal _ _ => none
  | .mcastLanding _ _ _ => none
  | .matrixStepCheck _ _ => none
  | .pinWaitRelease _ => none
  | .pinTimeout _ => none
  | .cutComplete _ => none
  | .qctlDiscard _ _ => none
  | .strctlEndStrand _ => none
  | .strandDrainTimeout _ _ => none
  | .ringmasterRound _ _ => none
  | .taskRetire _ _ _ => none
  | .stashLookahead _ _ => none
  | .chsendWindowGrant _ _ => none
  | .channelLanding _ _ _ _ _ _ => none
  | .channelPublish _ _ _ _ _ => none
  | .channelAdvertisement _ _ _ => none
  | .carouselConsume _ _ _ => none
  | .carouselReduceArrival _ _ _ => none
  | .carouselGatherArrival _ _ _ => none
  | .loadLtt _ => none
  | .declareStage _ => none
  | .launch _ => none
  | .preempt _ => none
  | .preemptSaved _ => none
  | .resume _ => none
  | .kill _ => none
  | .curtainMessage _ _ _ _ _ _ => none
  | .curtainReport _ _ _ => none
  | .curtainRise _ _ => none
  | .curtainFall _ _ _ => none
  | .curtainTimeout _ => none
  | .lossMessage _ _ => none
  | .flitReceive _ _ => none
  | .linkDown _ _ _ => none
  | .remoteStoreAck _ => none
  | .hostMemAccess _ _ _ => none
  | .lrbaseWrite _ _ => none
  | .lrsizeWrite _ _ => none
  | .lrtailWrite _ _ => none
  | .lrstatWrite _ _ => none
  | .lrkillWrite _ _ => none
  | .lttcmdWrite _ _ => none
  | .lttcmdRemove _ _ => none
  | .lttcmdResume _ _ => none
  | .dbgctlHalt _ _ => none
  | .dbgctlResume _ _ => none
  | .evbaseWrite _ _ => none
  | .evsizeWrite _ _ => none
  | .evheadWrite _ _ => none
  | .registerWrite _ _ _ => none
  | .moduleReset _ => none
  | .wearSample _ => none
  | .wearFlashWrite => none
  | .clockChangeStart _ => none
  | .clockChangeComplete _ => none
  | .laneRepair _ _ => none
  | .laneRepairDone _ _ => none
  | .tnextAnswerArrival _ => none
  | .remoteResultReturn _ _ => none
  | .remoteAccessAtHome _ => none
  | .leaseExpiry _ => none
  | .dirtySectorWriteBack _ => none
  | .powerLoss => none

/-- The word of a mover transform step (R59). -/
def encodeMvXform : Instr → Option Nat
  | .add _ _ _ => none
  | .sub _ _ _ => none
  | .mul _ _ _ => none
  | .mulh _ _ _ => none
  | .mulhn _ _ _ => none
  | .div _ _ _ => none
  | .divn _ _ _ => none
  | .rem _ _ _ => none
  | .remn _ _ _ => none
  | .and _ _ _ => none
  | .or _ _ _ => none
  | .xor _ _ _ => none
  | .shl _ _ _ => none
  | .shr _ _ _ => none
  | .sar _ _ _ => none
  | .min _ _ _ => none
  | .max _ _ _ => none
  | .minn _ _ _ => none
  | .maxn _ _ _ => none
  | .slt _ _ _ => none
  | .sltn _ _ _ => none
  | .clz _ _ => none
  | .popc _ _ => none
  | .sel _ _ _ _ => none
  | .addi _ _ _ => none
  | .andi _ _ _ => none
  | .ori _ _ _ => none
  | .xori _ _ _ => none
  | .shli _ _ _ => none
  | .shri _ _ _ => none
  | .sari _ _ _ => none
  | .slti _ _ _ => none
  | .movhi _ _ => none
  | .ldB _ _ _ => none
  | .ldH _ _ _ => none
  | .ldW _ _ _ => none
  | .ldD _ _ _ => none
  | .ldsB _ _ _ => none
  | .ldsH _ _ _ => none
  | .ldsW _ _ _ => none
  | .ldsD _ _ _ => none
  | .stB _ _ _ => none
  | .stH _ _ _ => none
  | .stW _ _ _ => none
  | .stD _ _ _ => none
  | .bEq _ _ _ => none
  | .bNe _ _ _ => none
  | .bLt _ _ _ => none
  | .bGe _ _ _ => none
  | .bLtn _ _ _ => none
  | .bGen _ _ _ => none
  | .j _ => none
  | .jal _ => none
  | .jr _ _ => none
  | .tstw _ _ _ => none
  | .semadd _ _ _ => none
  | .semaddc _ _ => none
  | .semcas _ _ _ => none
  | .semset _ _ => none
  | .semread _ _ => none
  | .semwait _ _ => none
  | .draw _ _ => none
  | .rclaim _ _ => none
  | .rfill _ _ => none
  | .rwaitf _ => none
  | .rwaite _ => none
  | .rtake _ _ => none
  | .rfree _ _ => none
  | .rstat _ _ => none
  | .join _ => none
  | .leave _ => none
  | .arrive _ _ => none
  | .bwait _ _ => none
  | .btest _ _ _ => none
  | .tlwait _ _ _ => none
  | .tlread _ _ _ => none
  | .xfenceO2E => none
  | .xfenceE2O => none
  | .cload _ _ _ => none
  | .cset _ _ _ => none
  | .cseti _ _ _ => none
  | .cpush _ _ => none
  | .cstat _ _ _ => none
  | .tnext _ => none
  | .tend => none
  | .tabort => none
  | .tquery _ _ => none
  | .nop => none
  | .halt => none
  | .trap _ => none
  | .eret => none
  | .sysr _ _ => none
  | .sysw _ _ => none
  | .probe _ => none
  | .clean _ _ => none
  | .inval _ _ => none
  | .ptest _ _ => none
  | .pfxC _ => none
  | .pfxI _ => none
  | .fadd _ _ _ _ => none
  | .fsub _ _ _ _ => none
  | .fmul _ _ _ _ => none
  | .fma _ _ _ _ => none
  | .fms _ _ _ _ => none
  | .fnma _ _ _ _ => none
  | .fmin _ _ _ _ => none
  | .fmax _ _ _ _ => none
  | .fabs _ _ _ => none
  | .fneg _ _ _ => none
  | .fcmpSet1 _ _ _ _ _ => none
  | .fcmpSet2 _ _ _ _ _ => none
  | .frcp _ _ _ => none
  | .frsq _ _ _ => none
  | .fsqrt _ _ _ => none
  | .fdiv _ _ _ _ => none
  | .fexp2 _ _ _ => none
  | .flog2 _ _ _ => none
  | .fclass _ _ _ => none
  | .iadd _ _ _ _ => none
  | .iadds _ _ _ _ => none
  | .isub _ _ _ _ => none
  | .imul _ _ _ _ => none
  | .imulh _ _ _ _ => none
  | .imad _ _ _ _ => none
  | .imin _ _ _ _ => none
  | .imax _ _ _ _ => none
  | .iabs _ _ _ => none
  | .iand _ _ _ _ => none
  | .ior _ _ _ _ => none
  | .ixor _ _ _ _ => none
  | .inot _ _ _ => none
  | .ishl _ _ _ _ => none
  | .ishr _ _ _ _ => none
  | .isar _ _ _ _ => none
  | .icmpSet1 _ _ _ _ _ => none
  | .icmpSet2 _ _ _ _ _ => none
  | .cvt _ _ _ _ => none
  | .cvtsr _ _ _ _ => none
  | .bamax _ _ _ => none
  | .bscale _ _ _ _ => none
  | .qnt _ _ _ _ => none
  | .dqnt _ _ _ _ => none
  | .pack _ _ _ _ => none
  | .unpack _ _ _ _ => none
  | .mov _ _ _ => none
  | .movi _ _ _ => none
  | .movx _ _ _ => none
  | .vgetx _ _ _ => none
  | .vsetx _ _ _ => none
  | .perm _ _ _ _ => none
  | .xperm _ _ _ _ => none
  | .bcast _ _ _ _ => none
  | .lshift _ _ _ _ => none
  | .redsum _ _ _ => none
  | .redmax _ _ _ => none
  | .scan _ _ _ => none
  | .vld _ _ _ _ _ => none
  | .vst _ _ _ _ _ => none
  | .vlds _ _ _ _ _ => none
  | .vsts _ _ _ _ _ => none
  | .vldx _ _ _ _ _ => none
  | .vstx _ _ _ _ _ => none
  | .vstm _ _ _ => none
  | .vtstw _ _ => none
  | .pset _ _ _ => none
  | .pand _ _ _ _ => none
  | .por _ _ _ _ => none
  | .pxor _ _ _ _ => none
  | .pnot _ _ _ => none
  | .pany _ _ _ => none
  | .pcnt _ _ _ => none
  | .vbr _ _ _ => none
  | .vjmp _ => none
  | .vyield => none
  | .vexit => none
  | .vwait _ _ => none
  | .vsetshImm _ => none
  | .vsetshX _ => none
  | .vnop => none
  | .vpfxr _ _ _ _ => none
  | .vpfxi _ => none
  | .mma _ _ _ _ => none
  | .mmabs _ _ _ _ => none
  | .azero _ => none
  | .aload _ _ => none
  | .astore _ _ _ => none
  | .awm _ _ => none
  | .await _ _ => none
  | .ascale _ _ => none
  | .acvt _ _ => none
  | .achk _ => none
  | .hset _ _ => none
  | .hver _ _ => none
  | .ctbl _ _ => none
  | .copy _ _ _ _ => none
  | .fill _ _ _ _ => none
  | .gather _ _ _ _ _ => none
  | .scatter _ _ _ _ _ => none
  | .mcast _ _ _ _ => none
  | .chsend _ _ _ => none
  | .xformConvert sa sb f1 f2 n => some (encStep 0x01 sa.toNat sb.toNat 0 f1.toNat f2.toNat n.toNat)
  | .xformCompress sa sb method n => some (encStep 0x01 sa.toNat sb.toNat 1 0 method.toNat n.toNat)
  | .xformExpand sa sb f1 method n => some (encStep 0x01 sa.toNat sb.toNat 2 f1.toNat method.toNat n.toNat)
  | .enc sa sb f1 t n => some (encStep 0x02 sa.toNat sb.toNat 0 f1.toNat t.toNat n.toNat)
  | .dec sa sb f1 n => some (encStep 0x03 sa.toNat sb.toNat 0 f1.toNat 0 n.toNat)
  | .dcopy _ _ _ => none
  | .dfill _ _ _ => none
  | .dand _ _ _ _ => none
  | .dor _ _ _ _ => none
  | .dxor _ _ _ _ => none
  | .dnot _ _ _ => none
  | .dgsum _ _ _ _ _ => none
  | .sput _ _ _ => none
  | .sget _ _ _ => none
  | .sdrop _ => none
  | .spref _ => none
  | .sqry _ _ => none
  | .cred _ _ _ _ => none
  | .cgath _ _ _ _ => none
  | .cbar _ => none
  | .checkedOpEffect _ _ => none
  | .loadDataReturn _ => none
  | .storePerformed _ => none
  | .stalledIssueResume _ => none
  | .semwaitRelease _ => none
  | .waitInterrupted _ => none
  | .ringWaitRelease _ => none
  | .bwaitRelease _ => none
  | .tlwaitRelease _ => none
  | .tendReport _ => none
  | .vwaitRelease _ _ _ => none
  | .fullWaitRelease _ => none
  | .syncBundleJoin _ _ => none
  | .vexitJoin _ _ => none
  | .starvationCountExpiry _ _ => none
  | .vccResume _ => none
  | .commandHeadCheck _ => none
  | .commandWaitsMet _ => none
  | .strandCreate _ => none
  | .chainedCommandStart _ => none
  | .commandComplete _ _ => none
  | .commandSignal _ _ => none
  | .mcastLanding _ _ _ => none
  | .matrixStepCheck _ _ => none
  | .pinWaitRelease _ => none
  | .pinTimeout _ => none
  | .cutComplete _ => none
  | .qctlDiscard _ _ => none
  | .strctlEndStrand _ => none
  | .strandDrainTimeout _ _ => none
  | .ringmasterRound _ _ => none
  | .taskRetire _ _ _ => none
  | .stashLookahead _ _ => none
  | .chsendWindowGrant _ _ => none
  | .channelLanding _ _ _ _ _ _ => none
  | .channelPublish _ _ _ _ _ => none
  | .channelAdvertisement _ _ _ => none
  | .carouselConsume _ _ _ => none
  | .carouselReduceArrival _ _ _ => none
  | .carouselGatherArrival _ _ _ => none
  | .loadLtt _ => none
  | .declareStage _ => none
  | .launch _ => none
  | .preempt _ => none
  | .preemptSaved _ => none
  | .resume _ => none
  | .kill _ => none
  | .curtainMessage _ _ _ _ _ _ => none
  | .curtainReport _ _ _ => none
  | .curtainRise _ _ => none
  | .curtainFall _ _ _ => none
  | .curtainTimeout _ => none
  | .lossMessage _ _ => none
  | .flitReceive _ _ => none
  | .linkDown _ _ _ => none
  | .remoteStoreAck _ => none
  | .hostMemAccess _ _ _ => none
  | .lrbaseWrite _ _ => none
  | .lrsizeWrite _ _ => none
  | .lrtailWrite _ _ => none
  | .lrstatWrite _ _ => none
  | .lrkillWrite _ _ => none
  | .lttcmdWrite _ _ => none
  | .lttcmdRemove _ _ => none
  | .lttcmdResume _ _ => none
  | .dbgctlHalt _ _ => none
  | .dbgctlResume _ _ => none
  | .evbaseWrite _ _ => none
  | .evsizeWrite _ _ => none
  | .evheadWrite _ _ => none
  | .registerWrite _ _ _ => none
  | .moduleReset _ => none
  | .wearSample _ => none
  | .wearFlashWrite => none
  | .clockChangeStart _ => none
  | .clockChangeComplete _ => none
  | .laneRepair _ _ => none
  | .laneRepairDone _ _ => none
  | .tnextAnswerArrival _ => none
  | .remoteResultReturn _ _ => none
  | .remoteAccessAtHome _ => none
  | .leaseExpiry _ => none
  | .dirtySectorWriteBack _ => none
  | .powerLoss => none

/-- The word of a DOU step (R59). -/
def encodeDou : Instr → Option Nat
  | .add _ _ _ => none
  | .sub _ _ _ => none
  | .mul _ _ _ => none
  | .mulh _ _ _ => none
  | .mulhn _ _ _ => none
  | .div _ _ _ => none
  | .divn _ _ _ => none
  | .rem _ _ _ => none
  | .remn _ _ _ => none
  | .and _ _ _ => none
  | .or _ _ _ => none
  | .xor _ _ _ => none
  | .shl _ _ _ => none
  | .shr _ _ _ => none
  | .sar _ _ _ => none
  | .min _ _ _ => none
  | .max _ _ _ => none
  | .minn _ _ _ => none
  | .maxn _ _ _ => none
  | .slt _ _ _ => none
  | .sltn _ _ _ => none
  | .clz _ _ => none
  | .popc _ _ => none
  | .sel _ _ _ _ => none
  | .addi _ _ _ => none
  | .andi _ _ _ => none
  | .ori _ _ _ => none
  | .xori _ _ _ => none
  | .shli _ _ _ => none
  | .shri _ _ _ => none
  | .sari _ _ _ => none
  | .slti _ _ _ => none
  | .movhi _ _ => none
  | .ldB _ _ _ => none
  | .ldH _ _ _ => none
  | .ldW _ _ _ => none
  | .ldD _ _ _ => none
  | .ldsB _ _ _ => none
  | .ldsH _ _ _ => none
  | .ldsW _ _ _ => none
  | .ldsD _ _ _ => none
  | .stB _ _ _ => none
  | .stH _ _ _ => none
  | .stW _ _ _ => none
  | .stD _ _ _ => none
  | .bEq _ _ _ => none
  | .bNe _ _ _ => none
  | .bLt _ _ _ => none
  | .bGe _ _ _ => none
  | .bLtn _ _ _ => none
  | .bGen _ _ _ => none
  | .j _ => none
  | .jal _ => none
  | .jr _ _ => none
  | .tstw _ _ _ => none
  | .semadd _ _ _ => none
  | .semaddc _ _ => none
  | .semcas _ _ _ => none
  | .semset _ _ => none
  | .semread _ _ => none
  | .semwait _ _ => none
  | .draw _ _ => none
  | .rclaim _ _ => none
  | .rfill _ _ => none
  | .rwaitf _ => none
  | .rwaite _ => none
  | .rtake _ _ => none
  | .rfree _ _ => none
  | .rstat _ _ => none
  | .join _ => none
  | .leave _ => none
  | .arrive _ _ => none
  | .bwait _ _ => none
  | .btest _ _ _ => none
  | .tlwait _ _ _ => none
  | .tlread _ _ _ => none
  | .xfenceO2E => none
  | .xfenceE2O => none
  | .cload _ _ _ => none
  | .cset _ _ _ => none
  | .cseti _ _ _ => none
  | .cpush _ _ => none
  | .cstat _ _ _ => none
  | .tnext _ => none
  | .tend => none
  | .tabort => none
  | .tquery _ _ => none
  | .nop => none
  | .halt => none
  | .trap _ => none
  | .eret => none
  | .sysr _ _ => none
  | .sysw _ _ => none
  | .probe _ => none
  | .clean _ _ => none
  | .inval _ _ => none
  | .ptest _ _ => none
  | .pfxC _ => none
  | .pfxI _ => none
  | .fadd _ _ _ _ => none
  | .fsub _ _ _ _ => none
  | .fmul _ _ _ _ => none
  | .fma _ _ _ _ => none
  | .fms _ _ _ _ => none
  | .fnma _ _ _ _ => none
  | .fmin _ _ _ _ => none
  | .fmax _ _ _ _ => none
  | .fabs _ _ _ => none
  | .fneg _ _ _ => none
  | .fcmpSet1 _ _ _ _ _ => none
  | .fcmpSet2 _ _ _ _ _ => none
  | .frcp _ _ _ => none
  | .frsq _ _ _ => none
  | .fsqrt _ _ _ => none
  | .fdiv _ _ _ _ => none
  | .fexp2 _ _ _ => none
  | .flog2 _ _ _ => none
  | .fclass _ _ _ => none
  | .iadd _ _ _ _ => none
  | .iadds _ _ _ _ => none
  | .isub _ _ _ _ => none
  | .imul _ _ _ _ => none
  | .imulh _ _ _ _ => none
  | .imad _ _ _ _ => none
  | .imin _ _ _ _ => none
  | .imax _ _ _ _ => none
  | .iabs _ _ _ => none
  | .iand _ _ _ _ => none
  | .ior _ _ _ _ => none
  | .ixor _ _ _ _ => none
  | .inot _ _ _ => none
  | .ishl _ _ _ _ => none
  | .ishr _ _ _ _ => none
  | .isar _ _ _ _ => none
  | .icmpSet1 _ _ _ _ _ => none
  | .icmpSet2 _ _ _ _ _ => none
  | .cvt _ _ _ _ => none
  | .cvtsr _ _ _ _ => none
  | .bamax _ _ _ => none
  | .bscale _ _ _ _ => none
  | .qnt _ _ _ _ => none
  | .dqnt _ _ _ _ => none
  | .pack _ _ _ _ => none
  | .unpack _ _ _ _ => none
  | .mov _ _ _ => none
  | .movi _ _ _ => none
  | .movx _ _ _ => none
  | .vgetx _ _ _ => none
  | .vsetx _ _ _ => none
  | .perm _ _ _ _ => none
  | .xperm _ _ _ _ => none
  | .bcast _ _ _ _ => none
  | .lshift _ _ _ _ => none
  | .redsum _ _ _ => none
  | .redmax _ _ _ => none
  | .scan _ _ _ => none
  | .vld _ _ _ _ _ => none
  | .vst _ _ _ _ _ => none
  | .vlds _ _ _ _ _ => none
  | .vsts _ _ _ _ _ => none
  | .vldx _ _ _ _ _ => none
  | .vstx _ _ _ _ _ => none
  | .vstm _ _ _ => none
  | .vtstw _ _ => none
  | .pset _ _ _ => none
  | .pand _ _ _ _ => none
  | .por _ _ _ _ => none
  | .pxor _ _ _ _ => none
  | .pnot _ _ _ => none
  | .pany _ _ _ => none
  | .pcnt _ _ _ => none
  | .vbr _ _ _ => none
  | .vjmp _ => none
  | .vyield => none
  | .vexit => none
  | .vwait _ _ => none
  | .vsetshImm _ => none
  | .vsetshX _ => none
  | .vnop => none
  | .vpfxr _ _ _ _ => none
  | .vpfxi _ => none
  | .mma _ _ _ _ => none
  | .mmabs _ _ _ _ => none
  | .azero _ => none
  | .aload _ _ => none
  | .astore _ _ _ => none
  | .awm _ _ => none
  | .await _ _ => none
  | .ascale _ _ => none
  | .acvt _ _ => none
  | .achk _ => none
  | .hset _ _ => none
  | .hver _ _ => none
  | .ctbl _ _ => none
  | .copy _ _ _ _ => none
  | .fill _ _ _ _ => none
  | .gather _ _ _ _ _ => none
  | .scatter _ _ _ _ _ => none
  | .mcast _ _ _ _ => none
  | .chsend _ _ _ => none
  | .xformConvert _ _ _ _ _ => none
  | .xformCompress _ _ _ _ => none
  | .xformExpand _ _ _ _ _ => none
  | .enc _ _ _ _ _ => none
  | .dec _ _ _ _ => none
  | .dcopy sa sb n => some (encStep 0x01 sa.toNat sb.toNat 0 0 0 n.toNat)
  | .dfill sa sb n => some (encStep 0x02 sa.toNat sb.toNat 0 0 0 n.toNat)
  | .dand sa sb sc n => some (encStep 0x03 sa.toNat sb.toNat sc.toNat 0 0 n.toNat)
  | .dor sa sb sc n => some (encStep 0x04 sa.toNat sb.toNat sc.toNat 0 0 n.toNat)
  | .dxor sa sb sc n => some (encStep 0x05 sa.toNat sb.toNat sc.toNat 0 0 n.toNat)
  | .dnot sa sb n => some (encStep 0x06 sa.toNat sb.toNat 0 0 0 n.toNat)
  | .dgsum sa sb sc f1 n => some (encStep 0x07 sa.toNat sb.toNat sc.toNat f1.toNat 0 n.toNat)
  | .sput _ _ _ => none
  | .sget _ _ _ => none
  | .sdrop _ => none
  | .spref _ => none
  | .sqry _ _ => none
  | .cred _ _ _ _ => none
  | .cgath _ _ _ _ => none
  | .cbar _ => none
  | .checkedOpEffect _ _ => none
  | .loadDataReturn _ => none
  | .storePerformed _ => none
  | .stalledIssueResume _ => none
  | .semwaitRelease _ => none
  | .waitInterrupted _ => none
  | .ringWaitRelease _ => none
  | .bwaitRelease _ => none
  | .tlwaitRelease _ => none
  | .tendReport _ => none
  | .vwaitRelease _ _ _ => none
  | .fullWaitRelease _ => none
  | .syncBundleJoin _ _ => none
  | .vexitJoin _ _ => none
  | .starvationCountExpiry _ _ => none
  | .vccResume _ => none
  | .commandHeadCheck _ => none
  | .commandWaitsMet _ => none
  | .strandCreate _ => none
  | .chainedCommandStart _ => none
  | .commandComplete _ _ => none
  | .commandSignal _ _ => none
  | .mcastLanding _ _ _ => none
  | .matrixStepCheck _ _ => none
  | .pinWaitRelease _ => none
  | .pinTimeout _ => none
  | .cutComplete _ => none
  | .qctlDiscard _ _ => none
  | .strctlEndStrand _ => none
  | .strandDrainTimeout _ _ => none
  | .ringmasterRound _ _ => none
  | .taskRetire _ _ _ => none
  | .stashLookahead _ _ => none
  | .chsendWindowGrant _ _ => none
  | .channelLanding _ _ _ _ _ _ => none
  | .channelPublish _ _ _ _ _ => none
  | .channelAdvertisement _ _ _ => none
  | .carouselConsume _ _ _ => none
  | .carouselReduceArrival _ _ _ => none
  | .carouselGatherArrival _ _ _ => none
  | .loadLtt _ => none
  | .declareStage _ => none
  | .launch _ => none
  | .preempt _ => none
  | .preemptSaved _ => none
  | .resume _ => none
  | .kill _ => none
  | .curtainMessage _ _ _ _ _ _ => none
  | .curtainReport _ _ _ => none
  | .curtainRise _ _ => none
  | .curtainFall _ _ _ => none
  | .curtainTimeout _ => none
  | .lossMessage _ _ => none
  | .flitReceive _ _ => none
  | .linkDown _ _ _ => none
  | .remoteStoreAck _ => none
  | .hostMemAccess _ _ _ => none
  | .lrbaseWrite _ _ => none
  | .lrsizeWrite _ _ => none
  | .lrtailWrite _ _ => none
  | .lrstatWrite _ _ => none
  | .lrkillWrite _ _ => none
  | .lttcmdWrite _ _ => none
  | .lttcmdRemove _ _ => none
  | .lttcmdResume _ _ => none
  | .dbgctlHalt _ _ => none
  | .dbgctlResume _ _ => none
  | .evbaseWrite _ _ => none
  | .evsizeWrite _ _ => none
  | .evheadWrite _ _ => none
  | .registerWrite _ _ _ => none
  | .moduleReset _ => none
  | .wearSample _ => none
  | .wearFlashWrite => none
  | .clockChangeStart _ => none
  | .clockChangeComplete _ => none
  | .laneRepair _ _ => none
  | .laneRepairDone _ _ => none
  | .tnextAnswerArrival _ => none
  | .remoteResultReturn _ _ => none
  | .remoteAccessAtHome _ => none
  | .leaseExpiry _ => none
  | .dirtySectorWriteBack _ => none
  | .powerLoss => none

/-- The word of a stash step (R59). -/
def encodeStash : Instr → Option Nat
  | .add _ _ _ => none
  | .sub _ _ _ => none
  | .mul _ _ _ => none
  | .mulh _ _ _ => none
  | .mulhn _ _ _ => none
  | .div _ _ _ => none
  | .divn _ _ _ => none
  | .rem _ _ _ => none
  | .remn _ _ _ => none
  | .and _ _ _ => none
  | .or _ _ _ => none
  | .xor _ _ _ => none
  | .shl _ _ _ => none
  | .shr _ _ _ => none
  | .sar _ _ _ => none
  | .min _ _ _ => none
  | .max _ _ _ => none
  | .minn _ _ _ => none
  | .maxn _ _ _ => none
  | .slt _ _ _ => none
  | .sltn _ _ _ => none
  | .clz _ _ => none
  | .popc _ _ => none
  | .sel _ _ _ _ => none
  | .addi _ _ _ => none
  | .andi _ _ _ => none
  | .ori _ _ _ => none
  | .xori _ _ _ => none
  | .shli _ _ _ => none
  | .shri _ _ _ => none
  | .sari _ _ _ => none
  | .slti _ _ _ => none
  | .movhi _ _ => none
  | .ldB _ _ _ => none
  | .ldH _ _ _ => none
  | .ldW _ _ _ => none
  | .ldD _ _ _ => none
  | .ldsB _ _ _ => none
  | .ldsH _ _ _ => none
  | .ldsW _ _ _ => none
  | .ldsD _ _ _ => none
  | .stB _ _ _ => none
  | .stH _ _ _ => none
  | .stW _ _ _ => none
  | .stD _ _ _ => none
  | .bEq _ _ _ => none
  | .bNe _ _ _ => none
  | .bLt _ _ _ => none
  | .bGe _ _ _ => none
  | .bLtn _ _ _ => none
  | .bGen _ _ _ => none
  | .j _ => none
  | .jal _ => none
  | .jr _ _ => none
  | .tstw _ _ _ => none
  | .semadd _ _ _ => none
  | .semaddc _ _ => none
  | .semcas _ _ _ => none
  | .semset _ _ => none
  | .semread _ _ => none
  | .semwait _ _ => none
  | .draw _ _ => none
  | .rclaim _ _ => none
  | .rfill _ _ => none
  | .rwaitf _ => none
  | .rwaite _ => none
  | .rtake _ _ => none
  | .rfree _ _ => none
  | .rstat _ _ => none
  | .join _ => none
  | .leave _ => none
  | .arrive _ _ => none
  | .bwait _ _ => none
  | .btest _ _ _ => none
  | .tlwait _ _ _ => none
  | .tlread _ _ _ => none
  | .xfenceO2E => none
  | .xfenceE2O => none
  | .cload _ _ _ => none
  | .cset _ _ _ => none
  | .cseti _ _ _ => none
  | .cpush _ _ => none
  | .cstat _ _ _ => none
  | .tnext _ => none
  | .tend => none
  | .tabort => none
  | .tquery _ _ => none
  | .nop => none
  | .halt => none
  | .trap _ => none
  | .eret => none
  | .sysr _ _ => none
  | .sysw _ _ => none
  | .probe _ => none
  | .clean _ _ => none
  | .inval _ _ => none
  | .ptest _ _ => none
  | .pfxC _ => none
  | .pfxI _ => none
  | .fadd _ _ _ _ => none
  | .fsub _ _ _ _ => none
  | .fmul _ _ _ _ => none
  | .fma _ _ _ _ => none
  | .fms _ _ _ _ => none
  | .fnma _ _ _ _ => none
  | .fmin _ _ _ _ => none
  | .fmax _ _ _ _ => none
  | .fabs _ _ _ => none
  | .fneg _ _ _ => none
  | .fcmpSet1 _ _ _ _ _ => none
  | .fcmpSet2 _ _ _ _ _ => none
  | .frcp _ _ _ => none
  | .frsq _ _ _ => none
  | .fsqrt _ _ _ => none
  | .fdiv _ _ _ _ => none
  | .fexp2 _ _ _ => none
  | .flog2 _ _ _ => none
  | .fclass _ _ _ => none
  | .iadd _ _ _ _ => none
  | .iadds _ _ _ _ => none
  | .isub _ _ _ _ => none
  | .imul _ _ _ _ => none
  | .imulh _ _ _ _ => none
  | .imad _ _ _ _ => none
  | .imin _ _ _ _ => none
  | .imax _ _ _ _ => none
  | .iabs _ _ _ => none
  | .iand _ _ _ _ => none
  | .ior _ _ _ _ => none
  | .ixor _ _ _ _ => none
  | .inot _ _ _ => none
  | .ishl _ _ _ _ => none
  | .ishr _ _ _ _ => none
  | .isar _ _ _ _ => none
  | .icmpSet1 _ _ _ _ _ => none
  | .icmpSet2 _ _ _ _ _ => none
  | .cvt _ _ _ _ => none
  | .cvtsr _ _ _ _ => none
  | .bamax _ _ _ => none
  | .bscale _ _ _ _ => none
  | .qnt _ _ _ _ => none
  | .dqnt _ _ _ _ => none
  | .pack _ _ _ _ => none
  | .unpack _ _ _ _ => none
  | .mov _ _ _ => none
  | .movi _ _ _ => none
  | .movx _ _ _ => none
  | .vgetx _ _ _ => none
  | .vsetx _ _ _ => none
  | .perm _ _ _ _ => none
  | .xperm _ _ _ _ => none
  | .bcast _ _ _ _ => none
  | .lshift _ _ _ _ => none
  | .redsum _ _ _ => none
  | .redmax _ _ _ => none
  | .scan _ _ _ => none
  | .vld _ _ _ _ _ => none
  | .vst _ _ _ _ _ => none
  | .vlds _ _ _ _ _ => none
  | .vsts _ _ _ _ _ => none
  | .vldx _ _ _ _ _ => none
  | .vstx _ _ _ _ _ => none
  | .vstm _ _ _ => none
  | .vtstw _ _ => none
  | .pset _ _ _ => none
  | .pand _ _ _ _ => none
  | .por _ _ _ _ => none
  | .pxor _ _ _ _ => none
  | .pnot _ _ _ => none
  | .pany _ _ _ => none
  | .pcnt _ _ _ => none
  | .vbr _ _ _ => none
  | .vjmp _ => none
  | .vyield => none
  | .vexit => none
  | .vwait _ _ => none
  | .vsetshImm _ => none
  | .vsetshX _ => none
  | .vnop => none
  | .vpfxr _ _ _ _ => none
  | .vpfxi _ => none
  | .mma _ _ _ _ => none
  | .mmabs _ _ _ _ => none
  | .azero _ => none
  | .aload _ _ => none
  | .astore _ _ _ => none
  | .awm _ _ => none
  | .await _ _ => none
  | .ascale _ _ => none
  | .acvt _ _ => none
  | .achk _ => none
  | .hset _ _ => none
  | .hver _ _ => none
  | .ctbl _ _ => none
  | .copy _ _ _ _ => none
  | .fill _ _ _ _ => none
  | .gather _ _ _ _ _ => none
  | .scatter _ _ _ _ _ => none
  | .mcast _ _ _ _ => none
  | .chsend _ _ _ => none
  | .xformConvert _ _ _ _ _ => none
  | .xformCompress _ _ _ _ => none
  | .xformExpand _ _ _ _ _ => none
  | .enc _ _ _ _ _ => none
  | .dec _ _ _ _ => none
  | .dcopy _ _ _ => none
  | .dfill _ _ _ => none
  | .dand _ _ _ _ => none
  | .dor _ _ _ _ => none
  | .dxor _ _ _ _ => none
  | .dnot _ _ _ => none
  | .dgsum _ _ _ _ _ => none
  | .sput sa slot n => some (encId 0x01 sa.toNat slot.toNat n.toNat)
  | .sget sa slot n => some (encId 0x02 sa.toNat slot.toNat n.toNat)
  | .sdrop slot => some (encId 0x03 0 slot.toNat 0)
  | .spref slot => some (encId 0x04 0 slot.toNat 0)
  | .sqry sa slot => some (encId 0x05 sa.toNat slot.toNat 0)
  | .cred _ _ _ _ => none
  | .cgath _ _ _ _ => none
  | .cbar _ => none
  | .checkedOpEffect _ _ => none
  | .loadDataReturn _ => none
  | .storePerformed _ => none
  | .stalledIssueResume _ => none
  | .semwaitRelease _ => none
  | .waitInterrupted _ => none
  | .ringWaitRelease _ => none
  | .bwaitRelease _ => none
  | .tlwaitRelease _ => none
  | .tendReport _ => none
  | .vwaitRelease _ _ _ => none
  | .fullWaitRelease _ => none
  | .syncBundleJoin _ _ => none
  | .vexitJoin _ _ => none
  | .starvationCountExpiry _ _ => none
  | .vccResume _ => none
  | .commandHeadCheck _ => none
  | .commandWaitsMet _ => none
  | .strandCreate _ => none
  | .chainedCommandStart _ => none
  | .commandComplete _ _ => none
  | .commandSignal _ _ => none
  | .mcastLanding _ _ _ => none
  | .matrixStepCheck _ _ => none
  | .pinWaitRelease _ => none
  | .pinTimeout _ => none
  | .cutComplete _ => none
  | .qctlDiscard _ _ => none
  | .strctlEndStrand _ => none
  | .strandDrainTimeout _ _ => none
  | .ringmasterRound _ _ => none
  | .taskRetire _ _ _ => none
  | .stashLookahead _ _ => none
  | .chsendWindowGrant _ _ => none
  | .channelLanding _ _ _ _ _ _ => none
  | .channelPublish _ _ _ _ _ => none
  | .channelAdvertisement _ _ _ => none
  | .carouselConsume _ _ _ => none
  | .carouselReduceArrival _ _ _ => none
  | .carouselGatherArrival _ _ _ => none
  | .loadLtt _ => none
  | .declareStage _ => none
  | .launch _ => none
  | .preempt _ => none
  | .preemptSaved _ => none
  | .resume _ => none
  | .kill _ => none
  | .curtainMessage _ _ _ _ _ _ => none
  | .curtainReport _ _ _ => none
  | .curtainRise _ _ => none
  | .curtainFall _ _ _ => none
  | .curtainTimeout _ => none
  | .lossMessage _ _ => none
  | .flitReceive _ _ => none
  | .linkDown _ _ _ => none
  | .remoteStoreAck _ => none
  | .hostMemAccess _ _ _ => none
  | .lrbaseWrite _ _ => none
  | .lrsizeWrite _ _ => none
  | .lrtailWrite _ _ => none
  | .lrstatWrite _ _ => none
  | .lrkillWrite _ _ => none
  | .lttcmdWrite _ _ => none
  | .lttcmdRemove _ _ => none
  | .lttcmdResume _ _ => none
  | .dbgctlHalt _ _ => none
  | .dbgctlResume _ _ => none
  | .evbaseWrite _ _ => none
  | .evsizeWrite _ _ => none
  | .evheadWrite _ _ => none
  | .registerWrite _ _ _ => none
  | .moduleReset _ => none
  | .wearSample _ => none
  | .wearFlashWrite => none
  | .clockChangeStart _ => none
  | .clockChangeComplete _ => none
  | .laneRepair _ _ => none
  | .laneRepairDone _ _ => none
  | .tnextAnswerArrival _ => none
  | .remoteResultReturn _ _ => none
  | .remoteAccessAtHome _ => none
  | .leaseExpiry _ => none
  | .dirtySectorWriteBack _ => none
  | .powerLoss => none

/-- The word of a carousel step (R59). -/
def encodeCrsl : Instr → Option Nat
  | .add _ _ _ => none
  | .sub _ _ _ => none
  | .mul _ _ _ => none
  | .mulh _ _ _ => none
  | .mulhn _ _ _ => none
  | .div _ _ _ => none
  | .divn _ _ _ => none
  | .rem _ _ _ => none
  | .remn _ _ _ => none
  | .and _ _ _ => none
  | .or _ _ _ => none
  | .xor _ _ _ => none
  | .shl _ _ _ => none
  | .shr _ _ _ => none
  | .sar _ _ _ => none
  | .min _ _ _ => none
  | .max _ _ _ => none
  | .minn _ _ _ => none
  | .maxn _ _ _ => none
  | .slt _ _ _ => none
  | .sltn _ _ _ => none
  | .clz _ _ => none
  | .popc _ _ => none
  | .sel _ _ _ _ => none
  | .addi _ _ _ => none
  | .andi _ _ _ => none
  | .ori _ _ _ => none
  | .xori _ _ _ => none
  | .shli _ _ _ => none
  | .shri _ _ _ => none
  | .sari _ _ _ => none
  | .slti _ _ _ => none
  | .movhi _ _ => none
  | .ldB _ _ _ => none
  | .ldH _ _ _ => none
  | .ldW _ _ _ => none
  | .ldD _ _ _ => none
  | .ldsB _ _ _ => none
  | .ldsH _ _ _ => none
  | .ldsW _ _ _ => none
  | .ldsD _ _ _ => none
  | .stB _ _ _ => none
  | .stH _ _ _ => none
  | .stW _ _ _ => none
  | .stD _ _ _ => none
  | .bEq _ _ _ => none
  | .bNe _ _ _ => none
  | .bLt _ _ _ => none
  | .bGe _ _ _ => none
  | .bLtn _ _ _ => none
  | .bGen _ _ _ => none
  | .j _ => none
  | .jal _ => none
  | .jr _ _ => none
  | .tstw _ _ _ => none
  | .semadd _ _ _ => none
  | .semaddc _ _ => none
  | .semcas _ _ _ => none
  | .semset _ _ => none
  | .semread _ _ => none
  | .semwait _ _ => none
  | .draw _ _ => none
  | .rclaim _ _ => none
  | .rfill _ _ => none
  | .rwaitf _ => none
  | .rwaite _ => none
  | .rtake _ _ => none
  | .rfree _ _ => none
  | .rstat _ _ => none
  | .join _ => none
  | .leave _ => none
  | .arrive _ _ => none
  | .bwait _ _ => none
  | .btest _ _ _ => none
  | .tlwait _ _ _ => none
  | .tlread _ _ _ => none
  | .xfenceO2E => none
  | .xfenceE2O => none
  | .cload _ _ _ => none
  | .cset _ _ _ => none
  | .cseti _ _ _ => none
  | .cpush _ _ => none
  | .cstat _ _ _ => none
  | .tnext _ => none
  | .tend => none
  | .tabort => none
  | .tquery _ _ => none
  | .nop => none
  | .halt => none
  | .trap _ => none
  | .eret => none
  | .sysr _ _ => none
  | .sysw _ _ => none
  | .probe _ => none
  | .clean _ _ => none
  | .inval _ _ => none
  | .ptest _ _ => none
  | .pfxC _ => none
  | .pfxI _ => none
  | .fadd _ _ _ _ => none
  | .fsub _ _ _ _ => none
  | .fmul _ _ _ _ => none
  | .fma _ _ _ _ => none
  | .fms _ _ _ _ => none
  | .fnma _ _ _ _ => none
  | .fmin _ _ _ _ => none
  | .fmax _ _ _ _ => none
  | .fabs _ _ _ => none
  | .fneg _ _ _ => none
  | .fcmpSet1 _ _ _ _ _ => none
  | .fcmpSet2 _ _ _ _ _ => none
  | .frcp _ _ _ => none
  | .frsq _ _ _ => none
  | .fsqrt _ _ _ => none
  | .fdiv _ _ _ _ => none
  | .fexp2 _ _ _ => none
  | .flog2 _ _ _ => none
  | .fclass _ _ _ => none
  | .iadd _ _ _ _ => none
  | .iadds _ _ _ _ => none
  | .isub _ _ _ _ => none
  | .imul _ _ _ _ => none
  | .imulh _ _ _ _ => none
  | .imad _ _ _ _ => none
  | .imin _ _ _ _ => none
  | .imax _ _ _ _ => none
  | .iabs _ _ _ => none
  | .iand _ _ _ _ => none
  | .ior _ _ _ _ => none
  | .ixor _ _ _ _ => none
  | .inot _ _ _ => none
  | .ishl _ _ _ _ => none
  | .ishr _ _ _ _ => none
  | .isar _ _ _ _ => none
  | .icmpSet1 _ _ _ _ _ => none
  | .icmpSet2 _ _ _ _ _ => none
  | .cvt _ _ _ _ => none
  | .cvtsr _ _ _ _ => none
  | .bamax _ _ _ => none
  | .bscale _ _ _ _ => none
  | .qnt _ _ _ _ => none
  | .dqnt _ _ _ _ => none
  | .pack _ _ _ _ => none
  | .unpack _ _ _ _ => none
  | .mov _ _ _ => none
  | .movi _ _ _ => none
  | .movx _ _ _ => none
  | .vgetx _ _ _ => none
  | .vsetx _ _ _ => none
  | .perm _ _ _ _ => none
  | .xperm _ _ _ _ => none
  | .bcast _ _ _ _ => none
  | .lshift _ _ _ _ => none
  | .redsum _ _ _ => none
  | .redmax _ _ _ => none
  | .scan _ _ _ => none
  | .vld _ _ _ _ _ => none
  | .vst _ _ _ _ _ => none
  | .vlds _ _ _ _ _ => none
  | .vsts _ _ _ _ _ => none
  | .vldx _ _ _ _ _ => none
  | .vstx _ _ _ _ _ => none
  | .vstm _ _ _ => none
  | .vtstw _ _ => none
  | .pset _ _ _ => none
  | .pand _ _ _ _ => none
  | .por _ _ _ _ => none
  | .pxor _ _ _ _ => none
  | .pnot _ _ _ => none
  | .pany _ _ _ => none
  | .pcnt _ _ _ => none
  | .vbr _ _ _ => none
  | .vjmp _ => none
  | .vyield => none
  | .vexit => none
  | .vwait _ _ => none
  | .vsetshImm _ => none
  | .vsetshX _ => none
  | .vnop => none
  | .vpfxr _ _ _ _ => none
  | .vpfxi _ => none
  | .mma _ _ _ _ => none
  | .mmabs _ _ _ _ => none
  | .azero _ => none
  | .aload _ _ => none
  | .astore _ _ _ => none
  | .awm _ _ => none
  | .await _ _ => none
  | .ascale _ _ => none
  | .acvt _ _ => none
  | .achk _ => none
  | .hset _ _ => none
  | .hver _ _ => none
  | .ctbl _ _ => none
  | .copy _ _ _ _ => none
  | .fill _ _ _ _ => none
  | .gather _ _ _ _ _ => none
  | .scatter _ _ _ _ _ => none
  | .mcast _ _ _ _ => none
  | .chsend _ _ _ => none
  | .xformConvert _ _ _ _ _ => none
  | .xformCompress _ _ _ _ => none
  | .xformExpand _ _ _ _ _ => none
  | .enc _ _ _ _ _ => none
  | .dec _ _ _ _ => none
  | .dcopy _ _ _ => none
  | .dfill _ _ _ => none
  | .dand _ _ _ _ => none
  | .dor _ _ _ _ => none
  | .dxor _ _ _ _ => none
  | .dnot _ _ _ => none
  | .dgsum _ _ _ _ _ => none
  | .sput _ _ _ => none
  | .sget _ _ _ => none
  | .sdrop _ => none
  | .spref _ => none
  | .sqry _ _ => none
  | .cred sa chunk fmt bucket => some (encCrsl 0x01 sa.toNat chunk.toNat fmt.toNat bucket.toNat)
  | .cgath sa chunk fmt bucket => some (encCrsl 0x02 sa.toNat chunk.toNat fmt.toNat bucket.toNat)
  | .cbar bucket => some (encCrsl 0x03 0 0 0 bucket.toNat)
  | .checkedOpEffect _ _ => none
  | .loadDataReturn _ => none
  | .storePerformed _ => none
  | .stalledIssueResume _ => none
  | .semwaitRelease _ => none
  | .waitInterrupted _ => none
  | .ringWaitRelease _ => none
  | .bwaitRelease _ => none
  | .tlwaitRelease _ => none
  | .tendReport _ => none
  | .vwaitRelease _ _ _ => none
  | .fullWaitRelease _ => none
  | .syncBundleJoin _ _ => none
  | .vexitJoin _ _ => none
  | .starvationCountExpiry _ _ => none
  | .vccResume _ => none
  | .commandHeadCheck _ => none
  | .commandWaitsMet _ => none
  | .strandCreate _ => none
  | .chainedCommandStart _ => none
  | .commandComplete _ _ => none
  | .commandSignal _ _ => none
  | .mcastLanding _ _ _ => none
  | .matrixStepCheck _ _ => none
  | .pinWaitRelease _ => none
  | .pinTimeout _ => none
  | .cutComplete _ => none
  | .qctlDiscard _ _ => none
  | .strctlEndStrand _ => none
  | .strandDrainTimeout _ _ => none
  | .ringmasterRound _ _ => none
  | .taskRetire _ _ _ => none
  | .stashLookahead _ _ => none
  | .chsendWindowGrant _ _ => none
  | .channelLanding _ _ _ _ _ _ => none
  | .channelPublish _ _ _ _ _ => none
  | .channelAdvertisement _ _ _ => none
  | .carouselConsume _ _ _ => none
  | .carouselReduceArrival _ _ _ => none
  | .carouselGatherArrival _ _ _ => none
  | .loadLtt _ => none
  | .declareStage _ => none
  | .launch _ => none
  | .preempt _ => none
  | .preemptSaved _ => none
  | .resume _ => none
  | .kill _ => none
  | .curtainMessage _ _ _ _ _ _ => none
  | .curtainReport _ _ _ => none
  | .curtainRise _ _ => none
  | .curtainFall _ _ _ => none
  | .curtainTimeout _ => none
  | .lossMessage _ _ => none
  | .flitReceive _ _ => none
  | .linkDown _ _ _ => none
  | .remoteStoreAck _ => none
  | .hostMemAccess _ _ _ => none
  | .lrbaseWrite _ _ => none
  | .lrsizeWrite _ _ => none
  | .lrtailWrite _ _ => none
  | .lrstatWrite _ _ => none
  | .lrkillWrite _ _ => none
  | .lttcmdWrite _ _ => none
  | .lttcmdRemove _ _ => none
  | .lttcmdResume _ _ => none
  | .dbgctlHalt _ _ => none
  | .dbgctlResume _ _ => none
  | .evbaseWrite _ _ => none
  | .evsizeWrite _ _ => none
  | .evheadWrite _ _ => none
  | .registerWrite _ _ _ => none
  | .moduleReset _ => none
  | .wearSample _ => none
  | .wearFlashWrite => none
  | .clockChangeStart _ => none
  | .clockChangeComplete _ => none
  | .laneRepair _ _ => none
  | .laneRepairDone _ _ => none
  | .tnextAnswerArrival _ => none
  | .remoteResultReturn _ _ => none
  | .remoteAccessAtHome _ => none
  | .leaseExpiry _ => none
  | .dirtySectorWriteBack _ => none
  | .powerLoss => none

/-- The words of a vector instruction, S = 0: the prefixes it needs and the word itself (R49-R55). -/
def encodeVec : Instr → Option (Option HighFields × Option (BitVec 24) × Nat)
  | .add _ _ _ => none
  | .sub _ _ _ => none
  | .mul _ _ _ => none
  | .mulh _ _ _ => none
  | .mulhn _ _ _ => none
  | .div _ _ _ => none
  | .divn _ _ _ => none
  | .rem _ _ _ => none
  | .remn _ _ _ => none
  | .and _ _ _ => none
  | .or _ _ _ => none
  | .xor _ _ _ => none
  | .shl _ _ _ => none
  | .shr _ _ _ => none
  | .sar _ _ _ => none
  | .min _ _ _ => none
  | .max _ _ _ => none
  | .minn _ _ _ => none
  | .maxn _ _ _ => none
  | .slt _ _ _ => none
  | .sltn _ _ _ => none
  | .clz _ _ => none
  | .popc _ _ => none
  | .sel _ _ _ _ => none
  | .addi _ _ _ => none
  | .andi _ _ _ => none
  | .ori _ _ _ => none
  | .xori _ _ _ => none
  | .shli _ _ _ => none
  | .shri _ _ _ => none
  | .sari _ _ _ => none
  | .slti _ _ _ => none
  | .movhi _ _ => none
  | .ldB _ _ _ => none
  | .ldH _ _ _ => none
  | .ldW _ _ _ => none
  | .ldD _ _ _ => none
  | .ldsB _ _ _ => none
  | .ldsH _ _ _ => none
  | .ldsW _ _ _ => none
  | .ldsD _ _ _ => none
  | .stB _ _ _ => none
  | .stH _ _ _ => none
  | .stW _ _ _ => none
  | .stD _ _ _ => none
  | .bEq _ _ _ => none
  | .bNe _ _ _ => none
  | .bLt _ _ _ => none
  | .bGe _ _ _ => none
  | .bLtn _ _ _ => none
  | .bGen _ _ _ => none
  | .j _ => none
  | .jal _ => none
  | .jr _ _ => none
  | .tstw _ _ _ => none
  | .semadd _ _ _ => none
  | .semaddc _ _ => none
  | .semcas _ _ _ => none
  | .semset _ _ => none
  | .semread _ _ => none
  | .semwait _ _ => none
  | .draw _ _ => none
  | .rclaim _ _ => none
  | .rfill _ _ => none
  | .rwaitf _ => none
  | .rwaite _ => none
  | .rtake _ _ => none
  | .rfree _ _ => none
  | .rstat _ _ => none
  | .join _ => none
  | .leave _ => none
  | .arrive _ _ => none
  | .bwait _ _ => none
  | .btest _ _ _ => none
  | .tlwait _ _ _ => none
  | .tlread _ _ _ => none
  | .xfenceO2E => none
  | .xfenceE2O => none
  | .cload _ _ _ => none
  | .cset _ _ _ => none
  | .cseti _ _ _ => none
  | .cpush _ _ => none
  | .cstat _ _ _ => none
  | .tnext _ => none
  | .tend => none
  | .tabort => none
  | .tquery _ _ => none
  | .nop => none
  | .halt => none
  | .trap _ => none
  | .eret => none
  | .sysr _ _ => none
  | .sysw _ _ => none
  | .probe _ => none
  | .clean _ _ => none
  | .inval _ _ => none
  | .ptest _ _ => none
  | .pfxC _ => none
  | .pfxI _ => none
  | .fadd p d a b => some (vregPfx d a b, none, encV 0x00 d.field a.field b.field 0 p.toNat)
  | .fsub p d a b => some (vregPfx d a b, none, encV 0x01 d.field a.field b.field 0 p.toNat)
  | .fmul p d a b => some (vregPfx d a b, none, encV 0x02 d.field a.field b.field 0 p.toNat)
  | .fma p d a b => some (vregPfx d a b, none, encV 0x03 d.field a.field b.field 0 p.toNat)
  | .fms p d a b => some (vregPfx d a b, none, encV 0x04 d.field a.field b.field 0 p.toNat)
  | .fnma p d a b => some (vregPfx d a b, none, encV 0x05 d.field a.field b.field 0 p.toNat)
  | .fmin p d a b => some (vregPfx d a b, none, encV 0x06 d.field a.field b.field 0 p.toNat)
  | .fmax p d a b => some (vregPfx d a b, none, encV 0x07 d.field a.field b.field 0 p.toNat)
  | .fabs p d a => some (vregPfx d a .zero, none, encV 0x08 d.field a.field 0 0 p.toNat)
  | .fneg p d a => some (vregPfx d a .zero, none, encV 0x09 d.field a.field 0 0 p.toNat)
  | .fcmpSet1 p cc pd a b => some (vregPfx .zero a b, none, encV 0x0A pd.toNat a.field b.field cc.toNat p.toNat)
  | .fcmpSet2 p cc pd a b => some (vregPfx .zero a b, none, encV 0x0B pd.toNat a.field b.field cc.toNat p.toNat)
  | .frcp p d a => some (vregPfx d a .zero, none, encV 0x0C d.field a.field 0 0 p.toNat)
  | .frsq p d a => some (vregPfx d a .zero, none, encV 0x0D d.field a.field 0 0 p.toNat)
  | .fsqrt p d a => some (vregPfx d a .zero, none, encV 0x0E d.field a.field 0 0 p.toNat)
  | .fdiv p d a b => some (vregPfx d a b, none, encV 0x0F d.field a.field b.field 0 p.toNat)
  | .fexp2 p d a => some (vregPfx d a .zero, none, encV 0x10 d.field a.field 0 0 p.toNat)
  | .flog2 p d a => some (vregPfx d a .zero, none, encV 0x11 d.field a.field 0 0 p.toNat)
  | .fclass p d a => some (vregPfx d a .zero, none, encV 0x12 d.field a.field 0 0 p.toNat)
  | .iadd p d a b => some (vregPfx d a b, none, encV 0x20 d.field a.field b.field 0 p.toNat)
  | .iadds p d a b => some (vregPfx d a b, none, encV 0x21 d.field a.field b.field 0 p.toNat)
  | .isub p d a b => some (vregPfx d a b, none, encV 0x22 d.field a.field b.field 0 p.toNat)
  | .imul p d a b => some (vregPfx d a b, none, encV 0x23 d.field a.field b.field 0 p.toNat)
  | .imulh p d a b => some (vregPfx d a b, none, encV 0x24 d.field a.field b.field 0 p.toNat)
  | .imad p d a b => some (vregPfx d a b, none, encV 0x25 d.field a.field b.field 0 p.toNat)
  | .imin p d a b => some (vregPfx d a b, none, encV 0x26 d.field a.field b.field 0 p.toNat)
  | .imax p d a b => some (vregPfx d a b, none, encV 0x27 d.field a.field b.field 0 p.toNat)
  | .iabs p d a => some (vregPfx d a .zero, none, encV 0x28 d.field a.field 0 0 p.toNat)
  | .iand p d a b => some (vregPfx d a b, none, encV 0x29 d.field a.field b.field 0 p.toNat)
  | .ior p d a b => some (vregPfx d a b, none, encV 0x2A d.field a.field b.field 0 p.toNat)
  | .ixor p d a b => some (vregPfx d a b, none, encV 0x2B d.field a.field b.field 0 p.toNat)
  | .inot p d a => some (vregPfx d a .zero, none, encV 0x2C d.field a.field 0 0 p.toNat)
  | .ishl p d a b => some (vregPfx d a b, none, encV 0x2D d.field a.field b.field 0 p.toNat)
  | .ishr p d a b => some (vregPfx d a b, none, encV 0x2E d.field a.field b.field 0 p.toNat)
  | .isar p d a b => some (vregPfx d a b, none, encV 0x2F d.field a.field b.field 0 p.toNat)
  | .icmpSet1 p cc pd a b => some (vregPfx .zero a b, none, encV 0x30 pd.toNat a.field b.field cc.toNat p.toNat)
  | .icmpSet2 p cc pd a b => some (vregPfx .zero a b, none, encV 0x31 pd.toNat a.field b.field cc.toNat p.toNat)
  | .cvt p d a fmt => some (vregPfx d a .zero, none, encV 0x40 d.field a.field fmt.toNat 0 p.toNat)
  | .cvtsr p d a fmt => some (vregPfx d a .zero, none, encV 0x41 d.field a.field fmt.toNat 0 p.toNat)
  | .bamax p d a => some (vregPfx d a .zero, none, encV 0x42 d.field a.field 0 0 p.toNat)
  | .bscale p d a b => some (vregPfx d a b, none, encV 0x43 d.field a.field b.field 0 p.toNat)
  | .qnt p d a fmt => some (vregPfx d a .zero, none, encV 0x44 d.field a.field fmt.toNat 0 p.toNat)
  | .dqnt p d a fmt => some (vregPfx d a .zero, none, encV 0x45 d.field a.field fmt.toNat 0 p.toNat)
  | .pack p d a fmt => some (vregPfx d a .zero, none, encV 0x46 d.field a.field fmt.toNat 0 p.toNat)
  | .unpack p d a fmt => some (vregPfx d a .zero, none, encV 0x47 d.field a.field fmt.toNat 0 p.toNat)
  | .mov p d a => some (vregPfx d a .zero, none, encV 0x50 d.field a.field 0 0 p.toNat)
  | .movi p d imm => some (vregPfx d .zero .zero, immPfx (moviShort imm) (imm.toNat / 2 ^ 12), encV 0x51 d.field (imm.toNat / 2 ^ 6 % 64) (imm.toNat % 64) 0 p.toNat)
  | .movx p d a => some (vregPfx d a .zero, none, encV 0x52 d.field a.field 0 0 p.toNat)
  | .vgetx p d xa => some (vregPfx d .zero .zero, none, encV 0x68 d.field xa.toNat 0 0 p.toNat)
  | .vsetx p xd a => some (vregPfx .zero a .zero, none, encV 0x69 xd.toNat a.field 0 0 p.toNat)
  | .perm p d a b => some (vregPfx d a b, none, encV 0x53 d.field a.field b.field 0 p.toNat)
  | .xperm p d a b => some (vregPfx d a b, none, encV 0x54 d.field a.field b.field 0 p.toNat)
  | .bcast p d a lane => some (vregPfx d a .zero, none, encV 0x55 d.field a.field lane.toNat 0 p.toNat)
  | .lshift p d a b => some (vregPfx d a b, none, encV 0x56 d.field a.field b.field 0 p.toNat)
  | .redsum p d a => some (vregPfx d a .zero, none, encV 0x57 d.field a.field 0 0 p.toNat)
  | .redmax p d a => some (vregPfx d a .zero, none, encV 0x58 d.field a.field 0 0 p.toNat)
  | .scan p d a => some (vregPfx d a .zero, none, encV 0x59 d.field a.field 0 0 p.toNat)
  | .vld p mode d xa disp => some (vregPfx d .zero .zero, immPfx (dispShort disp) (disp.toNat / 2 ^ 6), encV 0x60 d.field xa.toNat (disp.toNat % 64) mode.q p.toNat)
  | .vst p mode d xa disp => some (vregPfx d .zero .zero, immPfx (dispShort disp) (disp.toNat / 2 ^ 6), encV 0x61 d.field xa.toNat (disp.toNat % 64) mode.q p.toNat)
  | .vlds p mode d xa xb => some (vregPfx d .zero .zero, none, encV 0x62 d.field xa.toNat xb.toNat mode.q p.toNat)
  | .vsts p mode d xa xb => some (vregPfx d .zero .zero, none, encV 0x63 d.field xa.toNat xb.toNat mode.q p.toNat)
  | .vldx p mode d xa b => some (vregPfx d .zero b, none, encV 0x64 d.field xa.toNat b.field mode.q p.toNat)
  | .vstx p mode d xa b => some (vregPfx d .zero b, none, encV 0x65 d.field xa.toNat b.field mode.q p.toNat)
  | .vstm p xa disp => some (none, none, encV 0x66 0 xa.toNat disp.toNat 0 p.toNat)
  | .vtstw bit off => some (none, none, encV 0x6A bit.toNat (off.toNat / 64) (off.toNat % 64) 0 0)
  | .pset p pd imm => some (none, none, encV 0x70 pd.toNat (imm.toNat / 16) (imm.toNat % 16) 0 p.toNat)
  | .pand p pd pa pb => some (none, none, encV 0x71 pd.toNat pa.toNat pb.toNat 0 p.toNat)
  | .por p pd pa pb => some (none, none, encV 0x72 pd.toNat pa.toNat pb.toNat 0 p.toNat)
  | .pxor p pd pa pb => some (none, none, encV 0x73 pd.toNat pa.toNat pb.toNat 0 p.toNat)
  | .pnot p pd pa => some (none, none, encV 0x74 pd.toNat pa.toNat 0 0 p.toNat)
  | .pany p d pa => some (vregPfx d .zero .zero, none, encV 0x75 d.field pa.toNat 0 0 p.toNat)
  | .pcnt p d pa => some (vregPfx d .zero .zero, none, encV 0x76 d.field pa.toNat 0 0 p.toNat)
  | .vbr p cond off => some (none, none, encV 0x77 (off.toNat / 2 ^ 12) (off.toNat / 64 % 64) (off.toNat % 64) cond.toNat p.toNat)
  | .vjmp off => some (none, none, encV 0x78 (off.toNat / 2 ^ 12) (off.toNat / 64 % 64) (off.toNat % 64) 0 0)
  | .vyield => some (none, none, encV 0x79 0 0 0 0 0)
  | .vexit => some (none, none, encV 0x7A 0 0 0 0 0)
  | .vwait m xb => some (none, none, encV 0x7B (m.toNat / 64) (m.toNat % 64) xb.toNat 0 0)
  | .vsetshImm imm => some (none, immPfx (decide (imm.toNat < 2 ^ 18)) (imm.toNat / 2 ^ 18), encV 0x7C (imm.toNat / 2 ^ 12 % 64) (imm.toNat / 64 % 64) (imm.toNat % 64) 0 0)
  | .vsetshX xa => some (none, none, encV 0x7C 0 xa.toNat 0 1 0)
  | .vnop => some (none, none, encV 0x7D 0 0 0 0 0)
  | .vpfxr e dh ah bh => some (none, none, 2 ^ 31 + 0x7F * 2 ^ 24 + e.toNat * 2 ^ 23 + dh.toNat * 2 ^ 8 + ah.toNat * 2 ^ 4 + bh.toNat)
  | .vpfxi imm => some (none, none, 0x7F * 2 ^ 24 + imm.toNat)
  | .mma _ _ _ _ => none
  | .mmabs _ _ _ _ => none
  | .azero _ => none
  | .aload _ _ => none
  | .astore _ _ _ => none
  | .awm _ _ => none
  | .await _ _ => none
  | .ascale _ _ => none
  | .acvt _ _ => none
  | .achk _ => none
  | .hset _ _ => none
  | .hver _ _ => none
  | .ctbl _ _ => none
  | .copy _ _ _ _ => none
  | .fill _ _ _ _ => none
  | .gather _ _ _ _ _ => none
  | .scatter _ _ _ _ _ => none
  | .mcast _ _ _ _ => none
  | .chsend _ _ _ => none
  | .xformConvert _ _ _ _ _ => none
  | .xformCompress _ _ _ _ => none
  | .xformExpand _ _ _ _ _ => none
  | .enc _ _ _ _ _ => none
  | .dec _ _ _ _ => none
  | .dcopy _ _ _ => none
  | .dfill _ _ _ => none
  | .dand _ _ _ _ => none
  | .dor _ _ _ _ => none
  | .dxor _ _ _ _ => none
  | .dnot _ _ _ => none
  | .dgsum _ _ _ _ _ => none
  | .sput _ _ _ => none
  | .sget _ _ _ => none
  | .sdrop _ => none
  | .spref _ => none
  | .sqry _ _ => none
  | .cred _ _ _ _ => none
  | .cgath _ _ _ _ => none
  | .cbar _ => none
  | .checkedOpEffect _ _ => none
  | .loadDataReturn _ => none
  | .storePerformed _ => none
  | .stalledIssueResume _ => none
  | .semwaitRelease _ => none
  | .waitInterrupted _ => none
  | .ringWaitRelease _ => none
  | .bwaitRelease _ => none
  | .tlwaitRelease _ => none
  | .tendReport _ => none
  | .vwaitRelease _ _ _ => none
  | .fullWaitRelease _ => none
  | .syncBundleJoin _ _ => none
  | .vexitJoin _ _ => none
  | .starvationCountExpiry _ _ => none
  | .vccResume _ => none
  | .commandHeadCheck _ => none
  | .commandWaitsMet _ => none
  | .strandCreate _ => none
  | .chainedCommandStart _ => none
  | .commandComplete _ _ => none
  | .commandSignal _ _ => none
  | .mcastLanding _ _ _ => none
  | .matrixStepCheck _ _ => none
  | .pinWaitRelease _ => none
  | .pinTimeout _ => none
  | .cutComplete _ => none
  | .qctlDiscard _ _ => none
  | .strctlEndStrand _ => none
  | .strandDrainTimeout _ _ => none
  | .ringmasterRound _ _ => none
  | .taskRetire _ _ _ => none
  | .stashLookahead _ _ => none
  | .chsendWindowGrant _ _ => none
  | .channelLanding _ _ _ _ _ _ => none
  | .channelPublish _ _ _ _ _ => none
  | .channelAdvertisement _ _ _ => none
  | .carouselConsume _ _ _ => none
  | .carouselReduceArrival _ _ _ => none
  | .carouselGatherArrival _ _ _ => none
  | .loadLtt _ => none
  | .declareStage _ => none
  | .launch _ => none
  | .preempt _ => none
  | .preemptSaved _ => none
  | .resume _ => none
  | .kill _ => none
  | .curtainMessage _ _ _ _ _ _ => none
  | .curtainReport _ _ _ => none
  | .curtainRise _ _ => none
  | .curtainFall _ _ _ => none
  | .curtainTimeout _ => none
  | .lossMessage _ _ => none
  | .flitReceive _ _ => none
  | .linkDown _ _ _ => none
  | .remoteStoreAck _ => none
  | .hostMemAccess _ _ _ => none
  | .lrbaseWrite _ _ => none
  | .lrsizeWrite _ _ => none
  | .lrtailWrite _ _ => none
  | .lrstatWrite _ _ => none
  | .lrkillWrite _ _ => none
  | .lttcmdWrite _ _ => none
  | .lttcmdRemove _ _ => none
  | .lttcmdResume _ _ => none
  | .dbgctlHalt _ _ => none
  | .dbgctlResume _ _ => none
  | .evbaseWrite _ _ => none
  | .evsizeWrite _ _ => none
  | .evheadWrite _ _ => none
  | .registerWrite _ _ _ => none
  | .moduleReset _ => none
  | .wearSample _ => none
  | .wearFlashWrite => none
  | .clockChangeStart _ => none
  | .clockChangeComplete _ => none
  | .laneRepair _ _ => none
  | .laneRepairDone _ _ => none
  | .tnextAnswerArrival _ => none
  | .remoteResultReturn _ _ => none
  | .remoteAccessAtHome _ => none
  | .leaseExpiry _ => none
  | .dirtySectorWriteBack _ => none
  | .powerLoss => none

/-- The prefix words that stand for these prefixes (R52, R53). -/
def pfxWords (pr : Option HighFields) (pi : Option (BitVec 24)) : List Nat :=
  (match pr with
    | some h => [2 ^ 31 + 0x7F * 2 ^ 24 + 2 ^ 23 + h.dh.toNat * 2 ^ 8 + h.ah.toNat * 2 ^ 4 + h.bh.toNat]
    | none => []) ++
  (match pi with
    | some h => [0x7F * 2 ^ 24 + h.toNat]
    | none => [])

/-- The words of a well-formed instruction in its own opcode space, prefixes first; none for an event, which has no encoding. -/
def encode (i : Instr) : List Nat :=
  match encodeSeq i with
  | some w => [w]
  | none =>
    match encodeVec i with
    | some (pr, pi, w) => pfxWords pr pi ++ [w]
    | none =>
      (encodeMtx i).toList ++ (encodeMvCopy i).toList ++ (encodeMvXform i).toList ++ (encodeDou i).toList ++
        (encodeStash i).toList ++ (encodeCrsl i).toList

end Sys2Proof
end

