-- ==== Sys2Proof/Config.lean ====
section
/-!
DEFINITION. Sys2Proof/Config.lean: what an implementation fixes, and the free values: constants with no body, so that nothing
can be proved about a value the spec leaves open. Each free value is applied to a counter of State (`fresh`).
-/
namespace Sys2Proof.Config

/-- Core sites of a W4, enabled and spare (01 R13, R14). -/
def cores : Nat := 136
/-- Contexts of a W4 (01 R23). -/
def contexts : Nat := 16
/-- Depth of the check queue (04 R77). -/
def checkDepth : Nat := 8
/-- Stores a sequencer or a cluster may have pending (04 R82, 06 R139). -/
def storeDepth : Nat := 8
/-- Depth of a per-core queue and of a shared queue (08 R187). -/
def coreQueueDepth : Nat := 16
def sharedQueueDepth : Nat := 32

/-- What an address of memory that nothing has written reads as: log entry 1 (DESIGN CHOICE, unsafe). -/
def memDefault : Byte := 0

/-- Free choice: does an ordinary read see an engine write that nothing has acquired? (13 R257; log entry 5) -/
opaque seesUnacquired : Nat → Bool
/-- Free choice: which of the values an 8-byte unit has had does an engine read return? (13 R259; log entry 5) -/
opaque engineSees : Nat → Nat
/-- What a line homed on another W4 holds when it is fetched, where another agent has written it (13 R253; log entry 13). -/
opaque remoteUnit : Nat → Option (BitVec 64)
/-- Cycles that pass between two reads of CYCLE (04 R104; log entry 8). -/
opaque cyclesPassed : Nat → Nat
/-- Symbols of a poisoned coded tile that does not decode (07 R161; log entry 14). -/
opaque lostSymbol : Nat → Nat
/-- Which of two values a byte that one command writes twice holds (08 R194). -/
opaque writtenTwice : Nat → Bool
/-- Is a store that is pending when its context ends performed? (24 R389; log entry 17) -/
opaque landsAtLoss : Nat → Bool
/-- Bytes of CXL memory that the expanders report (20 R328; log entry 16). -/
opaque cxlBytes : Nat
/-- Most bytes of CXL memory that a W4 has: 8 TiB of second tier in all, of which 2 TiB are LPDDR-6 (01 R20). -/
def cxlMax : Nat := 6 * 2 ^ 40
/-- How far a load extends the lease of a line, in logical time (13 R252: `lease`; log entry 74). -/
opaque lease : Nat
/-- How far the stamps of a line homed on another W4 have moved on when it is fetched or stored to (13 R252, R253; log entry 74). -/
opaque remoteStamp : Nat → Nat
/-- The channel of its stack that a line of HBM lies in: the W4's own choice (20 R329; log entry 9). -/
opaque channelOf : Nat → Nat
/-- W4s in each dimension of the torus (22 R362; log entry 92). -/
opaque torusSize : Nat → Nat
/-- What a flit's header of 8 bytes holds (22 R360; log entry 92). -/
opaque flitHeader : Nat → Nat
/-- … how many of the flits sent back the sender of a header acknowledges, whether it has rejected one, whether its flit is the replay of the one
rejected here, the W4 that the flit is for. -/
opaque flitAcks : Nat → Nat
opaque flitRejects : Nat → Bool
opaque flitReplayed : Nat → Bool
opaque flitFor : Nat → Nat
/-- The bytes of a message between W4s whose layout the spec does not give (log entry 92). -/
opaque messageBytes : Nat → List Byte
/-- The order of the records of the capability list in its chain (0) and in memory (1), and of each its length in doublewords, the doublewords
before the next one, and its version (22 R366; log entry 16). -/
opaque capOrder : Nat → Nat → Nat
opaque capLength : Nat → Nat
opaque capGap : Nat → Nat
opaque capVersion : Nat → Nat
/-- The doublewords of the list that the spec does not give: by offset, the ports left down, the identity's public key, the image's version and
digest (22 R366; log entry 16). -/
opaque capWord : Nat → List Nat → List Byte → List Byte → BitVec 64
/-- What the window of the capability list reads as before the list is published (22 R369; log entry 16). -/
opaque capUnpublished : Nat → BitVec 64
/-- Which of the unpinned lines of a full L2 set makes room for another (12 R247; log entry 12). -/
opaque victim : List Nat → Nat

end Sys2Proof.Config
end

