-- ==== Sys2Proof/Machine/Codec.lean ====
section
/-!
DEFINITION. Sys2Proof/Machine/Codec.lean: the block compression of the memory controller (18 R318-R322) and CRC-64 (R314), on lists
of bytes. XFORM compress and expand and the stash engine use the same functions.
-/
namespace Sys2Proof.Machine

/-- One byte into the CRC register (R314). -/
def crcByte (r b : Nat) : Nat :=
  (List.range 8).foldl
    (fun r _ => if r / 2 ^ 63 % 2 = 1 then (r * 2 % 2 ^ 64) ^^^ 0x42F0E1EBA9EA3693 else r * 2 % 2 ^ 64) (r ^^^ (b * 2 ^ 56))

/-- CRC-64 (R314). -/
def crc64 (bs : List Byte) : Nat := bs.foldl (fun r b => crcByte r b.toNat) 0

/-- Insert into a rising list without repeats. -/
def insertNat (x : Nat) : List Nat → List Nat
  | [] => [x]
  | y :: ys => if x < y then x :: y :: ys else if x = y then y :: ys else y :: insertNat x ys

/-- The distinct values in rising order, or none once there are more than the limit. -/
def distinct (limit : Nat) (xs : List Nat) : Option (List Nat) :=
  xs.foldl (fun acc x => acc.bind (fun l => let l' := insertNat x l; if l'.length > limit then none else some l')) (some [])

/-- Every n-th byte of each group, the byte at position p of a group of g. -/
def plane (g p : Nat) (bs : List Byte) : List Nat :=
  ((chunks g (bs.length / g) bs).filterMap (fun x => x[p]?)).map BitVec.toNat

/-- The bytes of each group of g without the last one. -/
def lowPlane (g : Nat) (bs : List Byte) : List Byte :=
  ((chunks g (bs.length / g) bs).map (fun c => c.take (g - 1))).flatten

/-- Position of x in a list. -/
def indexIn (x : Nat) : List Nat → Nat
  | [] => 0
  | y :: ys => if x = y then 0 else 1 + indexIn x ys

/-- Pack 4-bit indices, element 2j in bits 3:0 (R320). -/
def packNibbles : List Nat → List Byte
  | a :: b :: rest => BitVec.ofNat 8 (a + 16 * b) :: packNibbles rest
  | [a] => [BitVec.ofNat 8 a]
  | [] => []

/-- Pad with zeros to n bytes. -/
def padTo (n : Nat) (bs : List Byte) : List Byte := bs ++ List.replicate (n - bs.length) 0

/-- The bytes per element of the exponent-plane methods. -/
def methGroup (m : Nat) : Nat := if m = 2 then 2 else 4

/-- The form of a 4 KiB block under method m (R320): its bytes without the pad, or none when m cannot hold it. Sixteen values take
bytes 1 to 16, and the index plane then follows them from byte 17 (DESIGN CHOICE, unsafe; log entry 73). -/
def compressForm (m : Nat) (bs : List Byte) : Option (List Byte) :=
  if m = 1 then
    let p := bs.take 8
    if (chunks 8 512 bs).all (· == p) then some p else none
  else
    let g := methGroup m
    let h := plane g (g - 1) bs
    match distinct 16 h with
    | none => none
    | some vs =>
      let head := padTo 16 (BitVec.ofNat 8 (vs.length - 1) :: vs.map (BitVec.ofNat 8))
      let idx := if vs.length ≥ 2 then packNibbles (h.map (fun x => indexIn x vs)) else []
      some (head ++ idx ++ lowPlane g bs)

/-- Sectors of 256 bytes that a form takes. -/
def sectors (n : Nat) : Nat := ceilDiv n 256

/-- A block written by method m (0: by none): its stored bytes, padded to whole sectors, and its metadata word (R319, R320). -/
def compressBlock (m : Nat) (bs : List Byte) : List Byte × Nat :=
  let crc := crc64 bs / 64 * 64
  match (if m = 0 then none else compressForm m bs) with
  | some form => (padTo (256 * sectors form.length) form, crc + (16 - sectors form.length) * 4 + m)
  | none => (bs, crc + m)

/-- Unpack 4-bit indices. -/
def unpackNibbles : List Byte → List Nat
  | [] => []
  | b :: bs => b.toNat % 16 :: b.toNat / 16 :: unpackNibbles bs

/-- Put a high byte behind each group of low bytes. -/
def joinPlanes (g : Nat) : List Nat → List Byte → List Byte
  | [], _ => []
  | h :: hs, low => low.take (g - 1) ++ [BitVec.ofNat 8 h] ++ joinPlanes g hs (low.drop (g - 1))

/-- A list rises strictly. -/
def rising : List Nat → Bool
  | a :: b :: rest => decide (a < b) && rising (b :: rest)
  | _ => true

/-- Expand a block from its 4 KiB of space and its metadata word: the bytes, or none where its form breaks R319 or R320: so does a byte 0 that
does not count the values that the indices use (log entry 73). -/
def expandForm (space : List Byte) (md : Nat) : Option (List Byte) :=
  let meth := md % 4
  let free := md / 4 % 16
  if free = 0 then some (space.take 4096)
  else if meth = 1 ∧ free = 15 then
    let s := space.take 256
    if (s.drop 8).all (· == 0) then some ((List.replicate 512 (s.take 8)).flatten) else none
  else if (meth = 2 ∧ (free = 7 ∨ free = 3)) ∨ (meth = 3 ∧ (free = 3 ∨ free = 1)) then
    let g := methGroup meth
    let cnt := 4096 / g
    let s := space.take (256 * (16 - free))
    let k := (s.headD 0).toNat + 1
    let vs := ((s.drop 1).take k).map BitVec.toNat
    let multi := if meth = 2 then free = 3 else free = 1
    let idxBytes := if multi then cnt / 2 else 0
    let head := max 16 (1 + k)
    let idx := if multi then unpackNibbles ((s.drop head).take idxBytes) else List.replicate cnt 0
    let low := (s.drop (head + idxBytes)).take (cnt * (g - 1))
    let pad := s.drop (head + idxBytes + cnt * (g - 1))
    if k ≤ 16 ∧ (multi ↔ k ≥ 2) ∧ rising vs ∧ ((s.drop (1 + k)).take (15 - k)).all (· == 0) ∧ idx.all (· < k) ∧
        (List.range k).all (fun i => idx.contains i) ∧ pad.all (· == 0) then
      some (joinPlanes g (idx.map (fun i => vs.getD i 0)) low)
    else none
  else none

/-- Expand a block and check it: none where R322 finds a failure, in its form or its CRC. -/
def expandBlock (space : List Byte) (md : Nat) : Option (List Byte) :=
  match expandForm space md with
  | none => none
  | some bs => if crc64 bs / 64 = md / 64 then some bs else none

end Sys2Proof.Machine
end

