-- ==== Sys2Proof/Machine/State.lean ====
section
/-!
DEFINITION. Sys2Proof/Machine/State.lean: everything the spec gives the machine, as plain data: one PHK-W4-A512 module with its
136 core sites, 16 contexts, memories and shared engines. INVENTORY.md, '## State', lists every field with its rule.
-/
namespace Sys2Proof.Machine

/-- Who executes a step: the sequencer of a core, one member cluster of a strand, an engine queue, or a device part whose steps
are the events of 95_what_each_step_holds.md. The model's own (log entry 2). -/
inductive Agent where
  | seq (core : Nat)
  | cluster (core strand rank : Nat)
  | engine (q : QId)
  | device
  deriving DecidableEq, Repr

/-- Where an uncorrectable error in stored state is found (24 R387): a clean L2 sector; a line, by the key of a byte of it; a sequencer register;
a doubleword of the staging buffers; a lane of a vector register; a row of an accumulator; a DRAM row, for a DOU that reads it
(20 R332); a block of a spilled tensor of the stash (16 R295); state of a core or of a context
whose loss costs the context. -/
inductive StorageError where
  | cleanSector (sector : Nat)
  | line (key : Nat)
  | seqReg (core : Nat) (reg : BitVec 5)
  | buffer (core place : Nat)
  | lane (core reg lane : Nat)
  | accRow (core acc row : Nat)
  | row (key : Nat)
  | stash (ctx die stage tag slot block : Nat)
  | core (core : Nat)
  | context (ctx : Nat)
  deriving DecidableEq, Repr

/-- Whose turn a step is. The model's own (log entry 2): the spec gives no order between agents. `cycle` is a cycle of the vector engine in
which the words of the members named (strand and rank) are ready as far as time decides it (10 R216); `landLane` lands one register of a lane
(06 R132); `sent`: the last byte that a CHSEND sent has landed at the consumer's W4 (08 R199). `discarded`: the switch has discarded the message that a
carousel step awaits (22 R363). `transmit`: a port puts the oldest message that goes out there on its link (R360). `bar0Read` and `bar0Write`: the host
reads or writes a doubleword of BAR0 (R364). -/
inductive Turn where
  | seq (core : Nat)
  | cluster (core strand rank : Nat)
  | cycle (core : Nat) (ready : List (Nat × Nat))
  | landLane (core place : Nat)
  | engine (q : QId)
  | sent (q : QId) (ring seq : Nat)
  | discarded (ctx die chunk : Nat)
  | transmit (port : Nat)
  | bar0Read (off : Nat)
  | bar0Write (off : Nat) (value : BitVec 64)
  | event (i : Instr)
  | tick (cycles : Nat)
  | evict (sector : Nat)
  | storage (e : StorageError)
  deriving DecidableEq, Repr

/-! ### Memory -/

/-- A byte's place in memory, as a translation gives it (20 R337): its key, and what its range says of it: cacheable, the
compression method, the address of its block's metadata word (18 R319), a poisoned range (20 R340). -/
structure Place where
  key   : Nat
  cache : Bool
  comp  : Nat
  md    : Nat
  pois  : Bool
  deriving DecidableEq, Repr

/-- A 32-byte sector held in an L2 (12 R247), in its expanded form, with the compression of its range, and the last command that had been
pushed when it was filled (13 R259: a line cached before a command). -/
structure Sector where
  data  : List Byte
  dirty : Bool
  comp  : Nat
  md    : Nat
  since : Nat := 0
  deriving DecidableEq, Repr

/-- An engine write that has been performed and that no agent has acquired (13 R256, R257): the bytes it changes, all in one
aligned 8-byte unit, the command that wrote it, whether it went to the DRAM row itself (a DOU, R259) and then under COH, and whether
later accesses of its own command stand after it (07 R171, 08 R202); `core` pushed the command. -/
structure EngineWrite where
  place : Place
  data : List Byte
  uid  : Nat
  dram : Bool
  coh  : Bool
  done : Bool
  core : Nat
  deriving DecidableEq, Repr

/-- An ordinary store that an engine read may not see yet (13 R259): the aligned 8-byte unit, what it held before, the store's place in the
global order, the VEC command whose strand stored it (0: none), the bytes stored from their address up, and, once a CLEAN has brought
them to the DRAM row (04 R106), the last command that had been pushed then. -/
structure StoreMark where
  place : Place
  old  : List Byte
  seq  : Nat
  uid  : Nat
  addr : Nat
  new  : List Byte
  row  : Option Nat := none
  deriving DecidableEq, Repr

/-- A pinned L2 line (07 R163, 12 R249): the line, the context, the step that holds it. -/
structure Pin where
  line : Nat
  ctx  : Nat
  uid  : Nat
  deriving DecidableEq, Repr

/-- A leased copy of a line homed on another W4 (13 R252, R253): its bytes, its write stamp, its lease end, and when it was fetched. -/
structure Lease where
  line : Nat
  data : List Byte
  wts  : Nat
  rts  : Nat
  start : Nat
  deriving DecidableEq, Repr

/-- The stamps of what one place serves (13 R252): its write stamp and its lease end. -/
structure Stamp where
  wts : Nat := 0
  rts : Nat := 0
  deriving DecidableEq, Repr

/-- The logical timestamps (13 R252): of every line by its address, of the semaphores (core × 512 + m), the rings (context × 256 + q) and
the sets (context × 64 + g), and the clock pts of every agent: sequencers by core, member clusters by 4 × strand + rank. -/
structure Stamps where
  line  : Tbl Stamp := []
  sem   : Tbl Stamp := []
  ring  : Tbl Stamp := []
  set   : Tbl Stamp := []
  seq   : Tbl Nat := []
  strand : Tbl Nat := []
  deriving DecidableEq, Repr

/-- The memories of the W4 (01 R20). `rowErr` are DRAM rows, by key / 1,024, with an uncorrectable error that no read has found (20 R332);
`epoch` is the name of the command pushed last; `paused` are the channels of HBM, by stack, that pause for a lane repair (22 R368). Keys of `mem`: the physical address, plus 2^52 × (1 + home W4) for a remote line. -/
structure MemSys where
  mem    : List Host.Cell := []
  poison : NatSet := []
  full   : NatSet := []
  fullBy : Tbl (List Nat) := []
  fullSee : Tbl Nat := []
  l2     : Tbl (Option Sector) := []
  pins   : List Pin := []
  leases : List Lease := []
  pendW  : List EngineWrite := []
  hist   : List StoreMark := []
  retired : NatSet := []
  rowErr : NatSet := []
  epoch  : Nat := 0
  paused : List (Nat × Nat) := []
  deriving DecidableEq, Repr

/-! ### Commands and queues -/

/-- Which task a command, a share or a mark belongs to: the stage and the number of the dispatch. -/
structure TaskId where
  stage : Nat
  num   : Nat
  deriving DecidableEq, Repr

/-- A landing of MCAST that has not taken place (08 R198): each byte with the poison of the line that it came from. -/
structure Landing where
  idx   : Nat
  core  : Nat
  toReg : Bool
  offs  : Nat
  bytes : List (Byte × Bool)
  sem   : Nat
  add   : Nat
  deriving DecidableEq, Repr

/-- The held result of one matrix step that the checker has not passed yet (07 R159, R172): the accumulator, its new rows with their
poison, the status they add, the lines that a commit empties or unpins, and what a rerun needs: the word, the iteration and the step of
the body, the block cursors the step used, and whether it has been run again. -/
structure HeldStep where
  acc    : Nat
  rows   : List (List (BitVec 32))
  poison : List Bool
  status : BitVec 64
  empties : List Nat
  pins   : List Nat
  word   : BitVec 32
  iter   : Nat
  step   : Nat
  kcA    : Nat
  kcB    : Nat
  again  : Bool
  deriving DecidableEq, Repr

/-- What a strand hands on when its command stops part way (24 R383; 06 R130, R142): predicates, rounding states, and of each member its index
registers with their poison and its VSH copy. -/
structure StrandRegs where
  preds : Tbl (BitVec 8)
  ppois : NatSet
  sr    : Tbl (BitVec 32)
  members : List (Tbl (BitVec 64) × NatSet × BitVec 24)
  deriving DecidableEq, Repr

/-- A command on a queue (08 R179-R194). `stage` is the stage of R188 it stands in, 0 before the head. It must see the ordinary stores up to `see`
and releases those up to `relSee`; `sends` are the slots, by ring and number, whose copies have not landed yet (08 R199); `ahead` is filled while a step runs: what that step (0)
and the later ones write, as far as it can be told (08 R194). -/
structure Cmd where
  img    : List (BitVec 64)
  chain  : Option (List (BitVec 64))
  num    : Nat
  uid    : Nat
  pusher : Nat
  task   : Option TaskId
  stage  : Nat
  body   : List Word
  iter   : Nat
  step   : Nat
  status : BitVec 64
  acq    : List Nat
  see    : Nat
  relSee : Nat := 0
  pts    : Nat := 0
  cover  : Tbl Nat
  lands  : List Landing
  recs   : List Landing := []
  held   : List HeldStep := []
  hver   : Tbl Nat
  statAddr : Option Nat
  records : Nat
  part   : Bool
  fault  : Bool
  met    : Bool
  want   : Option (List Nat × Nat) := none
  lineAcq : List (Nat × List Nat × Nat) := []
  quotaStall : Bool := false
  chWait : Option Nat := none
  chSeq  : Option (Nat × Nat) := none
  sends  : List (Nat × Nat) := []
  owns   : List Nat := []
  kept   : Option StrandRegs := none
  ahead  : List (Nat × EngineWrite) := []
  waitOn : Option Nat
  deriving DecidableEq, Repr

/-- A command queue with its timeline counter (08 R187, 12 R246): commands in order, the last number given, the count, whether it
is stopped by a trap or a fault, or by a pre-emption (24 R377, R381), and which writes the retired commands released. -/
structure Queue where
  cmds  : List Cmd := []
  last  : Nat := 0
  count : Nat := 0
  stop  : Bool := false
  pre : Bool := false
  retired : List (Nat × List Nat) := []
  deriving DecidableEq, Repr

/-! ### The sequencer -/

/-- The operations of a semaphore word at the file (04 R85). -/
inductive SemOp where
  | add | addc | cas | set | read | wait
  deriving DecidableEq, Repr

/-- The ring words (04 R88). -/
inductive RingOp where
  | claim | fill | waitF | waitE | take | free | stat
  deriving DecidableEq, Repr

/-- The set words (04 R91). -/
inductive SetOp where
  | join | leave | arrive | wait | test
  deriving DecidableEq, Repr

/-- A checked operation with the operands it captured at issue (04 R77); or an access of a later word, which has issued and stands behind
the checked operations before it in the global order (13 R252; log entry 6): a load, a store, with the flip region that a task's store marks (0:
none) and its address, a CLOAD, the discard of INVAL, an acquire or an observation of the commands named, or XFENCE.E2O. -/
inductive CheckedOp where
  | sem (core m : Nat) (op : SemOp) (a d : BitVec 32)
  | draw (core m n minc crew : Nat)
  | ring (q : Nat) (op : RingOp) (addr : Nat)
  | set (g : Nat) (op : SetOp) (val : Nat)
  | push (q : QId) (cmd : Cmd)
  | load (p : Place) (n : Nat) (signed : Bool)
  | store (p : Place) (bytes : List Byte) (flip va : Nat)
  | cload (k : Nat) (p : Place)
  | inval (ks : List (Nat × Nat))
  | acquire (uids : List Nat)
  | observe (uids : List Nat)
  | fence
  deriving DecidableEq, Repr

/-- The shadow's check point (24 R385): the registers at a word, the PC after it, and the results that were awaited there. -/
structure CheckPoint where
  regs : Tbl (BitVec 64)
  rpois : NatSet
  pc : BitVec 56
  await : List (Nat × BitVec 5)
  deriving DecidableEq, Repr

/-- What a program error of a checked word leaves (24 R377): everything that words after it may have changed, as it stood before the word: the
registers, the staging buffers, the system registers, the fence. -/
structure Prior where
  point : CheckPoint
  cb    : Tbl (BitVec 64)
  cbPois : NatSet
  sysr  : Tbl (BitVec 64)
  fence : Nat
  deriving DecidableEq, Repr

/-- An entry of the check queue: its name, the operation, the register its result goes to, whether that result travels from elsewhere,
the word's address and length, whether the sequencer holds at the word until it takes effect, the stores that commands pushed here must see
(R94), the registers as they stand at it for the shadow's check point, and what stood before it. -/
structure CheckEntry where
  id     : Nat
  op     : CheckedOp
  dst    : Option (BitVec 5)
  remote : Bool
  addr   : BitVec 56
  ulen   : Nat
  holds  : Bool
  see    : Nat
  snap   : CheckPoint
  prior  : Prior
  deriving DecidableEq, Repr

/-- A register whose result is not back yet (04 R76): the name of the word that brings it, the value once it is known, and whether a load
or an operation at a file, a ring or an engine brings it. A later word that writes the register takes the entry away. -/
structure Outstanding where
  id   : Nat
  reg  : BitVec 5
  val  : Option (BitVec 64 × Bool)
  load : Bool
  deriving DecidableEq, Repr

/-- A store that has issued and is not performed or not acknowledged (04 R82, 13 R254): the lines it writes, whether it marks them full
(06 R140), the strand it belongs to (0: the sequencer) and its member's rank, its place in the global order, the bytes it writes, of a store
to another W4's line whether it has been sent to the home, and whether it stands in the global order: a later store of its source waits for
its place until the home has acknowledged an earlier one (13 R252). -/
structure PendingStore where
  lines : List Nat
  remote : Bool
  sf   : Bool
  strand : Nat
  rank : Nat
  seq  : Nat
  writes : List (Place × List Byte)
  sent : Bool
  placed : Bool := false
  deriving DecidableEq, Repr

/-- What a sequencer waits in (04 R404). -/
inductive SeqWait where
  | sem (core m : Nat) (val : BitVec 32)
  | ring (q : Nat) (full : Bool)
  | set (g : Nat) (val : BitVec 16)
  | tl (q : QId) (count : Nat)
  | tnext (d : BitVec 5)
  | tend
  | probe (va : Nat)
  deriving DecidableEq, Repr

/-- A waiting word: what it waits for, its length, and whether its release has taken effect. -/
structure Waiting where
  on : SeqWait
  ulen : Nat
  released : Bool
  deriving DecidableEq, Repr

/-- Why a sequencer stalls at issue (04 R76, R77, R82, R96). -/
inductive Stall where
  | result | checkFull | checkBusy | storesFull | storesBusy | queueFull | tokens | cut | pinned | repair
  deriving DecidableEq, Repr

/-- Whether a sequencer runs: never started or its context gone; running; stopped at a HALT or a debug halt (04 R103, 24 R384);
stopped for pre-emption (24 R381). -/
inductive RunMode where
  | off | on | halted | saved
  deriving DecidableEq, Repr

/-- A held effect of a task at retirement (04 R86, R89; 08 R199, R206). -/
inductive HeldFx where
  | add (core m : Nat) (v : BitVec 32)
  | fill (q n : Nat)
  | free (q n : Nat)
  | publish (q seq : Nat) (tag : BitVec 16)
  | put (q : QId) (stage tag slot : Nat) (n : Nat) (bytes : List Byte) (poison : List Nat)
  | drop (q : QId) (stage tag slot : Nat)
  deriving DecidableEq, Repr

/-- The task a core runs (04 R98, 15 R284). `stores`: at TEND, the core's last ordinary store (13 R261). Held effects carry numbers that rise in the order of their execution. -/
structure Share where
  task : TaskId
  rank : Nat
  nextPc : BitVec 56
  pushed : List (QId × Nat)
  held : List (Nat × HeldFx)
  slots : List (Nat × Nat)
  takes : List (Nat × Nat)
  stores : Nat := 0
  deriving DecidableEq, Repr

/-- A fault held while the core is in its handler (24 R379). -/
structure HeldFault where
  cls : Nat
  tval : BitVec 64
  qsel : Nat
  detail : Nat
  strand : Option (Nat × Nat)
  deriving DecidableEq, Repr

/-- What waits on a semaphore (12 R245): a sequencer, a member cluster, a command in stage 2, a carousel step's consume (21 R352). -/
inductive SemWaiter where
  | seq (core : Nat)
  | cluster (core strand rank : Nat)
  | queue (q : QId) (uid : Nat)
  | carousel (ctx sid : Nat)
  deriving DecidableEq, Repr

/-- One semaphore: its count, its waiters in arrival order, which commands' SADDs and which fenced stores reached it. -/
structure Sem where
  val : BitVec 32 := 0
  waiters : List (SemWaiter × BitVec 32) := []
  rel : List Nat := []
  see : Nat := 0
  deriving DecidableEq, Repr

/-- A token (12 R244) with what popping it acquires (08 R190). -/
structure Token where
  rel : List Nat
  see : Nat
  deriving DecidableEq, Repr

/-! ### The vector engine -/

/-- What a member cluster of a strand waits for (06 R140-R147; 04 R404): nothing; a join at a synced bundle; the exit join; a
semaphore, released or not, alone or with the other members of a synced bundle; full lines, in the order of the tickets, alone or with the
other members, of whom one without a full/empty word waits for no lines; the end of a fault (24 R380). `again`: nothing, but its word of a synced
bundle, whose other words have issued, executes again (R404), as it does after a fault that says so. -/
inductive SlotWait where
  | run
  | join (pc : BitVec 56)
  | exit
  | sem (core m : Nat) (released joint : Bool) (next : BitVec 56)
  | full (lines : List Nat) (ticket : Nat) (joint : Bool)
  | again
  | fault (again : Bool)
  deriving DecidableEq, Repr

/-- One member cluster of a strand (06 R130, 10 R213): its cluster, the slot it holds there, slot PC, index registers, VSH and wait. -/
structure Member where
  cluster : Nat
  slot : Nat
  pc   : BitVec 56
  x    : Tbl (BitVec 64)
  xpois : NatSet
  vsh  : BitVec 24
  wait : SlotWait
  deriving DecidableEq, Repr

/-- How a strand stands to a trap or a pre-emption (24 R377, R380, R381): live; draining from an iteration on to another; kept whole;
drained, so that its command resumes at its progress word. -/
inductive StrandMode where
  | live
  | draining (from_ to_ : Nat)
  | kept
  | drained
  deriving DecidableEq, Repr

/-- A strand (06 R130), with the iterations N, the depth D and the first iteration of its run (24 R382), and the commands whose writes its
own command acquired (08 R190). Lanes are numbered as 03 R64 does: 32 × rank + lane. -/
structure Strand where
  uid   : Nat
  num   : Nat
  wb    : Nat
  ws    : Nat
  members : List Member
  preds : Tbl (BitVec 8)
  ppois : NatSet
  sr    : Tbl (BitVec 32)
  status : BitVec 64
  iter  : Nat
  set   : Option Nat
  age   : Nat
  starve : Nat
  n     : Nat
  d     : Nat
  first : Nat
  mode  : StrandMode
  acq   : List Nat := []
  deriving DecidableEq, Repr

/-- A load of a strand whose data are not back yet (10 R217): its name, the strand and the rank of the member, the window register, and for each
lane that it writes the register's key, the bits and the poison. -/
structure VecLoad where
  id     : Nat
  strand : Nat
  rank   : Nat
  reg    : Nat
  vals   : List (Nat × BitVec 32 × Bool)
  deriving DecidableEq, Repr

/-- A register of a lane that an engine command is landing, by its key (06 R132): the bits, the poison, and the command's name. -/
structure LaneLanding where
  key  : Nat
  bits : BitVec 32
  pois : Bool
  uid  : Nat
  deriving DecidableEq, Repr

/-- A load of a synced bundle (10 R222): its strand, its name, and the count of the virtual cycle counter at which its data are due. -/
structure SyncLoad where
  strand : Nat
  load   : Nat
  due    : Nat
  deriving DecidableEq, Repr

/-- The vector engine of a core (01 R15). `born` counts the strands that it has created, and is the age of the last (10 R213); `rr` is the issue
policy (10 R218); `last` is 4 × age + slot of the strand that issued at a cluster's previous choice, and `yielded` the clusters where it executed
VYIELD there (10 R220); `vcc` is the virtual cycle counter (10 R222). -/
structure VecUnit where
  regs : Tbl (BitVec 32) := []
  rpois : NatSet := []
  strands : List Strand := []
  stores : Tbl (List PendingStore) := []
  pend : List VecLoad := []
  landing : List LaneLanding := []
  born : Nat := 0
  rr : Bool := false
  last : Tbl Nat := []
  yielded : NatSet := []
  vcc : Nat := 0
  syncLoads : List SyncLoad := []
  deriving DecidableEq, Repr

/-! ### The matrix engine -/

/-- The matrix engine of a core (07 R150). `aerr` are rows whose uncorrectable error no ACHK has reported yet (R173, 24 R387). -/
structure MtxUnit where
  acc : Tbl (BitVec 32) := []
  apois : NatSet := []
  aerr : NatSet := []
  wm : Tbl Nat := []
  handles : Tbl Nat := []
  kc : Tbl Nat := []
  tabs : Tbl (Option (List Nat)) := []
  deriving DecidableEq, Repr

/-! ### Cores -/

/-- Everything a core site holds. `used` are its cycles since the last wear sample, at 0 those with no context, at n + 1 those of context n (25
R402); `frac` is what a derated clock has counted beyond whole cycles, in 33rds (25 R399). The defaults are its contents at module reset: those the
spec gives, and those of log entry 10. -/
structure Core where
  holder : Option Nat := none
  run    : RunMode := .off
  regs   : Tbl (BitVec 64) := []
  rpois  : NatSet := []
  pc     : BitVec 56 := 0
  cb     : Tbl (BitVec 64) := []
  cbPois : NatSet := []
  handler : Bool := false
  sysr   : Tbl (BitVec 64) := []
  cycle  : BitVec 64 := 0
  used   : Tbl Nat := []
  frac   : Nat := 0
  derated : Bool := false
  clkBusy : Bool := false
  checkQ : List CheckEntry := []
  nextId : Nat := 0
  outst  : List Outstanding := []
  stores : List PendingStore := []
  wait   : Option Waiting := none
  stall  : Option Stall := none
  ckpt   : Option CheckPoint := none
  mism   : Nat := 0
  share  : Option Share := none
  heldFaults : List HeldFault := []
  observed : List Nat := []
  lastStore : Nat := 0
  fence  : Nat := 0
  cutting : Bool := false
  faultStrand : Option Nat := none
  discards : NatSet := []
  endStrand : Bool := false
  debug  : Bool := false
  sems   : Tbl Sem := []
  tokens : Tbl (List Token) := []
  queues : Tbl Queue := []
  lbs    : Nat := 0
  lbv    : Nat := 0
  vec    : VecUnit := {}
  mtx    : MtxUnit := {}
  deriving DecidableEq, Repr

/-! ### Contexts -/

/-- A translation entry (20 R337). -/
structure LttEntry where
  vbase : Nat
  size  : Nat
  pbase : Nat
  place : Nat
  comp  : Nat
  cache : Bool
  rowop : Bool
  ft    : Bool
  pois  : Bool
  flip  : Nat
  mb    : Nat
  rw4   : Nat
  deriving DecidableEq, Repr

/-- An SRAM allocation entry (12 R236). -/
structure SramAlloc where
  base : Nat
  len  : Nat
  skew : Bool
  swz  : Nat
  deriving DecidableEq, Repr

/-- A flip region (15 R288): frame 1's base, the live selector, and the task that has marked it. -/
structure Flip where
  base1 : Nat
  live  : Bool
  mark  : Option TaskId
  deriving DecidableEq, Repr

/-- A waiter of a ring or a set, in arrival order. -/
structure CoreWaiter where
  core : Nat
  val  : Nat
  deriving DecidableEq, Repr

/-- The producer end of a tensor channel (16 R302). -/
structure Window where
  joined : Bool := false
  w      : Nat := 0
  sent   : Nat := 0
  freed  : Nat := 0
  deriving DecidableEq, Repr

/-- A channel end: the W4 of the other end; at a consumer end the tags of the slots, the lines that landings have begun to cover, and the freed
total that it has advertised (16 R300-R304). -/
structure ChannelEnd where
  peer  : Nat := 0
  tags  : Tbl (BitVec 16) := []
  cover : Tbl Nat := []
  adv   : BitVec 32 := 0
  deriving DecidableEq, Repr

/-- A ring of its owner context (12 R240, 04 R88): the descriptor, the counts, the slot marks. -/
structure Ring where
  base  : Nat
  logsl : Nat
  slotb : Nat
  orole : Nat
  chan  : Bool
  gv    : Bool
  grole : Nat
  gctx  : Nat
  gq    : Nat
  c     : BitVec 32 := 0
  f     : BitVec 32 := 0
  t     : BitVec 32 := 0
  r     : BitVec 32 := 0
  claimed : Tbl Nat := []
  filled : NatSet := []
  done   : NatSet := []
  void   : NatSet := []
  heldM  : NatSet := []
  taken  : List (Nat × Nat) := []
  rel    : Tbl (List Nat) := []
  ret    : List Nat := []
  waitE  : List Nat := []
  waitF  : List Nat := []
  win    : Window := {}
  chEnd  : ChannelEnd := {}
  deriving DecidableEq, Repr

/-- A member of a set (04 R91, 06 R146): a sequencer or a strand. -/
inductive SetMember where
  | seq (core : Nat)
  | strand (core uid : Nat)
  deriving DecidableEq, Repr

/-- A membership set (04 R91). -/
structure MemberSet where
  members : List (SetMember × Bool) := []
  phase : BitVec 16 := 0
  waiters : List (Nat × BitVec 16) := []
  deriving DecidableEq, Repr

/-- An entry of a stage's queue (15 R279): tag, arrival time, its place among the stage's arrivals. -/
structure Arrival where
  tag : BitVec 16
  time : Nat
  ord : Nat
  deriving DecidableEq, Repr

/-- A task that runs or waits to be rerun (15 R284, R290), with the shares that have ended, whose held effects it keeps (04 R99). -/
structure Task where
  id    : TaskId
  phase : Nat
  tag   : BitVec 16
  ver   : Nat
  crew  : List Nat
  ended : List (Nat × Share)
  aborts : Nat
  mism  : Nat
  waiting : Bool
  same  : Bool
  deriving DecidableEq, Repr

/-- A lookahead of the stash (16 R296, R298): the tags of the first two entries of a B queue at its change, and once it has begun the names, by die,
tag and slot, that are still to be prefetched. -/
structure Lookahead where
  tags  : List (BitVec 16)
  names : Option (List (Nat × Nat × Nat)) := none
  deriving DecidableEq, Repr

/-- A declared stage (15 R274-R290). `looks`: the lookaheads of its B queue that are not over. -/
structure Stage where
  commit : Bool
  rr    : Bool
  phases : Nat
  nver  : Nat
  vper  : Nat
  wt    : Nat
  dcrew : Nat
  agelim : Nat
  minc  : Nat
  csem  : Nat
  cls   : Nat
  quota : Nat
  fsrc  : Nat
  bsrc  : Nat
  dch   : Nat
  entries : List Nat
  rows  : List (BitVec 64)
  items : List Nat
  cores : List Nat
  queues : List (List Arrival)
  looks : List Lookahead := []
  arrived : Nat
  waits : Option (Nat × Arrival)
  inflight : List (BitVec 16 × Nat)
  last  : Nat
  cur   : Nat
  wcount : Nat
  due   : Bool
  fdisp : Nat
  retiredN : List Nat
  tasks : List Task
  nextTask : Nat
  deriving DecidableEq, Repr

/-- A name of the stash that is not absent (16 R293-R297): present with its size in 4 KiB units, its contents, the 64-byte pieces that are
poisoned, the bytes it takes in a backing (0: resident) and whether it has been prefetched; or dropped. -/
inductive StashState where
  | present (n : Nat) (bytes : List Byte) (poison : List Nat) (spill : Nat) (pref : Bool)
  | dropped
  deriving DecidableEq, Repr

/-- A tensor's name and state on a die. -/
structure Stashed where
  die   : Nat
  stage : Nat
  tag   : Nat
  slot  : Nat
  cls   : Nat
  state : StashState
  deriving DecidableEq, Repr

/-- What a carousel step has still to do (21 R348, R349): begin, with the stream of its data (R351); take an arrival, into a landing slot or into
the data; consume SSEM, asked or not; send the data in the directions listed. `halt`: it is to be begun again when its command, which has
faulted at it or before it, goes on. -/
inductive CrslAct where
  | begin (stream : Nat)
  | halt
  | take (slot : Option Nat)
  | consume (asked : Bool)
  | send (minus : List Bool)
  deriving DecidableEq, Repr

/-- The operation of a carousel step. -/
inductive CrslKind where
  | reduce | gather | bar
  deriving DecidableEq, Repr

/-- A carousel step that has begun (21 R347-R354): the command and the place in it, what its word, its iteration and its chunk entry say, its
ring, what is left to do, which directions an arrival has come from, its status, what it acquired and which writes it released. -/
structure CrslStep where
  sid    : Nat
  uid    : Nat
  num    : Nat
  die    : Nat
  iter   : Nat
  step   : Nat
  kind   : CrslKind
  bucket : Nat
  chunk  : Nat
  fmt    : Nat
  addr   : Nat
  slots  : Nat
  blocks : Nat
  scales : List Nat
  core   : Nat
  asem   : Nat
  ssem   : Nat
  orank  : Nat
  rank   : Nat
  p      : Nat
  todo   : List CrslAct
  came   : List Bool
  status : BitVec 64
  acq    : List Nat
  see    : Nat
  rel    : List Nat
  deriving DecidableEq, Repr

/-- A record of the event ring (24 R391, R392): its doublewords 0-4 without DROP and SEQ. -/
structure Record where
  kind : Nat
  d1 : BitVec 64
  d2 : BitVec 64
  d3 : BitVec 64
  d4 : BitVec 64
  deriving DecidableEq, Repr

/-- What a LAUNCH carries (15 R276-R278): the W4 list in its own order, with entry 0 the root; the W4s that have arrived; when it began; at the
root, the packet's offset in the ring; at another W4, the channel ends of the other W4s (16 R300). -/
structure Launch where
  start : Nat
  mbn   : Nat
  tag0  : Nat
  cto   : Nat
  gen   : Nat
  w4s   : List (BitVec 32)
  arrived : List Nat
  began : Nat
  offset : Nat := 0
  joins : List ChannelJoin := []
  deriving DecidableEq, Repr

/-- STATE of a context (15 R268). -/
inductive CtxState where
  | empty | loaded | curtain | running | saved
  deriving DecidableEq, Repr

/-- Everything a context holds outside its cores. -/
structure Ctx where
  st     : CtxState := .empty
  lrbase : Nat := 0
  lrsize : Nat := 0
  lrhead : Nat := 0
  lrtail : Nat := 0
  erroff : Nat := 0
  err    : Nat := 0
  badw   : Bool := false
  stop   : Bool := false
  lttd   : Tbl (BitVec 64) := []
  lttRefused : Bool := false
  probes : List Nat := []
  crcfg  : BitVec 64 := 0
  crtab  : BitVec 64 := 0
  dbgHalted : List Nat := []
  evbase : Nat := 0
  evsize : Nat := 0
  evhead : Nat := 0
  evtail : Nat := 0
  evseq  : Nat := 0
  evHeld : List Record := []
  evDrop : Nat := 0
  wacc   : Nat := 0
  charge : Tbl Nat := []
  gen    : Nat := 0
  ptab   : Nat := 0
  pinq   : List Nat := [0, 0]
  sts    : List Nat := [0, 0]
  hbk    : List Nat := [0, 0]
  tbk    : List Nat := [0, 0]
  ltt    : Tbl (Option LttEntry) := []
  sram   : List SramAlloc := []
  rings  : Tbl (Option Ring) := []
  withdrawn : NatSet := []
  flips  : Tbl (Option Flip) := []
  coreList : List Nat := []
  sets   : Tbl MemberSet := []
  shared : Tbl Queue := []
  stages : Tbl (Option Stage) := []
  launch : Option Launch := none
  stash  : List Stashed := []
  crsl   : List CrslStep := []
  crslHeld : List (Nat × RingMsg) := []
  lostRanks : List Nat := []
  preempting : Bool := false
  saved  : Tbl Core := []
  deriving DecidableEq, Repr

/-! ### The module -/

/-- State of a core in its wear record (25 R396, R398). -/
inductive WearState where
  | healthy | derated | drained | retiring | retired | spare
  deriving DecidableEq, Repr

/-- A core's wear record (25 R396); the amounts are R394's sums, in the unit of log entry 11. `slow`: the core has entered the state derated (R398). -/
structure Wrec where
  st    : WearState := .healthy
  susp  : Bool := false
  alarm : Bool := false
  wbt   : Nat := 0
  wem   : Nat := 0
  slow  : Bool := false
  deriving DecidableEq, Repr

/-- A torus or ring port (22 R360, R361): whether its link is down; the payloads received for this W4; how often the flit awaited has failed in a
row, and whether flits are rejected until it is replayed; the flits sent and not acknowledged; the flits put on the link. -/
structure Port where
  down  : Bool := false
  got   : List (List Byte) := []
  fails : Nat := 0
  rejects : Bool := false
  replay : List (List Byte) := []
  wire  : List (List Byte) := []
  deriving DecidableEq, Repr

/-- Module registers, wear records, ports and repairs (22, 25); `caps`: the capability list has been published (22 R366, R369), of the image with
this version and digest, and the identity with this public key; `served` is 1 + the context whose command a shared engine ran last
(08 R187); `replaced` are the retired cores that a spare stands in for, `off` the core sites that the signed configuration leaves out (01 R14). -/
structure Module where
  ready : Bool := false
  idok  : Bool := false
  fwerr : Bool := false
  repl  : Bool := false
  caps  : Bool := false
  image : List Byte := []
  key   : List Byte := []
  lrep  : List Nat := [4, 4, 4, 4, 4, 4, 4, 4]
  wrec  : Tbl Wrec := []
  flash : List (Nat × Wrec) := []
  flashB : List (Nat × Wrec) := []
  ports : Tbl Port := []
  failed : NatSet := []
  served : Tbl Nat := []
  replaced : NatSet := []
  off   : NatSet := []
  self  : Nat := 0
  powered : Bool := true
  deriving DecidableEq, Repr

/-- A message to another W4, the ring switch or the host (15 R277, 16 R304, 21 R353, 24 R389). -/
inductive OutMsg where
  | store (w4 pa ts : Nat) (data : List Byte)
  | storeAck (w4 ts : Nat)
  | lease (w4 line : Nat) (data : List Byte) (stamp : Stamp) (poison : Bool)
  | launch (to_ : BitVec 32) (gen : BitVec 32) (start : BitVec 56) (tag0 mbnm1 : BitVec 16) (w4s : List (BitVec 32))
  | report (to_ : BitVec 32) (fault : Bool)
  | rise (to_ : BitVec 32)
  | fall (to_ : BitVec 32) (err w4 : Nat) (w4s : List (BitVec 32))
  | loss (w4 ctx from_ : Nat)
  | chData (w4 ring seq : Nat) (bytes : List Byte) (poison : List Nat)
  | chPublish (w4 ring seq : Nat) (tag : BitVec 16) (void : Bool)
  | chAdvert (w4 ring : Nat) (freed : BitVec 32)
  | carousel (die : Nat) (wire : List Byte) (poison : List Nat)
  | data (to_ : Nat) (data : List Byte)
  deriving DecidableEq, Repr

/-- The machine: one W4. -/
structure State where
  /-- the agent that executes (log entry 2) -/
  who   : Agent
  /-- the turns to come (log entry 2) -/
  sched : List Turn
  /-- the core whose sequencer moves when `sched` is empty (log entry 2) -/
  focus : Nat
  /-- free values drawn so far (log entry 4) -/
  fresh : Nat
  /-- commands named so far (log entry 4) -/
  uid   : Nat
  /-- ordinary stores placed in the global order so far (13 R252) -/
  seqNo : Nat
  /-- wall time in core cycles at 3.3 GHz -/
  now   : Nat
  outbox : List OutMsg
  ms    : MemSys
  mod   : Module
  cores : Tbl Core
  ctxs  : Tbl Ctx
  /-- logical timestamps (13 R252) -/
  stamps : Stamps := {}
  deriving DecidableEq, Repr

/-- Why a step stops. Nearly every failure of this machine is a trap, a command fault or a context loss, which are next states. -/
inductive Fault where
  /-- Raised by `exec` when the instruction is given to an agent of another kind (a vector word to a sequencer), which no step
  of the machine does: each agent decodes its own opcode space (02 R38, R49, R57). Safe. -/
  | wrongAgent
  deriving DecidableEq, Repr

/-- Why an instruction has no meaning. -/
inductive Refusal where
  /-- Raised by an arm of `exec` whose instruction has no meaning yet. Safe. -/
  | notModelled (mnemonic : String)
  deriving DecidableEq, Repr

/-- Wear records at reset: rows 0-7 healthy (the default), the spares not enabled (01 R14; log entry 10). -/
def resetWrec : Tbl Wrec :=
  (upFrom 128 8).map (fun n => (n, { st := .spare }))

/-- The machine after module reset, before bring-up (22 R367, R369; values the spec does not give: log entries 1-5, 10). -/
def State.reset : State where
  who := .device
  sched := []
  focus := 0
  fresh := 0
  uid := 0
  seqNo := 0
  now := 0
  outbox := []
  stamps := {}
  ms := {}
  mod := { wrec := resetWrec }
  cores := []
  ctxs := []

end Sys2Proof.Machine
end

