-- ==== Sys2Proof/Machine/Mem.lean ====
section
/-!
DEFINITION. Sys2Proof/Machine/Mem.lean: the memories: DRAM and SRAM bytes, the L2 over them, compressed ranges, poison marks,
full/empty bits, and the ordinary and the engine view of a byte (12 R235-R250, 13 R251-R259, 18 R318-R322, 24 R405).
-/
namespace Sys2Proof.Machine

/-- First physical address of the stage-SRAM slices and the space of one slice (12 R235). -/
def sramBase : Nat := 0xFF00000000000
def sliceStep : Nat := 0x200000
def sliceLen : Nat := 0x180000

/-- Does a key lie in stage SRAM (12 R235)? -/
def isSram (k : Nat) : Bool :=
  decide (sramBase ≤ k) && decide (k < sramBase + 136 * sliceStep) && decide ((k - sramBase) % sliceStep < sliceLen)

/-- The core whose near slice holds a key. -/
def sliceCore (k : Nat) : Nat := (k - sramBase) / sliceStep

/-- Does a key lie in HBM (20 R328)? -/
def isHbm (k : Nat) : Bool := decide (k < 8 * 0x1000000000)

/-- Keys of lines homed on another W4 lie above the physical addresses (13 R253). -/
def isRemote (k : Nat) : Bool := decide (2 ^ 52 ≤ k)

/-- The line of a key: 128 bytes in stage SRAM, 64 bytes elsewhere (24 R405). -/
def lineLen (k : Nat) : Nat := if isSram k then 128 else 64
def lineOf (k : Nat) : Nat := k / lineLen k * lineLen k

/-- The die of the L2 that is a line's home (12 R247). -/
def homeDie (key : Nat) : Nat :=
  if isRemote key then key / 2 ^ 12 % 2
  else if key < 8 * 0x1000000000 then key / 0x1000000000 / 4
  else if key < 0x20000000000 then 0 else 1

/-- The set of a line in the L2 of its home (12 R248). -/
def setOf (key : Nat) : Nat := homeDie key * 2 ^ 15 + (slice key 20 6 ^^^ slice key 35 21)

/-- Ways of an L2 set (01 R20). -/
def l2Ways : Nat := 16

/-- Does an L2 of this W4 allocate sectors for a place: cacheable, no stage SRAM (12 R235, R247), not homed on another W4? -/
def Place.inL2 (p : Place) : Bool := p.cache && !isSram p.key && !isRemote p.key

/-- The lines that n bytes from key k touch. -/
def linesOf (k n : Nat) : List Nat :=
  if n = 0 then [] else
    let l := lineLen k
    (upFrom (k / l) ((k + n - 1) / l - k / l + 1)).map (· * l)

/-- One byte of DRAM or SRAM as stored. -/
def MemSys.raw (m : MemSys) (k : Nat) : Byte := Tbl.get Config.memDefault m.mem k

/-- Store one byte of DRAM or SRAM. -/
def MemSys.setRaw (m : MemSys) (k : Nat) (b : Byte) : MemSys :=
  { m with mem := Tbl.set Config.memDefault m.mem k b }

/-- Bytes as stored. -/
def MemSys.rawBytes (m : MemSys) (k n : Nat) : List Byte := (upFrom k n).map m.raw

/-- Store bytes from key k up. -/
def MemSys.setRawBytes (m : MemSys) (k : Nat) : List Byte → MemSys
  | [] => m
  | b :: bs => (m.setRaw k b).setRawBytes (k + 1) bs

/-- A method handled by the base-die codec (18 R318). -/
def codecMethod (c : Nat) : Bool := decide (1 ≤ c) && decide (c ≤ 3)

/-- The expanded block of 4 KiB that holds key k, or none where the codec finds a failure (18 R322): in its form, its check, or a metadata word
that lies in a poisoned line, a retired page's among them (20 R340). -/
def MemSys.block (m : MemSys) (k md : Nat) : Option (List Byte) :=
  if NatSet.has m.poison (lineOf md) || NatSet.has m.retired (md / 4096) then none
  else expandBlock (m.rawBytes (k / 4096 * 4096) 4096) (leNat (m.rawBytes md 8))

/-- The bytes that a block of 4 KiB supplies, checked or not: its expansion where its form has one, else its stored bits (R195, R322). -/
def MemSys.supplied (m : MemSys) (k md : Nat) : List Byte :=
  let raw := m.rawBytes (k / 4096 * 4096) 4096
  (expandForm raw (leNat (m.rawBytes md 8))).getD raw

/-- What the memory behind the caches gives for a byte: under methods 1-3 what its block supplies. -/
def MemSys.dram (m : MemSys) (p : Place) : Byte :=
  if codecMethod p.comp then (m.supplied p.key p.md).getD (p.key % 4096) 0 else m.raw p.key

/-- The byte that the next ordinary read of a place returns when no engine write to it is pending: the L2's copy where it holds
one (12 R247), the memory's otherwise. -/
def MemSys.peek (m : MemSys) (p : Place) : Byte :=
  match Tbl.get none m.l2 (p.key / 32) with
  | some sec => sec.data.getD (p.key % 32) 0
  | none => m.dram p

/-- The place i bytes further on in the same range. -/
def Place.plus (p : Place) (i : Nat) : Place :=
  { p with key := p.key + i, md := p.md + 8 * ((p.key % 4096 + i) / 4096) }

/-- Bytes from a place up. -/
def MemSys.peekBytes (m : MemSys) (p : Place) (n : Nat) : List Byte := (upFrom 0 n).map (fun i => m.peek (p.plus i))

/-- Mark or clear poison on the lines of a range of keys. -/
def MemSys.markPoison (m : MemSys) (lines : List Nat) (b : Bool) : MemSys :=
  { m with poison := lines.foldl (fun t l => NatSet.mark t l b) m.poison }

/-- Does a place read as poisoned whatever it holds: its range has POIS set, or the W4 has retired its page (20 R340, 24 R389; log entry 85)? -/
def MemSys.rangePois (m : MemSys) (p : Place) : Bool := p.pois || NatSet.has m.retired (p.key / 4096)

/-- Is a place's line poisoned, by its mark or by its range (20 R340)? -/
def MemSys.poisoned (m : MemSys) (p : Place) : Bool := m.rangePois p || NatSet.has m.poison (lineOf p.key)

/-- The poisoned lines that n bytes from a place up lie in. -/
def MemSys.poisonedLines (m : MemSys) (p : Place) (n : Nat) : List Nat := (linesOf p.key n).filter (fun l => m.poisoned { p with key := l })

/-- Is any of n bytes from a place up in a poisoned line? -/
def MemSys.anyPoisoned (m : MemSys) (p : Place) (n : Nat) : Bool :=
  m.rangePois p || (linesOf p.key n).any (fun l => NatSet.has m.poison l || NatSet.has m.retired (l / 4096))

/-- Does a list of pieces (key, bytes) cover a key? -/
def coversKey (ws : List (Nat × List Byte)) (k : Nat) : Bool := ws.any (fun w => decide (w.1 ≤ k) && decide (k < w.1 + w.2.length))

/-- The lines of a block that pieces cover wholly. -/
def coveredLines (base : Nat) (ws : List (Nat × List Byte)) : List Nat :=
  (linesOf base 4096).filter (fun l => (upFrom l 64).all (coversKey ws))

/-- Bytes of a unit overlaid on a read of n bytes from key k. -/
def overlay (k : Nat) (bytes : List Byte) (at_ : Nat) : List Byte → List Byte
  | [] => bytes
  | b :: bs =>
    let bytes := if k ≤ at_ ∧ at_ < k + bytes.length then bytes.set (at_ - k) b else bytes
    overlay k bytes (at_ + 1) bs

/-- The codec's write of one block (18 R321): pieces (key, bytes) merged into it, written whole. One that covers the whole block skips the
read; a failure of the read poisons the lines that the write does not cover (R322). -/
def MemSys.codecWrite (m : MemSys) (comp md base : Nat) (ws : List (Nat × List Byte)) : MemSys :=
  let whole := decide (4096 ≤ (ws.map (fun w => w.2.length)).sum) && (upFrom base 4096).all (coversKey ws)
  let old := if whole then none else m.block base md
  let cur := old.getD (m.supplied base md)
  let (stored, meta_) := compressBlock comp (ws.foldl (fun bs w => overlay base bs w.1 w.2) cur)
  let m1 := (m.setRawBytes base stored).setRawBytes md (leBytes meta_ 8)
  if old.isSome || whole then m1
  else m1.markPoison ((linesOf base 4096).filter (fun l => !(coveredLines base ws).contains l)) true

/-- Write a sector's bytes to memory (12 R247). -/
def MemSys.writeSector (m : MemSys) (n : Nat) (sec : Sector) : MemSys :=
  if codecMethod sec.comp then m.codecWrite sec.comp sec.md (32 * n / 4096 * 4096) [(32 * n, sec.data)] else m.setRawBytes (32 * n) sec.data

/-- Write a dirty sector back and leave it clean (04 R106). -/
def MemSys.clean (m : MemSys) (n : Nat) : MemSys :=
  match Tbl.get none m.l2 n with
  | some sec =>
    if sec.dirty then
      let m1 := m.writeSector n sec
      { m1 with l2 := Tbl.set none m1.l2 n (some { sec with dirty := false }) }
    else m
  | none => m

/-- Drop a sector without writing it back (04 R106). -/
def MemSys.drop (m : MemSys) (n : Nat) : MemSys := { m with l2 := Tbl.set none m.l2 n none }

/-- Is the line that holds sector n pinned (12 R250)? -/
def MemSys.pinned (m : MemSys) (n : Nat) : Bool := m.pins.any (fun p => p.line == n / 2)

/-- Evict a sector: write it back when dirty, then drop it; a pinned line is never evicted (12 R250). -/
def MemSys.evict (m : MemSys) (n : Nat) : MemSys := if m.pinned n then m else (m.clean n).drop n

/-- The lines that hold a way of an L2 set (01 R20; 12 R247): lines with a sector there, and leased copies of lines of other W4s. -/
def MemSys.ways (m : MemSys) (t : Nat) : List Nat :=
  ((m.l2.map (fun (e : Nat × Option Sector) => e.1 / 2) ++ m.leases.map (fun (l : Lease) => l.line / 64)).filter (fun l => setOf (64 * l) == t)).eraseDups

/-- A line leaves the L2: its sectors are written back, a leased copy is dropped. -/
def MemSys.evictLine (m : MemSys) (l : Nat) : MemSys :=
  let m := (m.evict (2 * l)).evict (2 * l + 1)
  { m with leases := m.leases.filter (fun e => e.line != 64 * l) }

/-- Does a key lie in a channel of HBM that pauses for a lane repair (22 R368)? -/
def MemSys.channelPaused (m : MemSys) (key : Nat) : Bool :=
  isHbm key && m.paused.contains (key / 0x1000000000, Config.channelOf (key / 64))

/-- Would a sector be written back to a channel that pauses? -/
def MemSys.heldDirty (m : MemSys) (n : Nat) : Bool :=
  (match Tbl.get none m.l2 n with | some sec => sec.dirty | none => false) && m.channelPaused (32 * n)

/-- The lines of a set that can leave the L2: those that are not pinned (12 R250) and wait for no lane repair (22 R368). -/
def MemSys.leavers (m : MemSys) (t : Nat) : List Nat :=
  (m.ways t).filter (fun l => !m.pinned (2 * l) && !m.heldDirty (2 * l) && !m.heldDirty (2 * l + 1))

/-- Has a line a way in its set, or is one free? -/
def MemSys.hasWay (m : MemSys) (line : Nat) : Bool :=
  let ws := m.ways (setOf (64 * line))
  ws.contains line || decide (ws.length < l2Ways)

/-- Make room in its set for a line (01 R20: 16 ways; log entry 12): in a full set a free choice of the lines that can leave does so. -/
def MemSys.makeRoom (m : MemSys) (line : Nat) : MemSys :=
  if m.hasWay line then m
  else
    let free := m.leavers (setOf (64 * line))
    match free[Config.victim free % free.length]? with
    | some l => m.evictLine l
    | none => m

/-- Does an access to a place wait for a lane repair (22 R368): no L2 holds its sector, and its channel pauses, or every line that could make
room for it would be written back to one that does? -/
def MemSys.pausedAt (m : MemSys) (p : Place) : Bool :=
  (Tbl.get none m.l2 (p.key / 32)).isNone &&
    (m.channelPaused p.key || (p.inL2 && !m.paused.isEmpty && !m.hasWay (p.key / 64) && (m.leavers (setOf p.key)).isEmpty))

/-- … some sector of n bytes from a place up? -/
def MemSys.pausedIn (m : MemSys) (p : Place) (n : Nat) : Bool :=
  ((upFrom 0 n).map (fun i => (p.key + i) / 32 * 32)).eraseDups.any (fun k => m.pausedAt { p with key := k })

/-- A block that fails its check poisons the lines it supplies (08 R195, 18 R322). -/
def MemSys.checkBlock (m : MemSys) (p : Place) : MemSys :=
  if codecMethod p.comp && (m.block p.key p.md).isNone then m.markPoison (linesOf (p.key / 4096 * 4096) 4096) true else m

/-- Allocate the sector of a place that an L2 holds, filled from memory (12 R247; log entry 12). -/
def MemSys.touch (m : MemSys) (p : Place) : MemSys :=
  if p.inL2 && (Tbl.get none m.l2 (p.key / 32)).isNone then
    let m := (m.makeRoom (p.key / 64)).checkBlock p
    let base : Place := { p with key := p.key / 32 * 32 }
    let sec : Sector :=
      { data := (upFrom 0 32).map (fun i => m.dram (base.plus i)), dirty := false, comp := p.comp, md := p.md, since := m.epoch }
    { m with l2 := Tbl.set none m.l2 (p.key / 32) (some sec) }
  else m

/-- Allocate every sector that n bytes from a place up touch. -/
def MemSys.touchBytes (m : MemSys) (p : Place) (n : Nat) : MemSys :=
  if p.inL2 then (upFrom 0 n).foldl (fun m i => m.touch (p.plus i)) m else m

/-- Store one byte where ordinary reads see it: into the L2 for a place that it holds or a line that it has, into memory otherwise. -/
def MemSys.poke (m : MemSys) (p : Place) (b : Byte) : MemSys :=
  let m := m.touch p
  match Tbl.get none m.l2 (p.key / 32) with
  | some sec =>
    { m with l2 := Tbl.set none m.l2 (p.key / 32) (some { sec with data := sec.data.set (p.key % 32) b, dirty := true }) }
  | none => if codecMethod p.comp then m.codecWrite p.comp p.md (p.key / 4096 * 4096) [(p.key, [b])] else m.setRaw p.key b

/-- Store bytes from a place up. -/
def MemSys.pokeBytes (m : MemSys) (p : Place) : List Byte → MemSys
  | [] => m
  | b :: bs => (m.poke p b).pokeBytes (p.plus 1) bs

/-- The L2's copies of bytes follow a write that goes to memory itself: those sectors that `sel` takes. -/
def MemSys.follow (sel : Sector → Bool) (m : MemSys) (k : Nat) : List Byte → MemSys
  | [] => m
  | b :: bs =>
    (match Tbl.get none m.l2 (k / 32) with
      | some sec =>
        if sel sec then { m with l2 := Tbl.set none m.l2 (k / 32) (some { sec with data := sec.data.set (k % 32) b }) } else m
      | none => m).follow sel (k + 1) bs

/-- Bring pieces of one 4 KiB block to where ordinary reads see them: at the codec as one write (18 R321), which the L2's copies follow, else
piece by piece. The lines that they cover wholly stay as clean or as poisoned as they were (R322). -/
def MemSys.pokeBlock (m : MemSys) (p : Place) (ws : List (Place × List Byte)) : MemSys :=
  if codecMethod p.comp then
    let base := p.key / 4096 * 4096
    let pieces := ws.map (fun w => (w.1.key, w.2))
    let m1 := pieces.foldl (fun m w => m.follow (fun _ => true) w.1 w.2) (m.codecWrite p.comp p.md base pieces)
    { m1 with poison := (coveredLines base pieces).foldl (fun t l => NatSet.mark t l (NatSet.has m.poison l)) m1.poison }
  else ws.foldl (fun m w => m.pokeBytes w.1 w.2) m

/-- An acquired write stands in the global order after the stores marked before it: what the units held without those stores has its bytes
too; bytes that went to the row are there. -/
def StoreMark.under (w : EngineWrite) (h : StoreMark) : StoreMark :=
  if h.place.key / 8 = w.place.key / 8 then
    { h with old := overlay h.place.key h.old w.place.key w.data, row := if w.dram then some (h.row.getD w.uid) else h.row }
  else h

/-- A DOU's write goes to the DRAM row. The L2's copies of it follow under COH (20 R334); with COH clear those that have been cached since the
command was pushed (13 R259: a line cached before the command may stay). -/
def MemSys.applyRow (m : MemSys) (w : EngineWrite) : MemSys :=
  (m.setRawBytes w.place.key w.data).follow (fun sec => w.coh || decide (w.uid ≤ sec.since)) w.place.key w.data

/-- The writes at the front of a list that one command made to one 4 KiB block. -/
def blockRun (w : EngineWrite) (ws : List EngineWrite) : List EngineWrite × List EngineWrite :=
  ws.span (fun v => v.uid == w.uid && !v.dram && v.place.key / 4096 == w.place.key / 4096 && v.place.comp == w.place.comp)

/-- The global view: apply acquired engine writes in the order performed (13 R257). The fuel is their number. -/
def MemSys.applyWrites (m : MemSys) : Nat → List EngineWrite → MemSys
  | 0, _ => m
  | _ + 1, [] => m
  | f + 1, w :: ws =>
    if w.dram then (m.applyRow w).applyWrites f ws
    else
      let r := blockRun w ws
      (m.pokeBlock w.place ((w :: r.1).map (fun v => (v.place, v.data)))).applyWrites f r.2

/-- Take some of the pending engine writes into the global order. -/
def MemSys.acquireBy (m : MemSys) (sel : EngineWrite → Bool) : MemSys :=
  let now := m.pendW.filter sel
  let m1 := m.applyWrites now.length now
  { m1 with pendW := m.pendW.filter (fun w => !sel w), hist := now.foldl (fun hs w => hs.map (StoreMark.under w)) m1.hist }

/-- Acquire the writes of the commands named (13 R257): they enter memory in the order performed. -/
def MemSys.acquire (m : MemSys) (uids : List Nat) : MemSys := m.acquireBy (fun w => uids.contains w.uid)

/-- Acquire, of the commands named, the writes to the given lines only (VLD.f, R140). -/
def MemSys.acquireLines (m : MemSys) (uids lines : List Nat) : MemSys :=
  m.acquireBy (fun w => uids.contains w.uid && lines.contains (lineOf w.place.key))

/-- Does an engine write touch n bytes from key k? -/
def EngineWrite.touches (w : EngineWrite) (k n : Nat) : Bool :=
  decide (w.place.key < k + n) && decide (k < w.place.key + w.data.length)

/-- Which of the pending engine writes one ordinary access sees (13 R256, R257): of those that meet `touch`, the writes of the commands that
its agent has acquired, and of the others a free choice each, taken once for the whole access. Answers them with the next number of the
free-value counter. -/
def MemSys.visible (m : MemSys) (acq : List Nat) (touch : EngineWrite → Bool) (f : Nat) : List EngineWrite × Nat :=
  m.pendW.foldl (fun (acc : List EngineWrite × Nat) w =>
    if touch w then
      if acq.contains w.uid then (acc.1 ++ [w], acc.2)
      else (if Config.seesUnacquired acc.2 then acc.1 ++ [w] else acc.1, acc.2 + 1)
    else acc) ([], f)

/-- Bytes read from key k with writes over them. -/
def overWrites (k : Nat) (bytes : List Byte) (ws : List EngineWrite) : List Byte :=
  ws.foldl (fun b w => overlay k b w.place.key w.data) bytes

/-- Does a command see a pending engine write (13 R256-R259)? It must see those of the commands it acquired, and those of its own that
stand before its access. -/
def EngineWrite.seen (w : EngineWrite) (own : Nat) (acq : List Nat) : Bool := acq.contains w.uid || (w.done && w.uid == own)

/-- The aligned 8-byte units that n bytes from key k touch. -/
def unitsOf (k n : Nat) : List Nat := if n = 0 then [] else upFrom (k / 8) ((k + n - 1) / 8 - k / 8 + 1)

/-- What a command that acquired a strand's command sees of an old value of a unit: the strand's later stores stand in it (13 R259). -/
def withStores (u : Nat) (acq : List Nat) (hs : List StoreMark) (h : StoreMark) : List Byte :=
  (hs.filter (fun g => decide (h.seq < g.seq) && acq.contains g.uid)).foldl (fun b g => overlay (8 * u) b g.addr g.new) h.old

/-- The values that a unit had before the ordinary stores to it that an engine access need not see (13 R259): it must see those up to `see`,
and those of the strands whose commands it acquired. -/
def MemSys.olds (m : MemSys) (see : Nat) (acq : List Nat) (u : Nat) : List (List Byte) :=
  let hs := m.hist.filter (fun h => h.place.key == 8 * u && decide (see < h.seq))
  (hs.filter (fun h => !acq.contains h.uid)).map (withStores u acq hs)

/-- Take one of several values for a unit, or leave it, as the free choice goes. -/
def chooseUnit (k u : Nat) (vals : List (List Byte)) (acc : List Byte × Nat) : List Byte × Nat :=
  if vals.isEmpty then acc
  else
    match vals[Config.engineSees acc.2 % (vals.length + 1)]? with
    | some o => (overlay k acc.1 (8 * u) o, acc.2 + 1)
    | none => (acc.1, acc.2 + 1)

/-- Engine writes over what was read: those that `must` be seen, and of the others that `may` be a free choice each. -/
def seenWrites (k n : Nat) (must may : EngineWrite → Bool) (ws : List EngineWrite) (acc : List Byte × Nat) : List Byte × Nat :=
  ws.foldl (fun (acc : List Byte × Nat) w =>
    if w.touches k n then
      if must w then (overlay k acc.1 w.place.key w.data, acc.2)
      else if may w then (if Config.seesUnacquired acc.2 then overlay k acc.1 w.place.key w.data else acc.1, acc.2 + 1)
      else acc
    else acc) acc

/-- An engine read (13 R256-R259) by a command that must see the ordinary stores up to `see` and the engine writes of `acq`:
units written by later stores, and units of other pending engine writes, are a free choice. -/
def MemSys.readEngine (m : MemSys) (own : Nat) (acq : List Nat) (see : Nat) (p : Place) (n f : Nat) : List Byte × Nat :=
  let base := (unitsOf p.key n).foldl (fun acc u => chooseUnit p.key u (m.olds see acq u) acc) (m.peekBytes p n, f)
  seenWrites p.key n (fun w => w.seen own acq) (fun _ => true) m.pendW base

/-- The L2's copy of a unit, when it is dirty (19 R324). -/
def MemSys.dirtyUnit (m : MemSys) (u : Nat) : List (List Byte) :=
  match Tbl.get none m.l2 (u / 4) with
  | some sec => if sec.dirty then [(sec.data.drop (8 * (u % 4))).take 8] else []
  | none => []

/-- Did a CLEAN that covers a store complete before a command was pushed (04 R106)? -/
def StoreMark.cleanedFor (h : StoreMark) (uid : Nat) : Bool := match h.row with | some t => decide (t < uid) | none => false

/-- The store marks that a CLEAN before the push of a command does not cover. -/
def MemSys.uncleaned (m : MemSys) (uid : Nat) : List StoreMark := m.hist.filter (fun h => !h.cleanedFor uid)

/-- What a unit held before stores to it that no CLEAN before the command's push covers (19 R324): their write-back may come before, during or
after the command. -/
def MemSys.rowOlds (m : MemSys) (uid u : Nat) : List (List Byte) :=
  ((m.uncleaned uid).filter (fun h => h.place.key == 8 * u)).map (·.old)

/-- The values that a unit of a row may have besides the one that stands there. -/
def MemSys.rowValues (m : MemSys) (own : Nat) (acq : List Nat) (see : Nat) (coh : Bool) (u : Nat) : List (List Byte) :=
  if coh then { m with hist := m.uncleaned own }.olds see acq u else m.dirtyUnit u ++ m.rowOlds own u

/-- What a DOU reads (13 R259): the DRAM row itself. With COH clear a unit has the bytes from before a store or the stored ones, as long as no
CLEAN before the push covers the store (19 R324), and an engine write that went to the L2 is there in the same way; with COH set the caches
have been cleaned, and the command sees what any engine sees, and what a CLEAN has brought to the row (04 R106). -/
def MemSys.readRow (m : MemSys) (own : Nat) (acq : List Nat) (see : Nat) (coh : Bool) (p : Place) (n f : Nat) : List Byte × Nat :=
  let base := (unitsOf p.key n).foldl (fun acc u => chooseUnit p.key u (m.rowValues own acq see coh u) acc)
    ((upFrom 0 n).map (fun i => m.raw (p.key + i)), f)
  seenWrites p.key n (fun w => w.seen own acq && (w.dram || coh || !p.inL2)) (fun _ => true) m.pendW base

/-- The marks that a store leaves on the units it touches, as they stand before it. -/
def MemSys.unitMarks (m : MemSys) (p : Place) (bs : List Byte) (seq uid : Nat) : List StoreMark :=
  (unitsOf p.key bs.length).map (fun u =>
    ⟨{ p with key := 8 * u }, (upFrom 0 8).map (fun i => m.peek { p with key := 8 * u + i }), seq, uid, p.key, bs, none⟩)

/-- An ordinary store takes its place in the global order (13 R252): the bytes stand for every later ordinary read, and the
store is marked as one that an engine read may not see yet (R259). `uid` names the VEC command of a strand's store, 0 for any other. -/
def MemSys.storeOrd (m : MemSys) (p : Place) (bs : List Byte) (seq uid : Nat) : MemSys :=
  let marks := m.unitMarks p bs seq uid
  let m1 := m.pokeBytes p bs
  { m1 with hist := m1.hist ++ marks }

/-- Cut a write into pieces that lie in one aligned 8-byte unit each (13 R256). The fuel is the number of bytes. -/
def unitPieces (mk : Place → List Byte → EngineWrite) (p : Place) : Nat → List Byte → List EngineWrite
  | 0, _ => []
  | f + 1, bs =>
    if bs.isEmpty then []
    else
      let n := 8 - p.key % 8
      mk p (bs.take n) :: unitPieces mk (p.plus n) f (bs.drop n)

/-- An engine write is performed (13 R256): its units are pending until an agent acquires the command. -/
def MemSys.writeEngine (m : MemSys) (uid core : Nat) (done : Bool) (p : Place) (bs : List Byte) : MemSys :=
  { m with pendW := m.pendW ++ unitPieces (fun p bs => ⟨p, bs, uid, false, false, done, core⟩) p bs.length bs }

/-- A DOU's write is performed: to the row itself, under COH or not (13 R259). -/
def MemSys.writeRow (m : MemSys) (uid core : Nat) (coh : Bool) (p : Place) (bs : List Byte) : MemSys :=
  { m with pendW := m.pendW ++ unitPieces (fun p bs => ⟨p, bs, uid, true, coh, false, core⟩) p bs.length bs }

/-- A byte that a command writes twice holds either value (08 R194): where an unordered write of the command is pending, it may stay. -/
def MemSys.writtenTwice (m : MemSys) (uid : Nat) (p : Place) (bs : List Byte) (f : Nat) : List Byte × Nat :=
  m.pendW.foldl (fun (acc : List Byte × Nat) w =>
    if w.uid == uid && !w.done && w.touches p.key bs.length then
      (if Config.writtenTwice acc.2 then overlay p.key acc.1 w.place.key w.data else acc.1, acc.2 + 1)
    else acc) (bs, f)

/-- What the command has written so far stands before its later accesses (07 R171). -/
def MemSys.settleOwn (m : MemSys) (uid : Nat) : MemSys :=
  { m with pendW := m.pendW.map (fun w => if w.uid = uid then { w with done := true } else w) }

/-- Mark a stage-SRAM line full (12 R238), by these commands, and by the ordinary stores up to a place in the global order. -/
def MemSys.setFullBy (m : MemSys) (line : Nat) (by_ : List Nat) (see : Nat) : MemSys :=
  { m with full := NatSet.mark m.full line true, fullBy := Tbl.set [] m.fullBy line by_, fullSee := Tbl.set 0 m.fullSee line see }

/-- Mark a stage-SRAM line full, by these commands, or empty (12 R238). -/
def MemSys.setFull (m : MemSys) (line : Nat) (b : Bool) (by_ : List Nat) : MemSys :=
  if b then m.setFullBy line by_ 0
  else { m with full := NatSet.mark m.full line false, fullBy := Tbl.set [] m.fullBy line [], fullSee := Tbl.set 0 m.fullSee line 0 }

/-- Is a line full? -/
def MemSys.isFull (m : MemSys) (line : Nat) : Bool := NatSet.has m.full line

/-- What the home of a line of another W4 gives when it is asked (13 R253): units that another agent has written there take the value found, a
free value (log entry 13). Answers whether one has changed, the memory and the next number of the counter. -/
def MemSys.refreshHome (m : MemSys) (line f : Nat) : Bool × MemSys × Nat :=
  let r := (upFrom 0 8).foldl (fun (acc : Bool × MemSys) i =>
    match Config.remoteUnit (f + i) with
    | some v => (true, acc.2.setRawBytes (line + 8 * i) (leBytes v.toNat 8))
    | none => acc) (false, m)
  (r.1, r.2, f + 8)

/-- Longest time that a lease lasts: 2 µs in core cycles (13 R253). -/
def leaseTime : Nat := 6600

/-- The leased copy of a line that serves a load at logical time t and wall time `now` (13 R253). -/
def MemSys.copyOf (m : MemSys) (line t now : Nat) : Option Lease :=
  m.leases.find? (fun l => l.line == line && decide (t ≤ l.rts) && decide (now < l.start + leaseTime))

/-- A leased copy takes the place of an earlier one of its line. -/
def MemSys.keepCopy (m : MemSys) (l : Lease) : MemSys :=
  let m := m.makeRoom (l.line / 64)
  { m with leases := m.leases.filter (fun e => e.line != l.line) ++ [l] }

end Sys2Proof.Machine
end

