-- ==== Sys2Proof/Machine/Stamp.lean ====
section
/-!
DEFINITION. Sys2Proof/Machine/Stamp.lean: the logical timestamps of 13 R252: what a load and a store do to the stamps of a place and to the
clock of the agent, for lines, semaphores, rings and sets.
-/
namespace Sys2Proof.Machine

/-- A load of a place by an agent whose clock is t: the stamps after it and the clock after it (R252). -/
def Stamp.load (p : Stamp) (t : Nat) : Stamp × Nat :=
  let ts := max t p.wts
  ({ p with rts := max p.rts (ts + Config.lease) }, ts)

/-- A store, or a read-modify-write, at a place (R252). -/
def Stamp.store (p : Stamp) (t : Nat) : Stamp × Nat :=
  let ts := max t (p.rts + 1)
  (⟨ts, ts⟩, ts)

/-- The clock of an agent; engines and the device have none. -/
def Stamps.pts (t : Stamps) : Agent → Nat
  | .seq c => Tbl.get 0 t.seq c
  | .cluster _ uid r => Tbl.get 0 t.strand (4 * uid + r)
  | _ => 0

def Stamps.setPts (t : Stamps) (a : Agent) (v : Nat) : Stamps :=
  match a with
  | .seq c => { t with seq := Tbl.set 0 t.seq c v }
  | .cluster _ uid r => { t with strand := Tbl.set 0 t.strand (4 * uid + r) v }
  | _ => t

/-- The places that carry stamps besides lines (R252): a semaphore of a core, a ring and a set of a context. -/
inductive StampAt where
  | line (l : Nat)
  | sem (core m : Nat)
  | ring (ctx q : Nat)
  | set (ctx g : Nat)
  deriving DecidableEq, Repr

def Stamps.get (t : Stamps) : StampAt → Stamp
  | .line l => Tbl.get {} t.line l
  | .sem c m => Tbl.get {} t.sem (512 * c + m)
  | .ring x q => Tbl.get {} t.ring (256 * x + q)
  | .set x g => Tbl.get {} t.set (64 * x + g)

def Stamps.put (t : Stamps) (p : StampAt) (v : Stamp) : Stamps :=
  match p with
  | .line l => { t with line := Tbl.set {} t.line l v }
  | .sem c m => { t with sem := Tbl.set {} t.sem (512 * c + m) v }
  | .ring x q => { t with ring := Tbl.set {} t.ring (256 * x + q) v }
  | .set x g => { t with set := Tbl.set {} t.set (64 * x + g) v }

/-- An agent accesses a place: `f` is what a load or a store does to its stamps. -/
def State.stampBy (s : State) (f : Stamp → Nat → Stamp × Nat) (a : Agent) (p : StampAt) : State :=
  let r := f (s.stamps.get p) (s.stamps.pts a)
  { s with stamps := (s.stamps.put p r.1).setPts a r.2 }

def State.stampLoad (s : State) (a : Agent) (p : StampAt) : State := s.stampBy Stamp.load a p
def State.stampStore (s : State) (a : Agent) (p : StampAt) : State := s.stampBy Stamp.store a p

/-- Every line that n bytes from key k touch. -/
def State.stampLoadLines (s : State) (a : Agent) (k n : Nat) : State := (linesOf k n).foldl (fun s l => s.stampLoad a (.line l)) s
def State.stampStoreLines (s : State) (a : Agent) (k n : Nat) : State := (linesOf k n).foldl (fun s l => s.stampStore a (.line l)) s

/-- Stores at some places, one after another at points of one rising time that begins at t (R252; 13 R261). -/
def Stamps.storeAll (st : Stamps) (t : Nat) : List StampAt → Stamps
  | [] => st
  | p :: ps => let r := (st.get p).store t; (st.put p r.1).storeAll r.2 ps

/-- An agent's clock goes on to a time at least. -/
def State.reachPts (s : State) (a : Agent) (t : Nat) : State :=
  { s with stamps := s.stamps.setPts a (max (s.stamps.pts a) t) }

/-- The latest time that any stamp of the machine holds: an agent that begins anew starts there. -/
def Stamps.latest (t : Stamps) : Nat :=
  let of := fun (b : Tbl Stamp) => b.foldl (fun m e => max m e.2.rts) 0
  let clocks := fun (b : Tbl Nat) => b.foldl (fun m e => max m e.2) 0
  max (max (of t.line) (max (of t.sem) (max (of t.ring) (of t.set)))) (max (clocks t.seq) (clocks t.strand))

end Sys2Proof.Machine
end

