-- ==== Sys2Proof/Machine/Ops.lean ====
section
/-!
DEFINITION. Sys2Proof/Machine/Ops.lean: the named operations over State: cores, contexts, queues, registers, translation (20
R337-R340, 15 R288), ordinary accesses (04 R81, R82), records to the owner (24 R390-R392), taking a trap and returning from one
(04 R102, 24 R375-R380), and the loss of a context (24 R388, R389).
-/
namespace Sys2Proof.Machine

/-! ### Cores, contexts, queues -/

/-- A core site as module reset leaves it. -/
def Core.reset : Core := {}
/-- A context as module reset leaves it. -/
def Ctx.reset : Ctx := {}

def State.core (s : State) (n : Nat) : Core := Tbl.get Core.reset s.cores n
def State.setCore (s : State) (n : Nat) (c : Core) : State := { s with cores := Tbl.set Core.reset s.cores n c }
def State.modCore (s : State) (n : Nat) (f : Core → Core) : State := s.setCore n (f (s.core n))

def State.ctx (s : State) (n : Nat) : Ctx := Tbl.get Ctx.reset s.ctxs n
def State.setCtx (s : State) (n : Nat) (x : Ctx) : State := { s with ctxs := Tbl.set Ctx.reset s.ctxs n x }
def State.modCtx (s : State) (n : Nat) (f : Ctx → Ctx) : State := s.setCtx n (f (s.ctx n))

/-- The context placed on a core. -/
def State.holder (s : State) (c : Nat) : Option Nat := (s.core c).holder
/-- The context of a core; a core without one has no words to run. -/
def State.ctxOf (s : State) (c : Nat) : Nat := (s.holder c).getD 0

def State.send (s : State) (m : OutMsg) : State := { s with outbox := s.outbox ++ [m] }

/-- Key of a shared queue in its context. -/
def sharedKey : QId → Nat
  | .stash _ die => die
  | .crsl _ die => 2 + die
  | .dou _ st => 4 + st
  | .core _ sel => sel

def State.queue (s : State) : QId → Queue
  | .core c sel => Tbl.get {} (s.core c).queues sel
  | .stash x d => Tbl.get {} (s.ctx x).shared (sharedKey (.stash x d))
  | .crsl x d => Tbl.get {} (s.ctx x).shared (sharedKey (.crsl x d))
  | .dou x d => Tbl.get {} (s.ctx x).shared (sharedKey (.dou x d))

def State.setQueue (s : State) (q : QId) (v : Queue) : State :=
  match q with
  | .core c sel => s.modCore c (fun co => { co with queues := Tbl.set {} co.queues sel v })
  | .stash x d => s.modCtx x (fun xx => { xx with shared := Tbl.set {} xx.shared (sharedKey (.stash x d)) v })
  | .crsl x d => s.modCtx x (fun xx => { xx with shared := Tbl.set {} xx.shared (sharedKey (.crsl x d)) v })
  | .dou x d => s.modCtx x (fun xx => { xx with shared := Tbl.set {} xx.shared (sharedKey (.dou x d)) v })

/-- The context a queue serves. -/
def State.queueCtx (s : State) : QId → Nat
  | .core c _ => s.ctxOf c
  | .stash x _ => x
  | .crsl x _ => x
  | .dou x _ => x

/-- The depth of a queue (08 R187). -/
def queueDepth : QId → Nat
  | .core _ _ => Config.coreQueueDepth
  | _ => Config.sharedQueueDepth

/-- The queue that bytes 0-7 of a command, or an engine code with its instance, name for a core of context x (02 R44, 08 R180). -/
def queueOf (core ctx eng inst : Nat) : Option QId :=
  match eng with
  | 0 => if inst = 0 then some (.core core 0) else none
  | 1 => if inst = 0 then some (.core core 1) else none
  | 2 => if inst ≤ 1 then some (.core core (2 + inst)) else none
  | 3 => if inst ≤ 1 then some (.core core (4 + inst)) else none
  | 4 => if inst ≤ 1 then some (.stash ctx inst) else none
  | 5 => if inst ≤ 1 then some (.crsl ctx inst) else none
  | 6 => if inst ≤ 7 then some (.dou ctx inst) else none
  | _ => none

/-- The queue whose counter a timeline selector names (02 R43). -/
def timelineOf (core ctx sel inst : Nat) : QId :=
  if sel ≤ 5 then .core core sel else if sel = 6 then .stash ctx inst else if sel = 7 then .crsl ctx inst else .dou ctx inst

/-- Timeline selector and instance of a queue, as QSEL holds them (24 R375). -/
def qsel : QId → Nat
  | .core _ sel => sel
  | .stash _ d => 6 + 16 * d
  | .crsl _ d => 7 + 16 * d
  | .dou _ d => 8 + 16 * d

/-! ### Coordinates (00 R12, 02 R30) -/

/-- Die of a core number. -/
def coreDie (n : Nat) : Nat := if n < 128 then n / 64 else (n - 128) / 4
/-- coord8 of a core number. -/
def coordOf (n : Nat) : Nat :=
  if n < 128 then n / 64 * 128 + n % 64 else (n - 128) / 4 * 128 + 64 + (n - 128) % 4
/-- Core number of a valid coord8. -/
def coreOfCoord (c : Nat) : Nat :=
  let row := c / 8 % 16
  if row < 8 then c / 128 * 64 + row * 8 + c % 8 else 128 + c / 128 * 4 + c % 8

/-- Is a core one of a context's cores? -/
def State.coreIn (s : State) (x n : Nat) : Bool := (s.ctx x).coreList.contains n

/-! ### Sequencer registers (04 R75-R78) -/

/-- What s[r] reads as; s0 reads zero and is never poisoned (R76, R78). -/
def Core.reg (c : Core) (r : BitVec 5) : BitVec 64 := if r = 0 then 0 else Tbl.get 0 c.regs r.toNat
def Core.pois (c : Core) (r : BitVec 5) : Bool := r != 0 && NatSet.has c.rpois r.toNat

/-- A register awaits no result any more: a later word writes it. -/
def Core.unawait (c : Core) (r : BitVec 5) : Core := { c with outst := c.outst.filter (fun o => o.reg != r) }

/-- Write a register and its poison bit; a write to s0 is discarded (R76). A result still on its way to the register comes too late. -/
def Core.write (c : Core) (r : BitVec 5) (v : BitVec 64) (p : Bool) : Core :=
  if r = 0 then c else { c.unawait r with regs := Tbl.set 0 c.regs r.toNat v, rpois := NatSet.mark c.rpois r.toNat p }

/-- Move past a word of n bytes. -/
def Core.advance (c : Core) (n : Nat) : Core := { c with pc := c.pc + BitVec.ofNat 56 n }

def Core.sys (c : Core) (n : Nat) : BitVec 64 := Tbl.get 0 c.sysr n
def Core.setSys (c : Core) (n : Nat) (v : BitVec 64) : Core := { c with sysr := Tbl.set 0 c.sysr n v }

/-- Is a register's result still outstanding (R76)? -/
def Core.busy (c : Core) (r : BitVec 5) : Bool := r != 0 && c.outst.any (fun o => o.reg == r)

/-- The sequencer can issue: it runs, waits in no word and stalls at none. -/
def Core.ready (c : Core) : Bool := c.run == .on && c.wait.isNone && c.stall.isNone

/-- Is the core inside a task: after TNEXT returned it and before TEND reported it (R98, R99)? -/
def Core.inTask (c : Core) : Bool := c.share.isSome

/-- The task the core is inside. -/
def Core.task (c : Core) : Option Share := c.share

/-- The stage of the core's task. -/
def State.stage (s : State) (x n : Nat) : Option Stage := Tbl.get none (s.ctx x).stages n
def State.setStage (s : State) (x n : Nat) (st : Stage) : State :=
  s.modCtx x (fun c => { c with stages := Tbl.set none c.stages n (some st) })

/-- Is the core's task one of a stage declared with COMMIT=1? -/
def State.commits (s : State) (c : Nat) : Bool :=
  match (s.core c).task with
  | some sh => match s.stage (s.ctxOf c) sh.task.stage with | some st => st.commit | none => false
  | none => false

/-! ### Translation (20 R337-R340, 15 R288) -/

/-- Does an entry cover a virtual address (20 R338)? -/
def LttEntry.covers (e : LttEntry) (va : Nat) : Bool := va / 2 ^ e.size == e.vbase / 2 ^ e.size

/-- The entry that covers an address, first-touch ranges included. -/
def Ctx.lookup (x : Ctx) (va : Nat) : Option LttEntry :=
  if 2 ^ 56 ≤ va then none else (x.ltt.filterMap (·.2)).find? (fun e => e.covers va)

/-- The lowest physical base of a flip region's frame 0 (15 R288). -/
def Ctx.flipBase (x : Ctx) (id : Nat) : Nat :=
  ((x.ltt.filterMap (·.2)).filter (fun e => e.flip == id)).foldl (fun m e => min m e.pbase) (2 ^ 60)

/-- Physical address of an address in the frame chosen: frame 1 when `one`. -/
def Ctx.physIn (x : Ctx) (e : LttEntry) (va : Nat) (one : Bool) : Nat :=
  let pa := e.pbase + va % 2 ^ e.size
  if one then match Tbl.get none x.flips e.flip with
    | some f => f.base1 + (pa - x.flipBase e.flip)
    | none => pa
  else pa

/-- The frame an access uses: the live one, or the shadow for a write inside a task (15 R288). -/
def Ctx.frame (x : Ctx) (e : LttEntry) (shadow : Bool) : Bool :=
  if e.flip = 0 then false else match Tbl.get none x.flips e.flip with
    | some f => f.live != shadow
    | none => false

/-- The place of an address under an entry, in frame 1 or frame 0. -/
def Ctx.placeIn (x : Ctx) (e : LttEntry) (va : Nat) (one : Bool) : Place :=
  { key := x.physIn e va one + (if e.place = 3 then 2 ^ 52 * (1 + e.rw4) else 0)
    cache := e.cache, comp := e.comp, md := e.mb + 8 * (va % 2 ^ e.size / 4096), pois := e.pois }

/-- The place of an address, or none where it is not translated or has no memory (20 R339). -/
def Ctx.place (x : Ctx) (shadow : Bool) (va : Nat) : Option Place :=
  match x.lookup va with
  | some e => if e.ft then none else some (x.placeIn e va (x.frame e shadow))
  | none => none

/-- Is an address translated memory (04 R81)? -/
def Ctx.translated (x : Ctx) (va : Nat) : Bool := (x.place false va).isSome

/-- The flip region an address lies in, 0 for none. -/
def Ctx.flipOf (x : Ctx) (va : Nat) : Nat := match x.lookup va with | some e => e.flip | none => 0

/-! ### Ordinary accesses of a core's agents (04 R81, R82; 13 R251-R254) -/

/-- The home of a line of another W4 is asked for it (13 R253): what others have stored there since, and the stamps that go with it. -/
def State.askHome (s : State) (line : Nat) : State :=
  let (moved, m, f) := s.ms.refreshHome line s.fresh
  let st := s.stamps.get (.line line)
  let w := st.rts + 1 + Config.remoteStamp f
  { s with ms := m, fresh := f + 1, stamps := if moved then s.stamps.put (.line line) ⟨w, w⟩ else s.stamps }

/-- The bytes of a line homed on another W4 for a load of an agent (13 R253): from the leased copy while the agent's clock and the wall clock
stand within its lease, else from the home, under a new lease where the range is cacheable (12 R247). -/
def State.remoteLine (s : State) (a : Agent) (cache : Bool) (line : Nat) : List Byte × State :=
  match (if cache then s.ms.copyOf line (s.stamps.pts a) s.now else none) with
  | some l => (l.data, s.reachPts a l.wts)
  | none =>
    let s := (s.askHome line).stampLoad a (.line line)
    let st := s.stamps.get (.line line)
    let data := s.ms.rawBytes line 64
    (data, if cache then { s with ms := s.ms.keepCopy ⟨line, data, st.wts, st.rts, s.now⟩ } else s)

/-- The list of pending stores of a source (04 R82, 06 R139). -/
def State.storesOf (s : State) : StoreSrc → List PendingStore
  | .seq c => (s.core c).stores
  | .cluster c k => Tbl.get [] (s.core c).vec.stores k
def State.setStores (s : State) (src : StoreSrc) (l : List PendingStore) : State :=
  match src with
  | .seq c => s.modCore c (fun co => { co with stores := l })
  | .cluster c k => s.modCore c (fun co => { co with vec := { co.vec with stores := Tbl.set [] co.vec.stores k l } })

/-- The cluster that a member of a strand runs on. -/
def Core.clusterOf (co : Core) (uid r : Nat) : Option Nat :=
  (co.vec.strands.find? (fun t => t.uid == uid)).bind (fun t => (t.members[r]?).map (·.cluster))

/-- The pending stores that serve an agent's loads: those of its sequencer, or of its cluster (04 R82, 06 R139). -/
def State.pendingOf (s : State) : Agent → List PendingStore
  | .seq c => s.storesOf (.seq c)
  | .cluster c uid r => (match (s.core c).clusterOf uid r with | some k => s.storesOf (.cluster c k) | none => [])
  | _ => []

/-- The bytes that pending stores wait to write, oldest first. -/
def pendingBytes (ps : List PendingStore) : List (Place × List Byte) := (ps.map (·.writes)).flatten

/-- Does a store of the agent still wait for its place in the global order? Its later accesses stand after it (13 R252). -/
def State.unplaced (s : State) (a : Agent) : Bool := (s.pendingOf a).any (fun p => !p.placed)

/-- Do the pending stores of an agent cover n bytes from a place (04 R82, 06 R139)? -/
def State.coveredBy (s : State) (a : Agent) (p : Place) (n : Nat) : Bool :=
  let ws := (pendingBytes (s.pendingOf a)).map (fun w => (w.1.key, w.2))
  (upFrom p.key n).all (coversKey ws)

/-- What an ordinary read finds at a local place before any engine write that is pending. -/
def State.baseBytes (s : State) (a : Agent) (p : Place) (n : Nat) : List Byte × State :=
  let ms := s.ms.touchBytes p n
  let ms := if p.inL2 then ms else ms.checkBlock p
  (ms.peekBytes p n, { s with ms := ms }.stampLoadLines a p.key n)

/-- The lines of another W4 that some accesses touch, each once, with whether an L2 may keep a copy. -/
def remoteLines (ps : List (Place × Nat)) : List (Nat × Bool) :=
  ((ps.filter (fun p => isRemote p.1.key)).map (fun p => (linesOf p.1.key p.2).map (fun l => (l, p.1.cache)))).flatten.eraseDups

/-- One ordinary read of several places at one point (13 R251, R252; 06 R139): a line of another W4 is fetched once; each engine write that is
pending and not acquired is seen by all of the read or by none; those of the commands `acq` are seen (08 R190); and bytes that a pending store
of the source covers are the stored ones (04 R82). -/
def State.readMany (s : State) (a : Agent) (acq : List Nat) (ps : List (Place × Nat)) : List (List Byte) × State :=
  let own := pendingBytes (s.pendingOf a)
  let (far, s) := (remoteLines ps).foldl (fun (acc : List (Nat × List Byte) × State) l =>
    let (bs, s) := acc.2.remoteLine a l.2 l.1
    (acc.1 ++ [(l.1, bs)], s)) ([], s)
  let (bases, s) := ps.foldl (fun (acc : List (List Byte) × State) p =>
    if isRemote p.1.key then (acc.1 ++ [(upFrom p.1.key p.2).map (fun k => ((far.lookup (lineOf k)).getD []).getD (k % 64) 0)], acc.2)
    else
      let (bs, s) := acc.2.baseBytes a p.1 p.2
      (acc.1 ++ [bs], s)) ([], s)
  let (vis, f) := s.ms.visible acq (fun w => ps.any (fun p => w.touches p.1.key p.2)) s.fresh
  ((ps.zip bases).map (fun b =>
    own.foldl (fun bs w => overlay b.1.1.key bs w.1.key w.2) (overWrites b.1.1.key b.2 vis)), { s with fresh := f })

/-- An ordinary read of n bytes at a place. -/
def State.readPlace (s : State) (a : Agent) (p : Place) (n : Nat) : List Byte × State :=
  let (bs, s) := s.readMany a [] [(p, n)]
  (bs.headD [], s)

/-! ### Stores on their way (04 R82; 06 R139, R140; 13 R252, R254) -/

/-- The lines that a store marked .sf wrote become full once it is performed; a line already full stays as it is (06 R140). -/
def MemSys.performed (m : MemSys) (st : PendingStore) : MemSys :=
  if st.sf then st.lines.foldl (fun m l => if m.isFull l then m else m.setFullBy l [] st.seq) m else m

/-- Does a store that stands in the order write one of some byte ranges (key, length)? -/
def PendingStore.meets (p : PendingStore) (ks : List (Nat × Nat)) : Bool :=
  p.placed && p.writes.any (fun w => ks.any (fun k => decide (w.1.key < k.1 + k.2) && decide (k.1 < w.1.key + w.2.length)))

/-- The pending stores whose bytes another write covers have been performed before it: as long as a store is pending, its bytes are those that
stand (04 R82; 13 R252). The stores of `skip` stay. -/
def State.performMet (s : State) (skip : Option StoreSrc) (ks : List (Nat × Nat)) : State :=
  (s.cores.map (fun e => StoreSrc.seq e.1 :: (List.range 4).map (StoreSrc.cluster e.1))).flatten.foldl (fun s src =>
    let l := s.storesOf src
    if some src = skip ∨ l.any (fun p => p.meets ks) = false then s
    else
      ({ s with ms := (l.filter (fun p => p.meets ks)).foldl MemSys.performed s.ms } : State).setStores src (l.filter (fun p => !p.meets ks))) s

/-- An agent acquires engine writes (13 R257): they stand in the global order immediately before this point, and each line they change is
stored to there. -/
def State.acquireWhere (s : State) (a : Agent) (sel : EngineWrite → Bool) : State :=
  let now := s.ms.pendW.filter sel
  let s := s.performMet none (now.map (fun w => (w.place.key, w.data.length)))
  ((now.map (fun w => lineOf w.place.key)).eraseDups).foldl (fun s l => s.stampStore a (.line l)) { s with ms := s.ms.acquireBy sel }

/-- … of the commands named (13 R257). -/
def State.acquire (s : State) (a : Agent) (uids : List Nat) : State := s.acquireWhere a (fun w => uids.contains w.uid)

/-- … of the commands named, to the given lines only (06 R140). -/
def State.acquireLines (s : State) (a : Agent) (uids lines : List Nat) : State :=
  s.acquireWhere a (fun w => uids.contains w.uid && lines.contains (lineOf w.place.key))

/-- The agent of a pending store of a source. -/
def agentOf (src : StoreSrc) (p : PendingStore) : Agent :=
  match src with
  | .seq c => .seq c
  | .cluster c _ => .cluster c p.strand p.rank

/-- A store of an agent is written in its place in the global order, which `seq` names, of the strand of VEC command `uid` or of a sequencer
(0): here, or at the home of the line, whose stamps may have moved on (13 R252-R254). -/
def State.storePlace (s : State) (src : StoreSrc) (a : Agent) (uid seq : Nat) (p : Place) (bs : List Byte) : State :=
  let s := s.performMet (some src) [(p.key, bs.length)]
  if isRemote p.key then
    let l := lineOf p.key
    let st := s.stamps.get (.line l)
    { s with ms := s.ms.storeOrd p bs seq uid, fresh := s.fresh + 1,
             stamps := s.stamps.put (.line l) { st with rts := st.rts + Config.remoteStamp s.fresh } }.stampStoreLines a p.key bs.length
  else { s with ms := s.ms.storeOrd p bs seq uid }.stampStoreLines a p.key bs.length

/-- A store that covers a whole line in one word clears its poison mark, but in a poisoned range (24 R405). -/
def MemSys.clearCovered (m : MemSys) (ws : List (Place × List Byte)) : MemSys :=
  m.markPoison (((ws.map (fun w => lineOf w.1.key)).eraseDups).filter (fun l =>
    let ks := ((ws.filter (fun w => lineOf w.1.key == l && !m.rangePois w.1)).map (fun w => (upFrom w.1.key w.2.length))).flatten.eraseDups
    decide (lineLen l ≤ ks.length))) false

/-- A store takes its place in the global order: all its writes at one point (13 R251, R252; 06 R139). -/
def State.placeStore (s : State) (src : StoreSrc) (p : PendingStore) : State :=
  let seq := s.seqNo + 1
  let s := p.writes.foldl (fun (s : State) w => s.storePlace src (agentOf src p) p.strand seq w.1 w.2) { s with seqNo := seq }
  let s := { s with ms := s.ms.clearCovered p.writes }
  match src with
  | .seq c => s.modCore c (fun co => { co with lastStore := seq })
  | _ => s

/-- What is sent of a store to the homes of its lines (13 R254). -/
def PendingStore.messages (p : PendingStore) (pts : Nat) : List OutMsg :=
  (p.writes.filter (fun w => isRemote w.1.key)).map (fun w => .store (w.1.key / 2 ^ 52 - 1) (w.1.key % 2 ^ 52) pts w.2)

/-- Does a store wait for a lane repair (22 R368)? -/
def State.repairing (s : State) (p : PendingStore) : Bool := p.writes.any (fun w => s.ms.pausedIn w.1 w.2.length)

/-- The stores of a source take their places in the order of its words, up to one that waits for a lane repair, or the first one for another W4:
that is sent, and has its place when its home acknowledges it (13 R252, R254). The fuel is the number of stores. -/
def State.advanceStores (s : State) (src : StoreSrc) : Nat → State
  | 0 => s
  | f + 1 =>
    match (s.storesOf src).span (·.placed) with
    | (_, []) => s
    | (done, p :: rest) =>
      if s.repairing p then s
      else if p.remote then
        if p.sent then s
        else { s.setStores src (done ++ { p with sent := true } :: rest) with
          outbox := s.outbox ++ p.messages (s.stamps.pts (agentOf src p)) }
      else
        ((s.setStores src (done ++ { p with placed := true, seq := s.seqNo + 1 } :: rest)).placeStore src p).advanceStores src f

/-- A store has issued: it is pending, and stands in the order when it may (04 R82; 13 R252, R254). -/
def State.addStore (s : State) (src : StoreSrc) (p : PendingStore) : State :=
  let l := s.storesOf src ++ [p]
  (s.setStores src l).advanceStores src l.length

/-- A flip region that a task writes: marked by it, refused where another task holds the mark (15 R288). -/
def Ctx.markFlip (x : Ctx) (id : Nat) (t : TaskId) : Option Ctx :=
  match Tbl.get none x.flips id with
  | some f =>
    match f.mark with
    | some t' => if t' = t then some x else none
    | none => some { x with flips := Tbl.set none x.flips id (some { f with mark := some t }) }
  | none => some x

/-! ### Records to the owner (24 R390-R392) -/

/-- A physical place that the W4 itself reads or writes. -/
def physPlace (pa : Nat) : Place := ⟨pa, false, 0, 0, false⟩

/-- A core field of a record (R392). -/
def coreField (c : Nat) (pc : BitVec 56) : BitVec 64 := BitVec.ofNat 64 (coordOf c + 256 * pc.toNat)

/-- Has the event ring room for one more record? One record's space always stays free (R390). -/
def Ctx.evRoom (x : Ctx) : Bool := x.evsize != 0 && (x.evtail + 64) % x.evsize != x.evhead

/-- Write one record at EVTAIL and advance it (R390, R391). -/
def State.writeRecord (s : State) (n : Nat) (r : Record) : State :=
  let x := s.ctx n
  let d0 := x.evDrop * 2 ^ 48 + x.evseq % 2 ^ 16 * 2 ^ 32 + n * 2 ^ 12 + r.kind
  let bytes := leBytes d0 8 ++ (([r.d1, r.d2, r.d3, r.d4, 0, 0, 0]).map (fun d => leBytes d.toNat 8)).flatten
  let s := { s with ms := s.ms.pokeBytes (physPlace (x.evbase + x.evtail)) bytes }
  s.setCtx n { x with evtail := (x.evtail + 64) % x.evsize, evseq := x.evseq + 1, evDrop := 0 }

/-- Deliver held records in order while there is room; the fuel is their number. -/
def State.deliver (s : State) (n : Nat) : Nat → State
  | 0 => s
  | f + 1 =>
    let x := s.ctx n
    match x.evHeld with
    | r :: rest => if x.evRoom then ((s.setCtx n { x with evHeld := rest }).writeRecord n r).deliver n f else s
    | [] => s

/-- A record for the owner: delivered, held, or dropped and counted (R390). The count stays at 65,535 (DESIGN CHOICE, log entry 94). -/
def State.record (s : State) (n : Nat) (r : Record) : State :=
  let x := s.ctx n
  if x.evHeld.isEmpty && x.evRoom then s.writeRecord n r
  else if 6 ≤ r.kind ∧ 16 ≤ x.evHeld.length then s.setCtx n { x with evDrop := min (x.evDrop + 1) 0xFFFF }
  else s.setCtx n { x with evHeld := x.evHeld ++ [r] }

/-! ### Ports (22 R360-R362) -/

/-- The port of a number: 0-5 are the torus ports +X, −X, +Y, −Y, +Z, −Z; 6 and 7 the ring ports 0 and 1 (DESIGN CHOICE, log entry 92). -/
def State.port (s : State) (p : Nat) : Port := Tbl.get {} s.mod.ports p
def State.setPort (s : State) (p : Nat) (v : Port) : State := { s with mod := { s.mod with ports := Tbl.set {} s.mod.ports p v } }

/-- The payloads of the flits that carry some bytes: 240 to a flit, the last one filled with zeros (R360; log entry 92). -/
def payloadsOf (bytes : List Byte) : List (List Byte) :=
  (chunks 240 (ceilDiv bytes.length 240) bytes).map (fun c => (c ++ List.replicate 240 0).take 240)

/-! ### Wear records and retirement (25 R396, R398) -/

/-- The wear record of a core. -/
def State.wrec (s : State) (c : Nat) : Wrec := Tbl.get {} s.mod.wrec c
def State.setWrec (s : State) (c : Nat) (w : Wrec) : State :=
  { s with mod := { s.mod with wrec := Tbl.set {} s.mod.wrec c w } }

/-- Is a core in the placement of some context? -/
def State.placed (s : State) (c : Nat) : Bool := s.ctxs.any (fun e => e.2.st != .empty && e.2.coreList.contains c)

/-- Spare sites of a die. -/
def dieSpares (d : Nat) : List Nat := upFrom (128 + 4 * d) 4
/-- SPARE of a die (22 R367): its sites not enabled. -/
def State.sparesLeft (s : State) (d : Nat) : Nat := ((dieSpares d).filter (fun c => (s.wrec c).st == .spare)).length

/-- Retiring cores that no context holds are fenced (R398); REPL is raised when the die has no spare to take the place of one (R400, R403). -/
def State.retireFree (s : State) : State :=
  (upFrom 0 Config.cores).foldl (fun s c =>
    if (s.wrec c).st = .retiring ∧ s.placed c = false then
      let s := s.setWrec c { s.wrec c with st := .retired }
      { s with mod := { s.mod with repl := s.mod.repl || s.sparesLeft (coreDie c) == 0 } }
    else s) s

/-! ### Losing a context (24 R388, R389) -/

/-- A core after its context has ended: nothing of the context is left; the core's own clock goes on, and its wear is charged by cycles (25 R402). -/
def Core.released (c : Core) : Core := { cycle := c.cycle, used := c.used, derated := c.derated, clkBusy := c.clkBusy }

/-- A core's waits on a ring that is withdrawn end with a program-error fault, taken at its next boundary (12 R243). A wait whose release has
taken effect is over (04 R404). -/
def Core.dropRingWait (q : Nat) (c : Core) : Core :=
  match c.wait with
  | some { on := .ring r _, released := false, .. } =>
    if r = q then
      { c with wait := none, checkQ := c.checkQ.filter (fun e => !e.holds), heldFaults := c.heldFaults ++ [⟨3, BitVec.ofNat 64 q, 0, 0, none⟩] }
    else c
  | _ => c

/-- The SRAM allocation that holds the slots of a ring (12 R240), as a physical range. -/
def Ctx.ringAlloc (x : Ctx) (r : Ring) : Option (Nat × Nat) :=
  match x.sram.find? (fun a => decide (a.base ≤ r.base) && decide (r.base + 2 ^ r.logsl * r.slotb ≤ a.base + 4096 * a.len)) with
  | some a => (x.lookup a.base).map (fun e => (x.physIn e a.base false, 4096 * a.len))
  | none => none

/-- Is an entry one for the memory of a ring that another context grants, whose slots' allocation is the range given (12 R235)? -/
def LttEntry.granted (e : LttEntry) (own : List Nat) (alloc : Option (Nat × Nat)) : Bool :=
  isSram e.pbase && e.place == 0 && !own.contains (sliceCore e.pbase) &&
    (match alloc with | some (lo, n) => decide (lo ≤ e.pbase) && decide (e.pbase + 2 ^ e.size ≤ lo + n) | none => false)

/-- Withdraw the rings that context n grants (12 R243): the grantee loses the ring and its entries for the slots' memory (R235). -/
def State.withdraw (s : State) (n : Nat) : State :=
  let rings := ((s.ctx n).rings.filterMap (fun r => r.2)).filter (fun r => r.gv)
  rings.foldl (fun s r =>
    let x := s.ctx r.gctx
    let alloc := (s.ctx n).ringAlloc r
    let own := x.coreList
    let s := s.setCtx r.gctx { x with
      withdrawn := NatSet.mark x.withdrawn r.gq true
      ltt := x.ltt.filter (fun e => match e.2 with
        | some e => !e.granted own alloc
        | none => true) }
    own.foldl (fun s c => if s.holder c = some r.gctx then s.modCore c (Core.dropRingWait r.gq) else s) s) s

/-- Slots of one ring that a killed grantee held (12 R243): claimed and unfilled ones become void, taken ones are free. -/
def Ring.dropGrantee (g : Nat) (r : Ring) : Ring :=
  let claimed := r.claimed.filter (fun e => e.2 == g)
  { r with
    void := claimed.foldl (fun t e => if NatSet.has r.filled e.1 then t else NatSet.mark t e.1 true) r.void
    filled := claimed.foldl (fun t e => NatSet.mark t e.1 true) r.filled
    heldM := claimed.foldl (fun t e => NatSet.mark t e.1 false) r.heldM
    done := (r.taken.filter (fun e => e.2 == g)).foldl (fun t e => NatSet.mark t e.1 true) r.done }

/-- Let a ring's frontiers pass every slot that is filled, and every taken slot that is done (04 R88). The fuel is the number of
slots. -/
def Ring.settle (r : Ring) : Nat → Ring
  | 0 => r
  | f + 1 =>
    if r.f != r.c && NatSet.has r.filled r.f.toNat then { r with f := r.f + 1 }.settle f
    else if r.r != r.t && NatSet.has r.done r.r.toNat then
      { r with done := NatSet.mark r.done r.r.toNat false, filled := NatSet.mark r.filled r.r.toNat false,
               void := NatSet.mark r.void r.r.toNat false, taken := r.taken.filter (fun e => e.1 != r.r.toNat),
               claimed := Tbl.erase r.r.toNat r.claimed, rel := Tbl.erase r.r.toNat r.rel,
               chEnd := { r.chEnd with tags := Tbl.erase r.r.toNat r.chEnd.tags }, r := r.r + 1 }.settle f
    else r

/-- The release of a sequencer's wait is one step at the place that serves it (R404). -/
def State.releaseSeq (s : State) (c : Nat) : State :=
  s.modCore c (fun co => match co.wait with
    | some w => { co with wait := some { w with released := true } }
    | none => co)

def State.ring (s : State) (n q : Nat) : Option Ring := Tbl.get none (s.ctx n).rings q
def State.setRing (s : State) (n q : Nat) (r : Ring) : State :=
  s.modCtx n (fun x => { x with rings := Tbl.set none x.rings q (some r) })

/-- SLOTS of a ring (12 R240). -/
def Ring.slots (r : Ring) : Nat := 2 ^ r.logsl

def Ring.hasSpace (r : Ring) : Bool := decide ((r.c - r.r).toNat < r.slots)
/-- A slot can be taken: one that an aborted task gave back (R89), or the next in order. -/
def Ring.hasFilled (r : Ring) : Bool := !r.ret.isEmpty || r.f != r.t

/-- A void slot at the frontier of a channel's consumer end is freed at once, with no RTAKE (16 R305). The fuel is the number of slots. -/
def Ring.freeVoid (r : Ring) : Nat → Ring
  | 0 => r
  | f + 1 =>
    if r.f != r.t && NatSet.has r.void r.t.toNat then
      { r with done := NatSet.mark r.done r.t.toNat true, t := r.t + 1 }.freeVoid f
    else r

/-- Is a ring the consumer end of a tensor channel (16 R300)? -/
def Ring.consumerEnd (r : Ring) : Bool := r.chan && r.orole == 2

/-- A ring's frontiers after a change of its marks. -/
def Ring.settled (r : Ring) : Ring :=
  let r := r.settle (4 * r.slots)
  if r.consumerEnd then (r.freeVoid r.slots).settle (4 * r.slots) else r

/-- A channel's freed frontier is advertised to the producer's W4 when it moves (16 R304); to a lost W4 nothing goes (R305). -/
def State.advertise (s : State) (n q : Nat) : State :=
  match s.ring n q with
  | some r =>
    if r.chan ∧ r.r ≠ r.chEnd.adv then
      let s := s.setRing n q { r with chEnd := { r.chEnd with adv := r.r } }
      if NatSet.has s.mod.failed r.chEnd.peer then s else s.send (.chAdvert r.chEnd.peer q r.r)
    else s
  | none => s

/-- After a change of a ring its frontiers settle and its waiters whose conditions hold are released (R88). -/
def State.putRing (s : State) (n q : Nat) (r : Ring) : State :=
  let r := r.settled
  let goE := if r.hasSpace then r.waitE else []
  let goF := if r.hasFilled then r.waitF else []
  let r := { r with waitE := if r.hasSpace then [] else r.waitE, waitF := if r.hasFilled then [] else r.waitF }
  let s := (s.setRing n q r).advertise n q
  (goE ++ goF).foldl (fun s c => (s.stampLoad (.seq c) (.ring n q)).releaseSeq c) s

/-- Free what context n held of the rings granted to it (12 R243); its cores wait there no more, and other waiters are released (R88). -/
def State.dropGranted (s : State) (n : Nat) : State :=
  let own := (s.ctx n).coreList.filter (fun c => s.holder c == some n)
  s.ctxs.foldl (fun s e => e.2.rings.foldl (fun s r => match r.2 with
    | some g =>
      if g.gv ∧ g.gctx = n then
        let g := g.dropGrantee n
        s.putRing e.1 r.1 { g with waitE := g.waitE.filter (fun c => !own.contains c), waitF := g.waitF.filter (fun c => !own.contains c) }
      else s
    | none => s) s) s

/-- A pending store of a context that ends is performed or not, as the free choice goes (24 R389 step 3): what it wrote and no later store
has covered may go back. -/
def State.unperform (s : State) (seq : Nat) : State :=
  let keep := Config.landsAtLoss s.fresh
  let s := { s with fresh := s.fresh + 1 }
  if keep then s
  else
    let mine := s.ms.hist.filter (fun h => h.seq == seq && !s.ms.hist.any (fun g => g.place.key == h.place.key && decide (seq < g.seq)))
    { s with ms := mine.foldl (fun m h => m.pokeBytes h.place h.old) s.ms }

/-- A pending store of a context that ends: what stands in the order may go back, what was sent to another W4 may be performed there, and what
waited for its place has none (24 R389 step 3). -/
def State.loseStore (s : State) (src : StoreSrc) (p : PendingStore) : State :=
  if p.placed then s.unperform p.seq
  else if p.remote ∧ p.sent then
    let s' := { s with fresh := s.fresh + 1 }
    if Config.landsAtLoss s.fresh then s'.placeStore src p else s'
  else s

/-- The pending stores of a core's agents go with its context. -/
def State.loseStores (s : State) (c : Nat) : State :=
  (StoreSrc.seq c :: (List.range 4).map (StoreSrc.cluster c)).foldl (fun s src => (s.storesOf src).foldl (fun s p => s.loseStore src p) s) s

/-- The context's state ends: queues and strands go, sets dissolve, rings are withdrawn, cores are free; STATE is EMPTY (24 R389
steps 1-3, 5; 04 R92). -/
def State.endContext (s : State) (n : Nat) : State :=
  let x := s.ctx n
  let s := (s.withdraw n).dropGranted n
  let s := x.coreList.foldl (fun s c => if s.holder c = some n then s.loseStores c else s) s
  let s := x.coreList.foldl (fun s c => if s.holder c = some n then s.modCore c Core.released else s) s
  State.retireFree { s.modCtx n (fun x => { x with
      st := .empty, sets := [], shared := [], stages := [], rings := [], flips := [], ltt := [], sram := [], coreList := [],
      launch := none, stash := [], crsl := [], crslHeld := [], lostRanks := [], probes := [], dbgHalted := [], preempting := false,
      saved := [] }) with
    ms := { s.ms with pins := s.ms.pins.filter (fun p => p.ctx != n) } }

/-- The 4 KiB page of each consumed poisoned line is retired (24 R389 step 4); its lines read as poisoned from here on (20 R340;
`MemSys.poisoned`). -/
def State.retirePages (s : State) (keys : List Nat) : State :=
  { s with ms := { s.ms with retired := keys.foldl (fun t k => NatSet.mark t (k / 4096) true) s.ms.retired } }

/-- The other W4s of a context's launch, as the list entries of 15 R276. -/
def Ctx.peers (x : Ctx) (self : Nat) : List (BitVec 32) :=
  match x.launch with
  | some l => l.w4s.filter (fun w => w.toNat % 2 ^ 24 != self)
  | none => []

/-- The context is lost on this W4 (24 R389): the owner receives a context-lost record and the other W4s of the launch hear of it.
`pages` are the keys of the lines whose poison was consumed; `w4` is the W4 where the loss began. -/
def State.loseContext (s : State) (n cause : Nat) (addr core : BitVec 64) (pages : List Nat) (w4 : Nat) : State :=
  let peers := if w4 = s.mod.self then (s.ctx n).peers s.mod.self else []
  let s := (s.retirePages pages).endContext n
  let s := s.record n ⟨1, BitVec.ofNat 64 cause, addr, core, BitVec.ofNat 64 w4⟩
  peers.foldl (fun s w => s.send (.loss (w.toNat % 2 ^ 24) (w.toNat / 2 ^ 28) s.mod.self)) s

/-- A sequencer loses its context: class and address; EPC's word names the place. -/
def State.seqLoss (s : State) (c cls : Nat) (addr : Nat) : State :=
  s.loseContext (s.ctxOf c) cls (BitVec.ofNat 64 addr) (coreField c (s.core c).pc) [] s.mod.self

/-! ### Taking a trap and returning from it (04 R102, 24 R375-R380) -/

/-- What a trap puts into CAUSE besides its class (24 R375). -/
structure CauseExtra where
  code   : Nat := 0
  qsel   : Nat := 0
  detail : Nat := 0
  strand : Option Nat := none
  deriving DecidableEq, Repr

/-- The CAUSE register (24 R375). -/
def causeWord (cls : Nat) (e : CauseExtra) : BitVec 64 :=
  BitVec.ofNat 64 (e.detail * 2 ^ 24 + e.qsel * 2 ^ 16 + e.code * 2 ^ 8 +
    (match e.strand with | some cl => 128 + 32 * cl | none => 0) + cls)

/-- Stop the six queues of the core (24 R377): no command begins stage 3 from here on, and one that runs stops at the end of its
iteration. The cut is complete with CUT_COMPLETE. -/
def Core.stopQueues (c : Core) : Core :=
  { c with
    queues := (List.range 6).foldl (fun t q => Tbl.modify {} t q (fun v => { v with stop := true })) c.queues
    cutting := true }

/-- A member cluster stops in its wait (04 R404, 24 R381): a VWAIT whose release took effect has completed; any other VWAIT or full/empty
wait has had no effect, and the word executes again; with the other members' where no word of its synced bundle has had an effect (`whole`). -/
def Member.stop (whole : Bool) (m : Member) : Member :=
  let ended : Bool → SlotWait := fun joint => if joint then (if whole then .join m.pc else .again) else .run
  match m.wait with
  | .sem _ _ true _ next => { m with wait := .run, pc := next }
  | .sem _ _ false joint _ => { m with wait := ended joint }
  | .full _ _ joint => { m with wait := ended joint }
  | _ => m

/-- Do all members wait in one synced bundle of which no word has had an effect (04 R404)? -/
def Strand.whole (t : Strand) : Bool :=
  t.members.all (fun m => some m.pc == (t.members[0]?).map (·.pc) &&
    (match m.wait with | .full _ _ true => true | .sem _ _ false true _ => true | .fault _ => true | _ => false))

/-- Does a strand wait (24 R381 step 4): in a VWAIT, for full lines, or with one of its members at a join where the others are not? -/
def Strand.waits (t : Strand) : Bool :=
  t.members.any (fun m => match m.wait with | .sem _ _ _ _ _ => true | .full _ _ _ => true | _ => false) ||
    (t.members.any (fun m => match m.wait with | .join _ => true | .exit => true | _ => false) &&
      !t.members.all (fun m => some m.wait == (t.members[0]?).map (·.wait)))

/-- The waits of the members named end. -/
def Strand.stopMembers (t : Strand) (sel : Nat → Bool) : Strand :=
  { t with members := t.members.mapIdx (fun i m => if sel i then m.stop t.whole else m) }

/-- A strand is kept whole (24 R377, R381): its waits end. -/
def Strand.keep (t : Strand) : Strand := { t.stopMembers (fun _ => true) with mode := .kept }

/-- A live strand at a stop (24 R381 step 4): it drains, or is kept whole when it waits. -/
def Strand.stop (t : Strand) : Strand :=
  match t.mode with
  | .live =>
    if t.waits then t.keep
    else { t with mode := .draining (t.iter + 1) (min (t.iter + t.d - 1) (t.n + t.d - 2)) }
  | _ => t

/-- The clusters of the strands named wait on the core's semaphores no more. -/
def Core.leaveSems (c : Core) (uids : List Nat) : Core :=
  { c with sems := c.sems.map (fun e => (e.1, { e.2 with waiters := e.2.waiters.filter (fun w =>
      match w.1 with | .cluster _ u _ => !uids.contains u | _ => true) })) }

/-- Every strand of the core stops; the clusters that waited on semaphores wait no more. -/
def Core.stopStrands (c : Core) : Core :=
  let gone := (c.vec.strands.filter (fun t => t.mode == .live && t.waits)).map (·.uid)
  { c with vec := { c.vec with strands := c.vec.strands.map Strand.stop } }.leaveSems gone

/-- Enter the handler (R102): EPC, CAUSE and, where the cause carries a value, TVAL are written, handler mode is set, and the
sequencer goes on at TVEC with bits 1:0 zero. Bits 63:56 of TVEC do not reach the PC of 56 bits (DESIGN CHOICE, log entry 76). -/
def Core.enterHandler (c : Core) (cls : Nat) (epc : BitVec 56) (tval : Option (BitVec 64)) (e : CauseExtra) : Core :=
  let c := (c.setSys 4 (epc.zeroExtend 64)).setSys 5 (causeWord cls e)
  let c := match tval with | some v => c.setSys 6 v | none => c
  { (c.setSys 38 0).stopQueues.stopStrands with
    handler := true, stall := none, pc := (BitVec.ofNat 56 ((c.sys 3).toNat / 4 * 4)) }

/-- A trap of a sequencer word (R102). In handler mode it ends the context with class 13. -/
def State.trapWith (s : State) (c cls : Nat) (epc : BitVec 56) (tval : Option (BitVec 64)) (e : CauseExtra) : State :=
  if (s.core c).handler then s.seqLoss c 13 0
  else s.modCore c (fun co => co.enterHandler cls epc tval e)

/-- Mark a stall of the sequencer of core c at its word. -/
def State.stallSeq (s : State) (c : Nat) (r : Stall) : State := s.modCore c (fun co => { co with stall := some r })

/-- May an operation still be a program error when it takes effect (04 R88, R90, R91; 15 R288): an RFILL or RFREE, whose slot the ring examines,
an ARRIVE, a store that marks a flip region? -/
def CheckedOp.mayFail : CheckedOp → Bool
  | .ring _ .fill _ | .ring _ .free _ | .set _ .arrive _ => true
  | .store _ _ flip _ => flip != 0
  | _ => false

/-- … and one of the check queue? -/
def Core.mayFail (c : Core) : Bool := c.checkQ.any (fun e => e.op.mayFail)

/-- A trap, a loss of the context, or a word that stops the sequencer: it is taken once no earlier word can trap any more (24 R377; log entry 6). -/
def State.precisely (s : State) (c : Nat) (k : State → State) : State :=
  if (s.core c).mayFail then s.stallSeq c .checkBusy else k s

/-- A trap at the sequencer's own word, or at its prefix. -/
def State.trap (s : State) (c cls : Nat) (tval : BitVec 64) : State :=
  s.precisely c (fun s => s.trapWith c cls (s.core c).pc (some tval) {})

/-- Illegal instruction, alignment, program error (24 R376). -/
def State.illegal (s : State) (c : Nat) : State := s.trap c 1 0
def State.misaligned (s : State) (c addr : Nat) : State := s.trap c 2 (BitVec.ofNat 64 addr)
def State.progError (s : State) (c : Nat) (v : Nat) : State := s.trap c 3 (BitVec.ofNat 64 v)
/-- A poison trap consumes poison: the context is lost with class 10 (24 R388). -/
def State.poisonTrap (s : State) (c : Nat) : State := s.precisely c (fun s => s.seqLoss c 10 0)
/-- A fatal context error at an address (04 R81). -/
def State.fatal (s : State) (c addr : Nat) : State := s.precisely c (fun s => s.seqLoss c 12 addr)

/-- ERET restarts every queue the trap stopped and clears CUTS.V (24 R378, R379). -/
def Core.restartQueues (c : Core) : Core :=
  { c.setSys 38 (c.sys 38 &&& ~~~(BitVec.ofNat 64 (2 ^ 31))) with
    queues := (List.range 6).foldl (fun t q => Tbl.modify {} t q (fun v =>
      { v with stop := false, cmds := v.cmds.map (fun k => { k with want := none }) })) c.queues
    cutting := false, faultStrand := none }

/-- Return from a trap (R102): handler mode is cleared and the sequencer goes on at EPC with bits 1:0 zero; bits 63:56 of EPC do not reach the
PC (DESIGN CHOICE, log entry 76). -/
def Core.eret (c : Core) : Core :=
  { c with handler := false, pc := BitVec.ofNat 56 ((c.sys 4).toNat / 4 * 4) }

/-- The trap registers of a strand's fault (24 R378): SPC0-SPC3 hold its members' slot PCs, STRCTL reads its command's number. -/
def Core.strandRegs (co : Core) (f : Option (Nat × Nat)) : Core :=
  match f.bind (fun f => co.vec.strands.find? (fun t => t.uid == f.1)) with
  | some t =>
    let co := (List.range 4).foldl (fun (co : Core) i =>
      co.setSys (48 + i) (match t.members[i]? with | some m => m.pc.zeroExtend 64 | none => 0)) co
    co.setSys 52 (BitVec.ofNat 64 t.num)
  | none => co

/-- A fault that a strand, a command or a file raises (R102, R379): held while the core is in its handler, else taken at the
sequencer's next word. -/
def State.raise (s : State) (c : Nat) (f : HeldFault) : State :=
  let co := s.core c
  if co.handler then s.setCore c { co with heldFaults := co.heldFaults ++ [f] }
  else
    let e : CauseExtra := { qsel := f.qsel, detail := f.detail, strand := f.strand.map (·.2) }
    s.setCore c { ((co.enterHandler f.cls co.pc (some f.tval) e).strandRegs f.strand) with faultStrand := f.strand.map (·.1) }

/-- Take the first fault held, if any (R379). -/
def State.takeHeld (s : State) (c : Nat) : State :=
  let co := s.core c
  match co.heldFaults with
  | f :: rest => if co.handler then s else (s.setCore c { co with heldFaults := rest }).raise c f
  | [] => s

/-! ### Meanings of sequencer words -/

/-- One step's outcome. -/
abbrev Out := Host.Outcome State Fault Refusal

/-- A sequencer word: the agent must be a sequencer. While it does not run, waits or stalls, nothing happens; while a register
that it reads has its result outstanding it stalls (R76); else it has its effect. -/
def seqWord (s : State) (regs : List (BitVec 5)) (k : Nat → Core → State) : Out :=
  match s.who with
  | .seq c =>
    let co := s.core c
    if co.ready then
      if regs.any co.busy then .next (s.setCore c { co with stall := some .result })
      else .next (k c co)
    else .next s
  | _ => .fault .wrongAgent

/-- A transition of the device that no agent issues: an event of 95_what_each_step_holds.md. -/
def eventStep (s : State) (k : State → State) : Out :=
  match s.who with
  | .device => .next (k s)
  | _ => .fault .wrongAgent

end Sys2Proof.Machine
end

