-- ==== Sys2Proof/Machine/Operands.lean ====
section
/-!
DEFINITION. Sys2Proof/Machine/Operands.lean: the operand forms of sequencer words (02 R40, R41, R44) and of vector words (R49, R52).
-/
namespace Sys2Proof.Machine

/-- Sign-extended immediate of an I-form word; 16 bits, or 40 under PFX.I (R40). -/
def immS {n : Nat} (imm : BitVec n) : BitVec 64 := imm.signExtend 64
/-- Zero-extended immediate (R40). -/
def immZ {n : Nat} (imm : BitVec n) : BitVec 64 := imm.zeroExtend 64
/-- payload:imm16 of a word under PFX.I (R40). -/
def immPfx40 (payload : BitVec 24) (imm : BitVec 16) : BitVec 40 := payload ++ imm

/-- The target of a branch or jump: the word's own address plus 4 × the offset (R41). A prefix does not precede one. -/
def target {n : Nat} (pc : BitVec 56) (off : BitVec n) : BitVec 56 := pc + 4 * off.signExtend 56

/-- The operands of a word are poisoned (04 R78). -/
def Core.anyPois (c : Core) (rs : List (BitVec 5)) : Bool := rs.any c.pois

/-- Effective address of a load or store (04 R81). -/
def Core.ea (c : Core) (a : BitVec 5) (imm : BitVec 64) : Nat := (c.reg a + imm).toNat

/-- The physical register that a vector operand names for a member cluster: an offset in the strand's window (R49, 06 R131). The
index register is read at issue. -/
def VReg.number (v : VReg) (x : Nat → BitVec 64) : Nat :=
  match v with
  | .win n => n.toNat
  | .ind k => (x k.toNat).toNat

end Sys2Proof.Machine
end

