-- ==== Sys2Proof/Machine/SeqMem.lean ====
section
/-!
DEFINITION. Sys2Proof/Machine/SeqMem.lean: loads, stores and CLOAD of the sequencer (04 R81, R82, R95; ordering 13 R252), CLEAN and
INVAL (04 R106), PTEST (R105), and the returns of loads and stores (95 LOAD_DATA_RETURN, STORE_PERFORMED, REMOTE_STORE_ACK).
-/
namespace Sys2Proof.Machine

/-- A sequencer's access takes effect in its word's place in the global order (13 R252): at issue when neither a checked operation nor a store
that has no place yet stands before it, else behind those in the check queue (log entry 6). -/
def Core.checkClear (c : Core) : Bool := c.checkQ.isEmpty && c.stores.all (·.placed)

/-- Is an operation an access that only stands in the check queue for its order (04 R77: the checked operations are the others)? -/
def CheckedOp.access : CheckedOp → Bool
  | .load _ _ _ | .store _ _ _ _ | .cload _ _ | .inval _ | .acquire _ | .observe _ | .fence => true
  | _ => false

/-- The checked operations of the check queue (04 R77). -/
def Core.checked (c : Core) : List CheckEntry := c.checkQ.filter (fun e => !e.op.access)

/-- The registers as they stand at a word, with the PC after it, and the results that are still awaited (24 R385). -/
def Core.snapshot (co : Core) (ulen : Nat) : CheckPoint :=
  let known := co.outst.foldl (fun (k : Core) o => match o.val with | some (v, p) => k.write o.reg v p | none => k) co
  ⟨known.regs, known.rpois, co.pc + BitVec.ofNat 56 ulen,
   (co.outst.filter (fun o => o.val.isNone)).map (fun o => (o.id, o.reg))⟩

/-- A check point takes a result that it awaited. -/
def CheckPoint.put (k : CheckPoint) (id : Nat) (v : BitVec 64) (p : Bool) : CheckPoint :=
  k.await.foldl (fun (k : CheckPoint) a =>
    if a.1 = id then { k with regs := Tbl.set 0 k.regs a.2.toNat v, rpois := NatSet.mark k.rpois a.2.toNat p } else k)
    { k with await := k.await.filter (fun a => a.1 != id) }

/-- What stands before a word. -/
def Core.prior (co : Core) : Prior := ⟨co.snapshot 0, co.cb, co.cbPois, co.sysr, co.fence⟩

/-- The register d awaits a result (04 R76), which is named; s0 awaits none. -/
def Core.await (co : Core) (d : BitVec 5) (val : Option (BitVec 64 × Bool)) (load : Bool) : Core :=
  let co := { co with nextId := co.nextId + 1 }
  if d = 0 then co else { co.unawait d with outst := (co.unawait d).outst ++ [⟨co.nextId, d, val, load⟩] }

/-- The result named `id` has become known: the check points that await it take it, and so does its register's entry. -/
def Core.known (co : Core) (id : Nat) (v : BitVec 64) (p : Bool) : Core :=
  { co with
    ckpt := co.ckpt.map (fun k => k.put id v p)
    checkQ := co.checkQ.map (fun e => { e with
      snap := e.snap.put id v p, prior := { e.prior with point := e.prior.point.put id v p } })
    outst := co.outst.map (fun o => if o.id = id then { o with val := some (v, p) } else o) }

/-- An entry of the check queue for the word at the PC. Its name is that of its result, if it brings one. -/
def Core.entry (co : Core) (op : CheckedOp) (dst : Option (BitVec 5)) (remote : Bool) (ulen : Nat) (holds : Bool) : CheckEntry :=
  ⟨co.nextId, op, dst, remote, co.pc, ulen, holds, co.fence, co.snapshot ulen, co.prior⟩

/-- A word enters the check queue: the register of its result awaits it. -/
def Core.enter (co : Core) (op : CheckedOp) (dst : Option (BitVec 5)) (remote : Bool) (ulen : Nat) (holds : Bool) : Core :=
  let load : Bool := match op with | .load _ _ _ => true | _ => false
  let co1 := match dst with | some d => co.await d none load | none => { co with nextId := co.nextId + 1 }
  let e := { co.entry op dst remote ulen holds with snap := co1.snapshot ulen }
  { co1 with checkQ := co.checkQ ++ [e] }

/-- The address checks of R81 in order: a poisoned base, an untranslated address, misalignment. `none` lets the access go on. -/
def seqAddress (s : State) (c : Nat) (pois : Bool) (ea n : Nat) : Option State :=
  if pois then some (s.poisonTrap c)
  else if 2 ^ 56 ≤ ea ∨ (s.ctx (s.ctxOf c)).translated ea = false then some (s.fatal c ea)
  else if ea % n ≠ 0 then some (s.misaligned c ea)
  else none

/-- A value of n bytes, extended to 64 bits as LD or LDS does (R81). -/
def extendLoad (signed : Bool) (n : Nat) (v : Nat) : BitVec 64 :=
  if signed then match n with
    | 1 => (BitVec.ofNat 8 v).signExtend 64
    | 2 => (BitVec.ofNat 16 v).signExtend 64
    | 4 => (BitVec.ofNat 32 v).signExtend 64
    | _ => BitVec.ofNat 64 v
  else BitVec.ofNat 64 (v % 2 ^ (8 * n))

/-- A load of a full line observes the completions of the commands that made it full (R94). -/
def State.observeLine (s : State) (c : Nat) (p : Place) : State :=
  if s.ms.isFull (lineOf p.key) then s.modCore c (fun co => { co with observed := co.observed ++ Tbl.get [] s.ms.fullBy (lineOf p.key) }) else s

/-- A load reads (R81): the value, its poison, and the state with the completions that a full line's load observes (R94). -/
def State.loadAt (s : State) (c : Nat) (p : Place) (n : Nat) (signed : Bool) : BitVec 64 × Bool × State :=
  let (bs, s1) := s.readPlace (.seq c) p n
  (extendLoad signed n (leNat bs), s1.ms.poisoned p, s1.observeLine c p)

/-- LD, LDS (R81): one ordinary read of n bytes at the live frame; the register's result is outstanding until its data returns. It waits for a lane repair in the check queue (22 R368). -/
def loadOp (ulen n : Nat) (signed : Bool) (d a : BitVec 5) (imm : BitVec 64) (s : State) : Out :=
  seqWord s [a] (fun c co =>
    let ea := co.ea a imm
    match seqAddress s c (co.pois a) ea n with
    | some s' => s'
    | none =>
      match (s.ctx (s.ctxOf c)).place false ea with
      | none => s.fatal c ea
      | some p =>
        if co.checkClear && !s.ms.pausedIn p n || (co.checkQ.isEmpty && s.coveredBy (.seq c) p n) then
          let (v, bad, s1) := s.loadAt c p n signed
          s1.modCore c (fun co => (co.await d (some (v, bad)) true).advance ulen)
        else s.setCore c ((co.enter (.load p n signed) (some d) false ulen false).advance ulen))

/-- Stores that have issued and are not performed: those pending and those that stand in the check queue (R82). -/
def Core.storeCount (co : Core) : Nat :=
  co.stores.length + (co.checkQ.filter (fun e => match e.op with | .store _ _ _ _ => true | _ => false)).length

/-- A store is pending, and takes its place in the global order (R82). -/
def State.storeAt (s : State) (c : Nat) (p : Place) (bs : List Byte) : State :=
  s.addStore (.seq c) ⟨[lineOf p.key], isRemote p.key, false, 0, 0, 0, [(p, bs)], false, false⟩

/-- The flip region that a store of the core's task at an address marks (15 R288), 0 for none. -/
def State.flipMarked (s : State) (c ea : Nat) : Nat := if (s.core c).inTask then (s.ctx (s.ctxOf c)).flipOf ea else 0

/-- The region is marked by the core's task; none where another task holds the mark (15 R288). -/
def State.markFlip (s : State) (c id : Nat) : Option State :=
  match (s.core c).task with
  | some sh => if id = 0 then some s else ((s.ctx (s.ctxOf c)).markFlip id sh.task).map (fun x => s.setCtx (s.ctxOf c) x)
  | none => some s

/-- ST (R81, R82): one ordinary store of n bytes, to the shadow frame inside a task, whose flip region it marks in its place in the order (15
R288); at most 8 are pending. -/
def storeOp (ulen n : Nat) (d a : BitVec 5) (imm : BitVec 64) (s : State) : Out :=
  seqWord s [d, a] (fun c co =>
    if Config.storeDepth ≤ co.storeCount then s.stallSeq c .storesFull
    else
      let ea := co.ea a imm
      match seqAddress s c (co.pois a) ea n with
      | some s' => s'
      | none =>
        if co.pois d then s.poisonTrap c
        else
          match (s.ctx (s.ctxOf c)).place co.inTask ea, s.markFlip c (s.flipMarked c ea) with
          | none, _ => s.fatal c ea
          | some _, none => s.progError c ea
          | some p, some marked =>
            let bs := leBytes (co.reg d).toNat n
            if co.checkQ.isEmpty then (marked.storeAt c p bs).modCore c (fun co => co.advance ulen)
            else s.setCore c ((co.enter (.store p bs (s.flipMarked c ea) ea) none false ulen false).advance ulen))

def ldOp {k : Nat} (ulen n : Nat) (d a : BitVec 5) (imm : BitVec k) (s : State) : Out := loadOp ulen n false d a (immS imm) s
def ldsOp {k : Nat} (ulen n : Nat) (d a : BitVec 5) (imm : BitVec k) (s : State) : Out := loadOp ulen n true d a (immS imm) s
def stOp {k : Nat} (ulen n : Nat) (d a : BitVec 5) (imm : BitVec k) (s : State) : Out := storeOp ulen n d a (immS imm) s

def execLdB (d a : BitVec 5) (imm : BitVec 16) (s : State) : Out := ldOp 4 1 d a imm s
def execLdH (d a : BitVec 5) (imm : BitVec 16) (s : State) : Out := ldOp 4 2 d a imm s
def execLdW (d a : BitVec 5) (imm : BitVec 16) (s : State) : Out := ldOp 4 4 d a imm s
def execLdD (d a : BitVec 5) (imm : BitVec 16) (s : State) : Out := ldOp 4 8 d a imm s
def execLdsB (d a : BitVec 5) (imm : BitVec 16) (s : State) : Out := ldsOp 4 1 d a imm s
def execLdsH (d a : BitVec 5) (imm : BitVec 16) (s : State) : Out := ldsOp 4 2 d a imm s
def execLdsW (d a : BitVec 5) (imm : BitVec 16) (s : State) : Out := ldsOp 4 4 d a imm s
def execLdsD (d a : BitVec 5) (imm : BitVec 16) (s : State) : Out := ldsOp 4 8 d a imm s
def execStB (d a : BitVec 5) (imm : BitVec 16) (s : State) : Out := stOp 4 1 d a imm s
def execStH (d a : BitVec 5) (imm : BitVec 16) (s : State) : Out := stOp 4 2 d a imm s
def execStW (d a : BitVec 5) (imm : BitVec 16) (s : State) : Out := stOp 4 4 d a imm s
def execStD (d a : BitVec 5) (imm : BitVec 16) (s : State) : Out := stOp 4 8 d a imm s

/-- Set doubleword n of staging buffer k with its poison bit (R95). -/
def Core.setCb (c : Core) (k n : Nat) (v : BitVec 64) (p : Bool) : Core :=
  { c with cb := Tbl.set 0 c.cb (16 * k + n) v, cbPois := NatSet.mark c.cbPois (16 * k + n) p }

/-- The 16 doublewords of a buffer. -/
def Core.buffer (c : Core) (k : Nat) : List (BitVec 64) := (upFrom (16 * k) 16).map (fun i => Tbl.get 0 c.cb i)
/-- Does a buffer hold a poisoned doubleword (R78)? -/
def Core.bufferPois (c : Core) (k : Nat) : Bool := (upFrom (16 * k) 16).any (fun i => NatSet.has c.cbPois i)

/-- Fill a buffer from 128 bytes: doubleword n from bytes 8n up. -/
def Core.fillCb (c : Core) (k : Nat) (pois : Nat → Bool) (bs : List Byte) : Nat → Core
  | 0 => c
  | n + 1 => (c.fillCb k pois bs n).setCb k n (BitVec.ofNat 64 (leNat ((bs.drop (8 * n)).take 8))) (pois n)

/-- A buffer takes the 128 bytes of its place (R95): each doubleword has the poison of its line. -/
def State.cloadAt (s : State) (c k : Nat) (p : Place) : State :=
  let (bs, s1) := s.readPlace (.seq c) p 128
  (s1.observeLine c p).modCore c (fun co => co.fillCb k (fun n => s1.ms.poisoned (p.plus (8 * n))) bs 16)

/-- Does a CLOAD of a staging buffer that has not read yet stand in the check queue? -/
def Core.cloading (co : Core) (k : Nat) : Bool := co.checkQ.any (fun e => match e.op with | .cload j _ => j == k | _ => false)

/-- A word that reads or writes staging buffers (R95, R96): it waits for a CLOAD of one of them under way. -/
def bufferWord (regs : List (BitVec 5)) (bufs : List Nat) (k : Nat → Core → State) (s : State) : Out :=
  seqWord s regs (fun c co => if bufs.any co.cloading then s.stallSeq c .checkBusy else k c co)

/-- CLOAD (R95). -/
def execCload (k : BitVec 4) (a : BitVec 5) (imm : BitVec 8) (s : State) : Out :=
  bufferWord [a] [] (fun c co =>
    let ea := (co.reg a + 128 * imm.zeroExtend 64).toNat
    match seqAddress s c (co.pois a) ea 128 with
    | some s' => s'
    | none =>
      match (s.ctx (s.ctxOf c)).place false ea with
      | none => s.fatal c ea
      | some p =>
        if co.checkClear && !s.ms.pausedIn p 128 then (s.cloadAt c k.toNat p).modCore c (fun co => co.advance 4)
        else s.setCore c ((co.enter (.cload k.toNat p) none false 4 false).advance 4)) s

/-- CSET (R95): the register's poison bit goes with it (R78). -/
def execCset (k n : BitVec 4) (a : BitVec 5) (s : State) : Out :=
  bufferWord [a] [k.toNat] (fun c co => s.setCore c ((co.setCb k.toNat n.toNat (co.reg a) (co.pois a)).advance 4)) s

/-- CSETI (R95). -/
def execCseti (k n : BitVec 4) (imm : BitVec 18) (s : State) : Out :=
  bufferWord [] [k.toNat] (fun c co => s.setCore c ((co.setCb k.toNat n.toNat (immS imm) false).advance 4)) s

/-- The part of a byte range that an entry covers: its virtual start and length. -/
def LttEntry.overlap (e : LttEntry) (va n : Nat) : Nat × Nat :=
  let lo := max va e.vbase
  (lo, min (va + n) (e.vbase + 2 ^ e.size) - lo)

/-- The physical intervals (key, length) of a byte range, in the frames asked for; none when part of it is not translated. -/
def Ctx.rangeKeys (x : Ctx) (frames : LttEntry → List Bool) (va n : Nat) : Option (List (Nat × Nat)) :=
  let es := (x.ltt.filterMap (·.2)).filter (fun e => !e.ft && decide ((e.overlap va n).2 ≠ 0))
  if (es.map (fun e => (e.overlap va n).2)).sum = n then
    some ((es.map (fun e => (frames e).map (fun one =>
      ((x.placeIn e (e.overlap va n).1 one).key, (e.overlap va n).2)))).flatten)
  else none

/-- Does a key lie in one of the intervals? -/
def inRanges (ks : List (Nat × Nat)) (k : Nat) : Bool := ks.any (fun r => decide (r.1 ≤ k) && decide (k < r.1 + r.2))

/-- Write back every dirty sector in the intervals (R106). -/
def MemSys.cleanRanges (m : MemSys) (ks : List (Nat × Nat)) : MemSys :=
  (m.l2.filter (fun e => inRanges ks (32 * e.1))).foldl (fun m e => m.clean e.1) m

/-- Discard every sector and every leased copy in the intervals (R106). -/
def MemSys.dropRanges (m : MemSys) (ks : List (Nat × Nat)) : MemSys :=
  { m with l2 := m.l2.filter (fun e => !inRanges ks (32 * e.1)), leases := m.leases.filter (fun l => !inRanges ks l.line) }

/-- What CLEAN leaves of the marks in the intervals: their stores are in the row for every command pushed from here on (R106). -/
def MemSys.markRows (m : MemSys) (ks : List (Nat × Nat)) : MemSys :=
  { m with hist := m.hist.map (fun h => if inRanges ks h.place.key then { h with row := some (h.row.getD m.epoch) } else h) }

/-- Would a sector of the intervals be written back to a channel that pauses (22 R368)? -/
def MemSys.heldDirtyIn (m : MemSys) (ks : List (Nat × Nat)) : Bool := m.l2.any (fun e => inRanges ks (32 * e.1) && m.heldDirty e.1)

/-- Is a line of the intervals pinned (12 R250)? -/
def MemSys.pinnedIn (m : MemSys) (ks : List (Nat × Nat)) : Bool := m.pins.any (fun p => inRanges ks (64 * p.line))

/-- Insert a store by its place in the global order. -/
def insertPending (p : PendingStore) : List PendingStore → List PendingStore
  | [] => [p]
  | q :: r => if p.seq < q.seq then p :: q :: r else q :: insertPending p r

/-- Every store of the machine that is pending, in the global order. -/
def State.pendingStores (s : State) : List PendingStore :=
  ((s.cores.map (fun e => e.2.stores ++ (e.2.vec.stores.map (·.2)).flatten)).flatten).foldl (fun l p => insertPending p l) []

/-- INVAL's discard (R106): the sectors and the leased copies of the intervals go; a store that is still pending there stands when it is
performed (R82). -/
def State.invalidate (s : State) (ks : List (Nat × Nat)) : State :=
  let ms := s.ms.dropRanges ks
  let again := (pendingBytes (s.pendingStores.filter (·.placed))).filter (fun w => inRanges ks w.1.key && !isRemote w.1.key)
  { s with ms := again.foldl (fun m w => m.pokeBytes w.1 w.2) ms }

/-- CLEAN (R106): every dirty line that the range touches is written back, both frames of a flip region; remote lines hold
nothing dirty here. The issuer's pending stores are performed first, and a lane repair is waited for (22 R368). Where several checks fail, the poison comes before the length and the
length before the range (DESIGN CHOICE, log entry 75). -/
def execClean (a b : BitVec 5) (s : State) : Out :=
  seqWord s [a, b] (fun c co =>
    if co.storeCount ≠ 0 then s.stallSeq c .storesBusy
    else if co.anyPois [a, b] then s.poisonTrap c
    else
      let base := (co.reg a).toNat
      let len := (co.reg b).toNat
      if len > 2 ^ 40 then s.progError c len
      else
        -- whole lines: the range of 64-byte lines that the bytes touch
        let lo := base / 64 * 64
        let n := if len = 0 then 0 else (base + len - 1) / 64 * 64 + 64 - lo
        match (s.ctx (s.ctxOf c)).rangeKeys (fun e => if e.flip = 0 then [false] else [false, true]) lo n with
        | none => s.fatal c base
        | some ks =>
          if s.ms.heldDirtyIn ks then s.stallSeq c .repair
          else { s with ms := (s.ms.cleanRanges ks).markRows ks }.modCore c (fun co => co.advance 4))

/-- INVAL (R106): every line of the range goes without being written back, in the frame that the issuer's stores write, in the word's place
behind the checked operations before it; leased copies are dropped; a pinned line is waited for (12 R250). Where several checks fail, the alignment comes before the length and the length
before the range; TVAL of the alignment trap is the base, or the length where the base is aligned (DESIGN CHOICE, log entry 75). -/
def execInval (a b : BitVec 5) (s : State) : Out :=
  seqWord s [a, b] (fun c co =>
    if co.anyPois [a, b] then s.poisonTrap c
    else
      let base := (co.reg a).toNat
      let len := (co.reg b).toNat
      if base % 64 ≠ 0 ∨ len % 64 ≠ 0 then s.misaligned c (if base % 64 ≠ 0 then base else len)
      else if len > 2 ^ 40 then s.progError c len
      else
        let x := s.ctx (s.ctxOf c)
        match x.rangeKeys (fun e => [x.frame e co.inTask]) base len with
        | none => s.fatal c base
        | some ks =>
          if s.ms.pinnedIn ks then s.stallSeq c .pinned
          else if co.checkClear then (s.invalidate ks).modCore c (fun co => co.advance 4)
          else s.setCore c ((co.enter (.inval ks) none false 4 false).advance 4))

/-- The translation that PTEST writes (R105). -/
def ptestWord (e : Option LttEntry) : BitVec 64 :=
  match e with
  | none => 0
  | some e => BitVec.ofNat 64 (e.size * 2 ^ 24 + e.flip * 2 ^ 16 + e.pois.toNat * 2 ^ 10 + e.ft.toNat * 2 ^ 9 + e.cache.toNat * 2 ^ 8 +
      e.rowop.toNat * 2 ^ 7 + e.comp * 2 ^ 4 + e.place * 2 + 1)

/-- The entry that PTEST shows: a retired page has POIS set (20 R340). -/
def State.shownEntry (s : State) (x : Ctx) (va : Nat) : Option LttEntry :=
  (x.lookup va).map (fun e => { e with pois := e.pois || (match x.place false va with | some p => s.ms.rangePois p | none => false) })

/-- PTEST (R105): no address faults. A poisoned address is consumed (R78). -/
def execPtest (d a : BitVec 5) (s : State) : Out :=
  seqWord s [a] (fun c co =>
    if co.pois a then s.poisonTrap c
    else
      let w := ptestWord (s.shownEntry (s.ctx (s.ctxOf c)) (co.reg a).toNat)
      s.setCore c ((co.write d w false).advance 4))

/-- PROBE (R105): no effect on a translated address. Otherwise the sequencer alone stops, and the owner receives a probe record
(20 R342); a poisoned address is consumed (R78). -/
def execProbe (a : BitVec 5) (s : State) : Out :=
  seqWord s [a] (fun c co =>
    if co.pois a then s.poisonTrap c
    else
      let va := (co.reg a).toNat
      let n := s.ctxOf c
      if (s.ctx n).translated va then s.setCore c (co.advance 4)
      else s.precisely c (fun _ =>
        let s1 := s.setCore c { co with wait := some ⟨.probe va, 4, false⟩ }
        let s2 := s1.modCtx n (fun x => { x with probes := x.probes ++ [c] })
        s2.record n ⟨7, 5, co.reg a, coreField c co.pc, 0⟩))

/-- The result that a load, or another word, brings to register d arrives: the register takes it (R76, R78). -/
def Core.arrive (co : Core) (d : BitVec 5) (load : Bool) : Core :=
  match co.outst.find? (fun o => o.reg == d && o.load == load) with
  | some o => (match o.val with
    | some (v, p) => co.write d v p
    | none => co)
  | none => co

/-- The oldest pending store of a source that meets p is performed or acknowledged: it leaves the source's list. One for another W4 has its
place from here on, and those that waited for it follow. -/
def State.dropStore (s : State) (src : StoreSrc) (p : PendingStore → Bool) : State :=
  match takeFirst p (s.storesOf src) with
  | some (st, rest) =>
    let s := s.setStores src rest
    if st.placed then { s with ms := s.ms.performed st }
    else
      let seq := s.seqNo + 1
      let s := s.placeStore src st
      ({ s with ms := s.ms.performed { st with seq := seq } } : State).advanceStores src rest.length
  | none => s

/-- STORE_PERFORMED (R82): the oldest store of the source that stands in the global order is performed. -/
def execStorePerformed (src : StoreSrc) (s : State) : Out :=
  eventStep s (fun s => s.dropStore src (fun p => p.placed))

end Sys2Proof.Machine
end

