-- ==== Sys2Proof/Machine/Sync.lean ====
section
/-!
DEFINITION. Sys2Proof/Machine/Sync.lean: single atomic steps on synchronisation state: semaphores (04 R84-R87, 12 R245), tokens (12
R244), rings (04 R88-R90, 12 R240-R243), membership sets (04 R91, R92), and how a waiting word is released or ended (R404).
-/
namespace Sys2Proof.Machine

/-! ### Semaphores -/

def Core.sem (c : Core) (m : Nat) : Sem := Tbl.get {} c.sems m
def Core.setSem (c : Core) (m : Nat) (v : Sem) : Core := { c with sems := Tbl.set {} c.sems m v }

/-- The strand of a core that a uid names. -/
def Core.strand (c : Core) (uid : Nat) : Option Strand := c.vec.strands.find? (fun t => t.uid == uid)
/-- Change a strand. -/
def Core.modStrand (c : Core) (uid : Nat) (f : Strand → Strand) : Core :=
  { c with vec := { c.vec with strands := mapFirst (fun t => t.uid == uid) f c.vec.strands } }
/-- Change the command that a name stands for. -/
def Queue.modCmd (q : Queue) (uid : Nat) (f : Cmd → Cmd) : Queue := { q with cmds := mapFirst (fun k => k.uid == uid) f q.cmds }
def State.modCmd (s : State) (q : QId) (uid : Nat) (f : Cmd → Cmd) : State := s.setQueue q ((s.queue q).modCmd uid f)
/-- Change the member of a rank. -/
def Strand.modMember (t : Strand) (rank : Nat) (f : Member → Member) : Strand :=
  { t with members := t.members.mapIdx (fun i m => if i = rank then f m else m) }

/-- Every token queue that a mask names holds a token for engine e (08 R188): source y, destination e. -/
def Core.tokensStand (c : Core) (mask e : Nat) : Bool :=
  (List.range 5).all (fun y => !bitAt mask y || !(Tbl.get [] c.tokens (5 * y + e)).isEmpty)

/-- Pop one token from each queue that a mask names, and gather what the pops acquire (08 R190). -/
def Core.popTokens (c : Core) (mask e : Nat) : Core × List Nat × Nat :=
  (List.range 5).foldl (fun acc y =>
    if bitAt mask y then
      match Tbl.get [] acc.1.tokens (5 * y + e) with
      | t :: rest => ({ acc.1 with tokens := Tbl.set [] acc.1.tokens (5 * y + e) rest }, acc.2.1 ++ t.rel, max acc.2.2 t.see)
      | [] => acc
    else acc) (c, [], 0)

/-- Room in every token queue from engine e that a mask names: a queue holds 0-15 tokens (12 R244). -/
def Core.tokenRoom (c : Core) (mask e : Nat) : Bool :=
  (List.range 5).all (fun y => !bitAt mask y || decide ((Tbl.get [] c.tokens (5 * e + y)).length < 15))

/-- Push one token into each queue from engine e that a mask names. -/
def Core.pushTokens (c : Core) (mask e : Nat) (t : Token) : Core :=
  (List.range 5).foldl (fun c y =>
    if bitAt mask y then { c with tokens := Tbl.modify [] c.tokens (5 * e + y) (fun l => l ++ [t]) } else c) c

/-- The engine code of a per-core queue (02 R44): its number among the token endpoints (08 R182). -/
def selEngine (sel : Nat) : Nat := if sel ≤ 1 then sel else if sel ≤ 3 then 2 else 3

/-! ### The fields of a command image (08 R180-R185) -/

def Cmd.dw (k : Cmd) (j : Nat) : Nat := ((k.img.getD j 0)).toNat
/-- Bits hi:lo of doubleword j. -/
def Cmd.bits (k : Cmd) (j hi lo : Nat) : Nat := slice (k.dw j) hi lo
def Cmd.eng (k : Cmd) : Nat := k.bits 0 63 60
def Cmd.inst (k : Cmd) : Nat := k.bits 0 59 57
def Cmd.coh (k : Cmd) : Bool := k.bits 0 56 56 == 1
def Cmd.chainBit (k : Cmd) : Bool := k.bits 0 55 55 == 1
def Cmd.statusBit (k : Cmd) : Bool := k.bits 0 54 54 == 1
def Cmd.pipe (k : Cmd) : Nat := k.bits 0 53 52
def Cmd.versioned (k : Cmd) : Bool := k.bits 0 51 51 == 1
def Cmd.len (k : Cmd) : Nat := k.bits 0 50 44
def Cmd.bodyField (k : Cmd) : Nat := k.bits 0 43 0
def Cmd.bodyAddr (k : Cmd) : Nat := k.bodyField * 16
def Cmd.wait (k : Cmd) : Nat := k.bits 1 63 59
def Cmd.sig (k : Cmd) : Nat := k.bits 1 58 54
def Cmd.sqpop (k : Cmd) : Nat := k.bits 1 53 50
def Cmd.sqpush (k : Cmd) : Nat := k.bits 1 49 46
def Cmd.wsem (k : Cmd) : Nat := k.bits 1 45 37
def Cmd.wval (k : Cmd) : Nat := k.bits 1 36 21
def Cmd.ssem (k : Cmd) : Nat := k.bits 1 20 12
def Cmd.sadd (k : Cmd) : Nat := k.bits 1 11 0
def Cmd.tag (k : Cmd) : Nat := k.bits 2 63 48
def Cmd.prog (k : Cmd) : Nat := k.bits 2 47 36
def Cmd.stoff (k : Cmd) : Int := (BitVec.ofNat 32 (k.bits 2 31 0)).toInt
def Cmd.cl (k : Cmd) : Nat := k.bits 2 35 32
def Cmd.wb (k : Cmd) : Nat := k.bits 2 31 25 * 8
def Cmd.ws (k : Cmd) : Nat := (k.bits 2 24 18 + 1) * 8
def Cmd.sete (k : Cmd) : Bool := k.bits 2 17 17 == 1
def Cmd.setg (k : Cmd) : Nat := k.bits 2 16 11
def Cmd.vstoff (k : Cmd) : Int := (BitVec.ofNat 11 (k.bits 2 10 0)).toInt
def Cmd.baseAddr (k : Cmd) (st : Nat) : Nat := k.bits (3 + st) 55 0

/-- The loop nest as one number: bytes 48-127 (R185). -/
def Cmd.nest (k : Cmd) : Nat := leNat (((k.img.drop 6).map (fun d => leBytes d.toNat 8)).flatten)
/-- The 104-bit field of dimension d. -/
def Cmd.dim (k : Cmd) (d : Nat) : Nat := k.nest / 2 ^ (104 * d) % 2 ^ 104
def Cmd.count (k : Cmd) (d : Nat) : Nat := k.dim d % 2 ^ 16 + 1
def Cmd.stride (k : Cmd) (d st : Nat) : Int := (BitVec.ofNat 28 (k.dim d / 2 ^ (16 + 28 * st))).toInt
/-- Iterations N (R185). -/
def Cmd.iterations (k : Cmd) : Nat := (List.range 6).foldl (fun n d => n * k.count d) 1
/-- addr(s, i) (R185), exact; i5 may pass n5 − 1. -/
def Cmd.addr (k : Cmd) (st i : Nat) : Int :=
  ((List.range 6).foldl (fun (acc : Int × Nat) d =>
    let id := if d < 5 then acc.2 % k.count d else acc.2
    (acc.1 + (id : Int) * k.stride d st, if d < 5 then acc.2 / k.count d else acc.2)) ((k.baseAddr st : Int), i)).1

/-- Stage 2 of a command at the head of a per-core queue (08 R188): WVAL is met and every token of WAIT stands. Shared engines wait
on WVAL alone (R189). -/
def State.waitsMet (s : State) (q : QId) (k : Cmd) : Bool :=
  let co := s.core k.pusher
  (k.wval == 0 || decide (k.wval ≤ (co.sem k.wsem).val.toNat)) &&
    (match q with | .core _ sel => co.tokensStand k.wait (selEngine sel) | _ => true)

/-- The test and the pops of stage 2 in one step (08 R188), with what they acquire (R190). -/
def State.takeWaits (s : State) (q : QId) (k : Cmd) : State × Cmd :=
  let co := s.core k.pusher
  let (co1, rel, see) := match q with
    | .core _ sel => co.popTokens k.wait (selEngine sel)
    | _ => (co, [], 0)
  let sm := co.sem k.wsem
  let (rel, see) := if k.wval = 0 then (rel, see) else (rel ++ sm.rel, max see sm.see)
  -- the test of WVAL is an ordinary access (13 R251)
  let at_ := StampAt.sem k.pusher k.wsem
  let (st, pts) := if k.wval = 0 then (s.stamps.get at_, k.pts) else (s.stamps.get at_).load k.pts
  ({ s with stamps := s.stamps.put at_ st }.setCore k.pusher co1, { k with met := true, acq := k.acq ++ rel, see := max k.see see, relSee := max k.relSee see, pts := pts })

/-- A queue whose commands in stage 2 wait on, whatever they wait for: stopped, saved with its context, or of a core under a debug halt
(24 R377, R381, R384). -/
def State.heldBack (s : State) (q : QId) : Bool :=
  (s.queue q).stop || (s.queue q).pre || (match q with | .core c _ => (s.core c).debug | _ => false)

/-- Re-test a queue's command that stands in stage 2 after a change it may wait for: a waiter whose condition holds is released in
that step, whatever follows (04 R85, 12 R245). -/
def State.retest (s : State) (q : QId) : State :=
  match (s.queue q).cmds.find? (fun k => k.stage == 2) with
  | some k =>
    if k.met || s.heldBack q then s
    else if s.waitsMet q k then
      let (s1, k1) := s.takeWaits q k
      s1.setQueue q { s1.queue q with cmds := mapFirst (fun j => j.uid == k.uid) (fun _ => k1) (s1.queue q).cmds }
    else s
  | none => s

/-- Every queue that may wait on a semaphore or a token of core c: its own six and the shared ones of its context. -/
def State.queuesOf (s : State) (c : Nat) : List QId :=
  let x := s.ctxOf c
  (List.range 6).map (QId.core c) ++ (List.range 2).map (QId.stash x) ++ (List.range 2).map (QId.crsl x) ++
    (List.range 8).map (QId.dou x)

def State.retestAll (s : State) (c : Nat) : State := (s.queuesOf c).foldl (fun s q => s.retest q) s

/-- A carousel step's consume takes 1 from SSEM and acquires as a met WVAL does (21 R352). A step that has gone takes nothing. -/
def State.consumeSem (s : State) (c m x sid : Nat) : State :=
  let sm := (s.core c).sem m
  if (s.ctx x).crsl.any (fun t => t.sid == sid) then
    (s.modCore c (fun co => co.setSem m { co.sem m with val := sm.val - 1 })).modCtx x (fun xx => { xx with
      crsl := mapFirst (fun t => t.sid == sid)
        (fun t => { t with todo := t.todo.drop 1, acq := t.acq ++ sm.rel, see := max t.see sm.see }) xx.crsl })
  else s

/-- Registers that commands are landing on a core take their values (06 R132). -/
def Core.landNow (co : Core) (sel : LaneLanding → Bool) : Core :=
  { co with vec := { co.vec with
      regs := (co.vec.landing.filter sel).foldl (fun t l => Tbl.set 0 t l.key l.bits) co.vec.regs
      rpois := (co.vec.landing.filter sel).foldl (fun t l => NatSet.mark t l.key l.pois) co.vec.rpois
      landing := co.vec.landing.filter (fun l => !sel l) } }

/-- Loads of strands bring their data (10 R217): the registers take them. -/
def Core.landLoads (co : Core) (sel : VecLoad → Bool) : Core :=
  let vals := ((co.vec.pend.filter sel).map (·.vals)).flatten
  { co with vec := { co.vec with
      regs := vals.foldl (fun t l => Tbl.set 0 t l.1 l.2.1) co.vec.regs
      rpois := vals.foldl (fun t l => NatSet.mark t l.1 l.2.2) co.vec.rpois
      pend := co.vec.pend.filter (fun l => !sel l) } }

/-- A member cluster observes the completion of commands (06 R132; 13 R257): it acquires their writes, and reads what they landed in its core's
registers. -/
def State.observes (s : State) (a : Agent) (uids : List Nat) : State :=
  let s := s.acquire a uids
  match a with
  | .cluster c _ _ => s.modCore c (fun co => co.landNow (fun l => uids.contains l.uid))
  | _ => s

/-- The release of one waiter of semaphore m of core c, whose value is met: none when a command in stage 2 lacks a token, or waits on in a
queue held back. A VWAIT also acquires the writes of every command whose SADD reached the semaphore before (13 R257). -/
def State.releaseWaiter (s : State) (c m : Nat) : SemWaiter → Option State
  | .seq k =>
    let rel := ((s.core c).sem m).rel
    some (((s.stampLoad (.seq k) (.sem c m)).releaseSeq k).modCore k (fun co => { co with observed := co.observed ++ rel }))
  | .cluster k t r =>
    let rel := ((s.core c).sem m).rel
    let s := s.modCore k (fun co => co.modStrand t (fun st => st.modMember r (fun m => match m.wait with
      | .sem k n _ j nx => { m with wait := .sem k n true j nx }
      | _ => m)))
    some ((s.stampLoad (.cluster k t r) (.sem c m)).observes (.cluster k t r) rel)
  | .queue q uid =>
    match (s.queue q).cmds.find? (fun k => k.stage == 2) with
    | some k =>
      if k.uid != uid || k.met then some s
      else if !s.heldBack q && s.waitsMet q k then some (s.retest q)
      else none
    | none => some s
  | .carousel x sid => some (s.consumeSem c m x sid)

/-- After a change of a semaphore its waiters whose conditions hold are released one after another in arrival order (R85, R245). -/
def State.wakeSem (s : State) (c m : Nat) : State :=
  let go := ((s.core c).sem m).waiters.foldl (fun (acc : State × List (SemWaiter × BitVec 32)) w =>
    match (if w.2 ≤ ((acc.1.core c).sem m).val then acc.1.releaseWaiter c m w.1 else none) with
    | some s' => (s', acc.2)
    | none => (acc.1, acc.2 ++ [w])) (s, [])
  go.1.modCore c (fun co => co.setSem m { co.sem m with waiters := go.2 })

/-- A semaphore takes a new value: waiters and commands are re-tested in the same step. -/
def State.putSem (s : State) (c m : Nat) (v : BitVec 32) (rel : List Nat) (see : Nat) : State :=
  let s := s.modCore c (fun co =>
    let sm := co.sem m
    co.setSem m { sm with val := v, rel := sm.rel ++ rel, see := max sm.see see })
  (s.wakeSem c m).retestAll c

/-- A semaphore operation at the file (R85): the old value and the state after. `see` is what the issuer had fenced (08 R190). -/
def State.semOp (s : State) (c m : Nat) (op : SemOp) (a d : BitVec 32) (see : Nat) : BitVec 32 × State :=
  let old := ((s.core c).sem m).val
  match op with
  | .add | .addc => (old, s.putSem c m (old + a) [] see)
  | .cas => (old, s.putSem c m (if old = d then a else old) [] see)
  | .set => (old, s.putSem c m a [] see)
  | .read | .wait => (old, s)

/-- DRAW at the lead core's file (R87). -/
def State.drawOp (s : State) (c m n minc crew see : Nat) : BitVec 64 × State :=
  let cur := ((s.core c).sem m).val.toNat
  let chunk := if n ≤ cur then 0 else min (n - cur) (max (if minc = 0 then 1 else minc) (ceilDiv (n - cur) (crew + 1)))
  (BitVec.ofNat 64 (chunk * 2 ^ 32 + cur), s.putSem c m (BitVec.ofNat 32 (cur + chunk)) [] see)

/-! ### Rings -/

/-- Who holds ring q of context n, and in which roles (bit 0 producer, bit 1 consumer): the context itself, or the owner that
grants it (12 R242). -/
def State.findRing (s : State) (n q : Nat) : Option (Nat × Nat × Nat) :=
  match Tbl.get none (s.ctx n).rings q with
  | some r => some (n, q, r.orole)
  | none =>
    if NatSet.has (s.ctx n).withdrawn q then none
    else
      (s.ctxs.findSome? (fun e => e.2.rings.findSome? (fun r => match r.2 with
        | some g => if g.gv ∧ g.gctx = n ∧ g.gq = q then some (e.1, r.1, g.grole) else none
        | none => none)))

/-- Where the stamps of a ring that core c names stand (13 R252; 12 R241). -/
def State.ringAt (s : State) (c q : Nat) : StampAt :=
  match s.findRing (s.ctxOf c) q with
  | some (on, oq, _) => .ring on oq
  | none => .ring (s.ctxOf c) q

/-- Address of slot n (R88). -/
def Ring.slotAddr (r : Ring) (n : BitVec 32) : Nat := r.base + n.toNat % r.slots * r.slotb
/-- Sequence numbers from a count up. -/
def seqFrom (lo : BitVec 32) : Nat → List (BitVec 32)
  | 0 => []
  | n + 1 => lo :: seqFrom (lo + 1) n

/-- The claimed slot at an address that is not filled (R88). -/
def Ring.claimedUnfilled (r : Ring) (addr : Nat) : Option (BitVec 32) :=
  (seqFrom r.f (r.c - r.f).toNat).find? (fun n =>
    r.slotAddr n == addr && !NatSet.has r.filled n.toNat && !NatSet.has r.heldM n.toNat)

/-- The taken slot at an address that is not done (R88). -/
def Ring.takenUndone (r : Ring) (addr : Nat) : Option (BitVec 32) :=
  (seqFrom r.r (r.t - r.r).toNat).find? (fun n =>
    r.slotAddr n == addr && !NatSet.has r.done n.toNat && !NatSet.has r.heldM n.toNat && !r.ret.contains n.toNat)

/-- RTAKE passes over void slots and frees them itself (R89). The fuel is the number of slots. -/
def Ring.skipVoid (r : Ring) : Nat → Ring
  | 0 => r
  | f + 1 =>
    if r.ret.isEmpty && r.f != r.t && NatSet.has r.void r.t.toNat then
      { r with done := NatSet.mark r.done r.t.toNat true, t := r.t + 1 }.skipVoid f
    else r

/-- A ring is the producer end of a tensor channel (16 R300). -/
def Ring.producerEnd (r : Ring) : Bool := r.chan && r.orole == 0

/-- RSTAT's result (R88); at the producer end of a channel the window alone, in FREE (16 R301). -/
def Ring.stat (r : Ring) : BitVec 64 :=
  if r.producerEnd then BitVec.ofNat 64 (if r.win.joined then r.win.w % 2 ^ 16 else 0)
  else BitVec.ofNat 64 (((r.t - r.r).toNat - r.ret.length) % 2 ^ 16 * 2 ^ 48 + (r.c - r.f).toNat % 2 ^ 16 * 2 ^ 32 +
    ((r.f - r.t).toNat + r.ret.length) % 2 ^ 16 * 2 ^ 16 + (r.slots - (r.c - r.r).toNat) % 2 ^ 16)

/-- The role a ring word needs (R240): bit 0 producer, bit 1 consumer. RSTAT is admitted in either. -/
def RingOp.role : RingOp → Nat
  | .claim | .fill | .waitE => 1
  | .waitF | .take | .free => 2
  | .stat => 3

/-- Does a ring admit a word of an agent that holds it in some roles (R90, R240)? The producer end of a channel admits RSTAT alone (16 R301). -/
def Ring.admits (r : Ring) (roles : Nat) (op : RingOp) : Bool := if r.producerEnd then op == .stat else roles &&& op.role != 0

/-- Change the task share of a core. -/
def Core.modShare (c : Core) (f : Share → Share) : Core := { c with share := c.share.map f }

/-- The held effects of a share, in execution order. -/
def Share.fx (sh : Share) : List HeldFx := sh.held.map (·.2)

/-- Hold an effect until the task retires (R86, R89), with its place in the task's execution order. -/
def State.hold (s : State) (c : Nat) (fx : HeldFx) : State :=
  ({ s with uid := s.uid + 1 } : State).modCore c (fun co => co.modShare (fun sh => { sh with held := sh.held ++ [(s.uid + 1, fx)] }))

/-- The result of an operation at a file, a ring or a set: a value for s[d], a program error at the word, or no result. -/
inductive OpResult where
  | value (v : BitVec 64)
  | error (v : Nat)
  | unit
  | blocked
  deriving DecidableEq, Repr

/-- A ring operation of core c, one atomic step at the ring (R88-R90). -/
def State.ringOp (s : State) (c q : Nat) (op : RingOp) (addr : Nat) : OpResult × State :=
  let n := s.ctxOf c
  match s.findRing n q with
  | none => (.error q, s)
  | some (on, oq, _) =>
    match s.ring on oq with
    | none => (.error q, s)
    | some r =>
      let held := s.commits c
      match op with
      | .claim =>
        if r.hasSpace then
          let s := s.putRing on oq { r with c := r.c + 1, claimed := Tbl.put r.c.toNat n r.claimed }
          let s := s.modCore c (fun co => if co.inTask then co.modShare (fun sh => { sh with slots := sh.slots ++ [(q, r.c.toNat)] }) else co)
          (.value (BitVec.ofNat 64 (r.slotAddr r.c)), s)
        else (.value 0, s)
      | .fill =>
        match r.claimedUnfilled addr with
        | none => (.error addr, s)
        | some k =>
          if held then
            (.unit, (s.setRing on oq { r with heldM := NatSet.mark r.heldM k.toNat true }).hold c (.fill q k.toNat))
          else (.unit, s.putRing on oq { r with filled := NatSet.mark r.filled k.toNat true })
      | .take =>
        let r := r.skipVoid r.slots
        if r.hasFilled then
          -- slots that an aborted task gave back are the oldest filled ones (R89)
          let (k, r) := match r.ret with
            | k :: rest => (k, { r with ret := rest })
            | [] => (r.t.toNat, { r with t := r.t + 1 })
          let rel := Tbl.get [] r.rel k
          let s := s.putRing on oq { r with taken := r.taken ++ [(k, n)] }
          let s := s.modCore c (fun co =>
            let co := { co with observed := co.observed ++ rel }
            if co.inTask then co.modShare (fun sh => { sh with takes := sh.takes ++ [(q, k)] }) else co)
          (.value (BitVec.ofNat 64 (r.slotAddr (BitVec.ofNat 32 k))), s)
        else (.value 0, s.putRing on oq r)
      | .free =>
        match r.takenUndone addr with
        | none => (.error addr, s)
        | some k =>
          if held then
            (.unit, (s.setRing on oq { r with heldM := NatSet.mark r.heldM k.toNat true }).hold c (.free q k.toNat))
          else (.unit, s.putRing on oq { r with done := NatSet.mark r.done k.toNat true })
      | .stat => (.value r.stat, s)
      | .waitE =>
        if r.hasSpace then (.unit, s) else (.blocked, s.setRing on oq { r with waitE := r.waitE ++ [c] })
      | .waitF =>
        if r.hasFilled then (.unit, s) else (.blocked, s.setRing on oq { r with waitF := r.waitF ++ [c] })

/-! ### Membership sets -/

def State.mset (s : State) (n g : Nat) : MemberSet := Tbl.get {} (s.ctx n).sets g
def State.setMset (s : State) (n g : Nat) (v : MemberSet) : State :=
  s.modCtx n (fun x => { x with sets := Tbl.set {} x.sets g v })

/-- A phase completes when the set has a member and every member has arrived (R91); waiters on another phase are released. -/
def State.putSet (s : State) (n g : Nat) (v : MemberSet) : State :=
  let v := if !v.members.isEmpty && v.members.all (·.2) then
      { v with phase := v.phase + 1, members := v.members.map (fun m => (m.1, false)) } else v
  let go := v.waiters.filter (fun w => w.2 != v.phase)
  let s := s.setMset n g { v with waiters := v.waiters.filter (fun w => w.2 == v.phase) }
  go.foldl (fun s w => (s.stampLoad (.seq w.1) (.set n g)).releaseSeq w.1) s

/-- Enter a set: no effect for a member (R91). -/
def State.joinSet (s : State) (n g : Nat) (m : SetMember) : State :=
  let v := s.mset n g
  if v.members.any (fun e => e.1 == m) then s else s.putSet n g { v with members := v.members ++ [(m, false)] }

/-- Leave a set (R91, R92). -/
def State.leaveSet (s : State) (n g : Nat) (m : SetMember) : State :=
  let v := s.mset n g
  if v.members.any (fun e => e.1 == m) then s.putSet n g { v with members := v.members.filter (fun e => e.1 != m) } else s

/-- Arrive: none when the member is not in the set or has arrived already (R91). -/
def State.arriveSet (s : State) (n g : Nat) (m : SetMember) : Option State :=
  let v := s.mset n g
  match v.members.find? (fun e => e.1 == m) with
  | some (_, false) => some (s.putSet n g { v with members := v.members.map (fun e => if e.1 = m then (e.1, true) else e) })
  | _ => none

/-- A sequencer or strand that ends leaves every set (R92). -/
def State.leaveAll (s : State) (n : Nat) (m : SetMember) : State :=
  (List.range 64).foldl (fun s g => s.leaveSet n g m) s

/-- A set operation of core c's sequencer (R91). -/
def State.setOp (s : State) (c g : Nat) (op : SetOp) (val : Nat) : OpResult × State :=
  let n := s.ctxOf c
  let v := s.mset n g
  match op with
  | .join => (.unit, s.joinSet n g (.seq c))
  | .leave => (.unit, s.leaveSet n g (.seq c))
  | .arrive =>
    match s.arriveSet n g (.seq c) with
    | some s' => (.value (v.phase.zeroExtend 64), s')
    | none => (.error g, s)
  | .test => (.value ((v.phase - BitVec.ofNat 16 val).zeroExtend 64), s)
  | .wait =>
    if v.phase ≠ BitVec.ofNat 16 val then (.unit, s)
    else (.blocked, s.setMset n g { v with waiters := v.waiters ++ [(c, BitVec.ofNat 16 val)] })

end Sys2Proof.Machine
end

