-- ==== Sys2Proof/Machine/SeqSync.lean ====
section
/-!
DEFINITION. Sys2Proof/Machine/SeqSync.lean: the checked words: semaphores (04 R84-R86), DRAW (R87), rings (R88-R90), sets (R91); how
they enter the check queue and what each does when it takes effect (R77); timelines and fences (R93, R94).
-/
namespace Sys2Proof.Machine

/-- What a checked word does at issue: it traps, or it enters the check queue with its captured operands, its result possibly
travelling, the sequencer holding at the word when it waits. -/
inductive Issue where
  | trap (s : State)
  | enter (op : CheckedOp) (remote : Bool) (hold : Option SeqWait)
  | stall (r : Stall)

/-- A checked word (R77): it enters the queue of 8 entries at issue, and stalls at a full one. -/
def checkedWord (ulen : Nat) (regs : List (BitVec 5)) (dst : Option (BitVec 5)) (prep : Nat → Core → Issue) (s : State) : Out :=
  seqWord s regs (fun c co =>
    match prep c co with
    | .trap s' => s'
    | .stall r => s.stallSeq c r
    | .enter op remote hold =>
      if Config.checkDepth ≤ co.checked.length then s.stallSeq c .checkFull
      else
        let co1 := co.enter op dst remote ulen hold.isSome
        s.setCore c (match hold with
          | some w => { co1 with wait := some ⟨w, ulen, false⟩ }
          | none => co1.advance ulen))

/-- The file that a semaphore word names: the issuing core's own, or that of PFX.C's core, which must be one of the context (R84). -/
def semFile (s : State) (c : Nat) (coord : Option (BitVec 8)) : Option Nat :=
  match coord with
  | none => some c
  | some k => if s.coreIn (s.ctxOf c) (coreOfCoord k.toNat) then some (coreOfCoord k.toNat) else none

/-- A semaphore word with operands s[a] and s[d] (R84). A poisoned operand traps before a core that is none of the context (DESIGN CHOICE, log
entry 75). -/
def semWord (ulen : Nat) (coord : Option (BitVec 8)) (regs : List (BitVec 5)) (dst : Option (BitVec 5)) (m : BitVec 9) (op : SemOp)
    (a d : BitVec 5) (s : State) : Out :=
  checkedWord ulen regs dst (fun c co =>
    if co.anyPois regs then .trap (s.poisonTrap c)
    else match semFile s c coord with
      | none => .trap (s.progError c (match coord with | some k => k.toNat | none => 0))
      | some k =>
        let va := (co.reg a).setWidth 32
        let hold := if op = .wait then some (SeqWait.sem k m.toNat va) else none
        .enter (.sem k m.toNat op va ((co.reg d).setWidth 32)) (k != c) hold) s

def semaddOp (ulen : Nat) (coord : Option (BitVec 8)) (d a : BitVec 5) (m : BitVec 9) (s : State) : Out :=
  semWord ulen coord [a] (some d) m .add a 0 s
def semcasOp (ulen : Nat) (coord : Option (BitVec 8)) (d a : BitVec 5) (m : BitVec 9) (s : State) : Out :=
  semWord ulen coord [a, d] (some d) m .cas a d s
def semsetOp (ulen : Nat) (coord : Option (BitVec 8)) (a : BitVec 5) (m : BitVec 9) (s : State) : Out :=
  semWord ulen coord [a] none m .set a 0 s
def semreadOp (ulen : Nat) (coord : Option (BitVec 8)) (d : BitVec 5) (m : BitVec 9) (s : State) : Out :=
  semWord ulen coord [] (some d) m .read 0 0 s
def semwaitOp (ulen : Nat) (coord : Option (BitVec 8)) (a : BitVec 5) (m : BitVec 9) (s : State) : Out :=
  semWord ulen coord [a] none m .wait a 0 s

/-- The semaphores that a task's held adds, performed or still in the check queue, name (R86). -/
def Core.addTargets (c : Core) : List (Nat × Nat) :=
  let held := match c.share with
    | some sh => sh.fx.filterMap (fun f => match f with | .add k m _ => some (k, m) | _ => none)
    | none => []
  let queued := c.checkQ.filterMap (fun e => match e.op with | .sem k m .addc _ _ => some (k, m) | _ => none)
  (held ++ queued).eraseDups

/-- SEMADDC (R86): under COMMIT=1 a 33rd distinct semaphore is a program error. -/
def semaddcOp (ulen : Nat) (coord : Option (BitVec 8)) (a : BitVec 5) (m : BitVec 9) (s : State) : Out :=
  checkedWord ulen [a] none (fun c co =>
    if co.pois a then .trap (s.poisonTrap c)
    else match semFile s c coord with
      | none => .trap (s.progError c (match coord with | some k => k.toNat | none => 0))
      | some k =>
        let ts := co.addTargets
        if s.commits c && !ts.contains (k, m.toNat) && decide (32 ≤ ts.length) then .trap (s.progError c m.toNat)
        else .enter (.sem k m.toNat .addc ((co.reg a).setWidth 32) 0) false none) s

def execSemadd (d a : BitVec 5) (m : BitVec 9) (s : State) : Out := semaddOp 4 none d a m s
def execSemaddc (a : BitVec 5) (m : BitVec 9) (s : State) : Out := semaddcOp 4 none a m s
def execSemcas (d a : BitVec 5) (m : BitVec 9) (s : State) : Out := semcasOp 4 none d a m s
def execSemset (a : BitVec 5) (m : BitVec 9) (s : State) : Out := semsetOp 4 none a m s
def execSemread (d : BitVec 5) (m : BitVec 9) (s : State) : Out := semreadOp 4 none d m s
def execSemwait (a : BitVec 5) (m : BitVec 9) (s : State) : Out := semwaitOp 4 none a m s

/-- DRAW (R87): the designation must have zero reserved bits and a lead core of the context; a poisoned one traps first (DESIGN CHOICE, log entry
75). -/
def execDraw (d a : BitVec 5) (s : State) : Out :=
  checkedWord 4 [a] (some d) (fun c co =>
    if co.pois a then .trap (s.poisonTrap c)
    else
      let v := (co.reg a).toNat
      let lead := slice v 16 9
      if slice v 19 17 ≠ 0 ∨ coordOk lead = false ∨ s.coreIn (s.ctxOf c) (coreOfCoord lead) = false then
        .trap (s.trap c 3 (co.reg a))
      else
        .enter (.draw (coreOfCoord lead) (slice v 8 0) (slice v 63 32) (slice v 31 24) (slice v 23 20))
          (coreOfCoord lead != c) none) s

/-- A ring word (R88, R90): an undeclared ring or a role not granted is a program error, after a poisoned operand (DESIGN CHOICE, log entry 75). An
address is tested at the ring, where the word takes effect. -/
def ringWord (regs : List (BitVec 5)) (dst : Option (BitVec 5)) (q : BitVec 8) (op : RingOp) (a : BitVec 5)
    (hold : Option SeqWait) (s : State) : Out :=
  checkedWord 4 regs dst (fun c co =>
    if co.anyPois regs then .trap (s.poisonTrap c)
    else match s.findRing (s.ctxOf c) q.toNat with
      | none => .trap (s.progError c q.toNat)
      | some (on, oq, roles) =>
        match s.ring on oq with
        | none => .trap (s.progError c q.toNat)
        | some r =>
          if r.admits roles op = false then .trap (s.progError c q.toNat)
          else
            -- a ring's counts stand at the core of its slot 0, a channel's ends at the launch front end (12 R241, 16 R300)
            let home := match (s.ctx on).place false r.base with | some p => sliceCore p.key | none => c
            .enter (.ring q.toNat op (co.reg a).toNat) (r.chan || home != c) hold) s

def execRclaim (d : BitVec 5) (q : BitVec 8) (s : State) : Out := ringWord [] (some d) q .claim 0 none s
def execRfill (a : BitVec 5) (q : BitVec 8) (s : State) : Out := ringWord [a] none q .fill a none s
def execRwaitf (q : BitVec 8) (s : State) : Out := ringWord [] none q .waitF 0 (some (.ring q.toNat true)) s
def execRwaite (q : BitVec 8) (s : State) : Out := ringWord [] none q .waitE 0 (some (.ring q.toNat false)) s
def execRtake (d : BitVec 5) (q : BitVec 8) (s : State) : Out := ringWord [] (some d) q .take 0 none s
def execRfree (a : BitVec 5) (q : BitVec 8) (s : State) : Out := ringWord [a] none q .free a none s
def execRstat (d : BitVec 5) (q : BitVec 8) (s : State) : Out := ringWord [] (some d) q .stat 0 none s

/-- A set word (R91); the set state is at the launch front end, so its result travels. A poisoned s[a] is consumed, by BTEST as by BWAIT (DESIGN
CHOICE, log entry 96). -/
def setWord (regs : List (BitVec 5)) (dst : Option (BitVec 5)) (g : BitVec 6) (op : SetOp) (a : BitVec 5)
    (hold : Core → Option SeqWait) (s : State) : Out :=
  checkedWord 4 regs dst (fun c co =>
    if co.anyPois regs then .trap (s.poisonTrap c)
    else .enter (.set g.toNat op ((co.reg a).toNat % 2 ^ 16)) true (hold co)) s

def execJoin (g : BitVec 6) (s : State) : Out := setWord [] none g .join 0 (fun _ => none) s
def execLeave (g : BitVec 6) (s : State) : Out := setWord [] none g .leave 0 (fun _ => none) s
def execArrive (d : BitVec 5) (g : BitVec 6) (s : State) : Out := setWord [] (some d) g .arrive 0 (fun _ => none) s
def execBwait (a : BitVec 5) (g : BitVec 6) (s : State) : Out :=
  setWord [a] none g .wait a (fun co => some (.set g.toNat ((co.reg a).setWidth 16))) s
def execBtest (d a : BitVec 5) (g : BitVec 6) (s : State) : Out := setWord [a] (some d) g .test a (fun _ => none) s

/-! ### Taking effect -/

/-- The register that awaits the result named `id`, if one still does, takes it. -/
def Core.arriveId (co : Core) (id : Nat) : Core :=
  match co.outst.find? (fun o => o.id == id) with
  | some o => (match o.val with | some (v, p) => co.write o.reg v p | none => co)
  | none => co

/-- A result reaches s[d]: at once from the core's own file, ring or queue; else it travels until REMOTE_RESULT_RETURN (R107). -/
def Core.deliver (co : Core) (e : CheckEntry) (v : BitVec 64) : Core :=
  match e.dst with
  | none => co
  | some _ => let co := co.known e.id v false; if e.remote then co else co.arriveId e.id

/-- The word that held the sequencer is complete: it goes on after it. -/
def Core.pass (co : Core) (e : CheckEntry) : Core :=
  if e.holds then { co.advance e.ulen with wait := none } else co

/-- The sequencer stands again where it stood before a checked word: neither it nor a later word has had an effect (24 R377; log entry 6). -/
def Core.rewind (co : Core) (e : CheckEntry) : Core :=
  let p := e.prior.point
  { co with
    regs := p.regs, rpois := p.rpois, outst := p.await.map (fun a => ⟨a.1, a.2, none, false⟩), cb := e.prior.cb, cbPois := e.prior.cbPois
    sysr := e.prior.sysr, fence := e.prior.fence, checkQ := [], wait := none, stall := none }

/-- What an operation's result does to the core that issued it. A program error is a trap at the word itself, of which no part has taken
effect; one that only a withdrawn ring brings (12 R243) is held where the core has taken another trap since. -/
def State.settleResult (s : State) (c : Nat) (e : CheckEntry) : OpResult → State
  | .value v => s.modCore c (fun co => (co.deliver e v).pass e)
  | .unit => s.modCore c (fun co => co.pass e)
  | .blocked => s
  | .error v =>
    if e.op.mayFail || !(s.core c).handler then (s.modCore c (fun co => co.rewind e)).trapWith c 3 e.addr (some (BitVec.ofNat 64 v)) {}
    else s.modCore c (fun co => { (co.deliver e 0).pass e with heldFaults := co.heldFaults ++ [⟨3, BitVec.ofNat 64 v, 0, 0, none⟩] })

/-- Append a command to its queue with its number and name (08 R187, 04 R96): the number, and the state. -/
def State.append (s : State) (c : Nat) (q : QId) (k : Cmd) : Nat × State :=
  let qu := s.queue q
  let num := qu.last + 1
  let k := { k with num := num, uid := s.uid + 1 }
  let s := s.setQueue q { qu with last := num, cmds := qu.cmds ++ [k] }
  let s := s.modCore c (fun co => co.modShare (fun sh => { sh with pushed := sh.pushed ++ [(q, num)] }))
  (num, { s with uid := s.uid + 1, ms := { s.ms with epoch := s.uid + 1 } })

/-- A push (08 R189): the tokens of SQPOP go, what they acquire goes to the command, the command and the tokens of SQPUSH come. -/
def State.enqueue (s : State) (c : Nat) (q : QId) (k : Cmd) : Nat × State :=
  let (co1, rel, see) := (s.core c).popTokens k.sqpop 4
  let k := { k with acq := k.acq ++ rel, see := max k.see see, relSee := max k.relSee see }
  let (num, s) := (s.setCore c co1).append c q k
  (num, s.modCore c (fun co => co.pushTokens k.sqpush 4 ⟨[], k.see⟩))

/-- The matrix command that a mover command with CHAIN brings (07 R176, 08 R200): it waits for that command, named `uid`, and sees its
writes. -/
def Cmd.chained (k : Cmd) (uid : Nat) : Option Cmd :=
  k.chain.map (fun img => { k with img := img, chain := none, waitOn := some uid, acq := k.acq ++ [uid] })

/-- A sequencer's access to the ring, set or semaphore that an operation names moves the logical time (13 R252). -/
def State.stampOp (s : State) (c : Nat) : CheckedOp → State
  | .sem k m .wait _ _ | .sem k m .read _ _ => s.stampLoad (.seq c) (.sem k m)
  | .sem k m _ _ _ => s.stampStore (.seq c) (.sem k m)
  | .draw k m _ _ _ => s.stampStore (.seq c) (.sem k m)
  | .ring q .stat _ | .ring q .waitE _ | .ring q .waitF _ => s.stampLoad (.seq c) (s.ringAt c q)
  | .ring q _ _ => s.stampStore (.seq c) (s.ringAt c q)
  | .set g .wait _ | .set g .test _ => s.stampLoad (.seq c) (.set (s.ctxOf c) g)
  | .set g _ _ => s.stampStore (.seq c) (.set (s.ctxOf c) g)
  | _ => s

/-- One checked operation takes effect (R77). -/
def State.effect (s : State) (c : Nat) (e : CheckEntry) : State :=
  let s := s.stampOp c e.op
  match e.op with
  | .sem k m .wait a _ =>
    if a ≤ ((s.core k).sem m).val then
      let rel := ((s.core k).sem m).rel
      s.modCore c (fun co => { co.pass e with observed := co.observed ++ rel })
    else s.modCore k (fun co => co.setSem m { co.sem m with waiters := (co.sem m).waiters ++ [(.seq c, a)] })
  | .sem k m .addc a _ =>
    if s.commits c then s.hold c (.add k m a) else (s.semOp k m .addc a 0 e.see).2
  | .sem k m op a d =>
    let (old, s1) := s.semOp k m op a d e.see
    let s1 := if op = .read then
        s1.modCore c (fun co => { co with observed := co.observed ++ ((s1.core k).sem m).rel }) else s1
    s1.settleResult c e (.value (old.zeroExtend 64))
  | .draw k m n minc crew =>
    let (v, s1) := s.drawOp k m n minc crew e.see
    s1.settleResult c e (.value v)
  | .ring q op addr => let (r, s1) := s.ringOp c q op addr; s1.settleResult c e r
  | .set g op val => let (r, s1) := s.setOp c g op val; s1.settleResult c e r
  | .push q k =>
    let (num, s1) := s.enqueue c q k
    let s1 := match k.chained s1.uid with
      | some m => (s1.append c (.core c 1) m).2
      | none => s1
    let s1 := s1.retestAll c
    -- a per-core number was ready at issue (R96)
    match q with
    | .core _ _ => s1
    | _ => s1.settleResult c e (.value (BitVec.ofNat 64 num))
  | .load p n signed =>
    let (v, bad, s1) := s.loadAt c p n signed
    s1.modCore c (fun co => co.known e.id v bad)
  | .store p bs flip va => (match s.markFlip c flip with
    | some s1 => s1.storeAt c p bs
    | none => s.settleResult c e (.error va))
  | .cload k p => s.cloadAt c k p
  | .inval ks => s.invalidate ks
  | .acquire uids => s.acquire (.seq c) uids
  | .observe uids => s.modCore c (fun co => { co with observed := co.observed ++ uids })
  | .fence => (s.acquire (.seq c) (s.core c).observed).modCore c (fun co => { co with observed := [] })

/-- Can an entry of the check queue take its place in the global order: does everything before it have one (13 R252), and does its access wait for
no lane repair (22 R368)? A store waits for its own place. -/
def State.opInPlace (s : State) (c : Nat) : CheckedOp → Bool
  | .store _ _ _ _ => true
  | .inval ks => (s.core c).stores.all (·.placed) && !s.ms.pinnedIn ks
  | .load p n _ => (s.core c).stores.all (·.placed) && !s.ms.pausedIn p n
  | .cload _ p => (s.core c).stores.all (·.placed) && !s.ms.pausedIn p 128
  | _ => (s.core c).stores.all (·.placed)

/-- The accesses at the head of the check queue, with nothing before them that has no place yet, take effect (13 R252). The fuel is the queue's
length. -/
def State.drainChecks (s : State) (c : Nat) : Nat → State
  | 0 => s
  | f + 1 =>
    match (s.core c).checkQ with
    | e :: rest =>
      if e.op.access && s.opInPlace c e.op then ((s.modCore c (fun co => { co with checkQ := rest })).effect c e).drainChecks c f else s
    | [] => s

/-- The oldest checked operation takes effect, and with it the accesses that stand behind it alone (R77). -/
def State.effectHead (s : State) (c : Nat) (e : CheckEntry) (rest : List CheckEntry) : State :=
  ((s.modCore c (fun co => { co with checkQ := rest, ckpt := some e.snap })).effect c e).drainChecks c rest.length

/-- The check queue is given up: what it holds has no effect, but for the stores, which are never rolled back (R82; 24 R385). -/
def State.dropChecks (s : State) (c : Nat) : State :=
  let q := (s.core c).checkQ
  (q.filter (fun e => match e.op with | .store _ _ _ _ => true | _ => false)).foldl (fun s e => s.effect c e)
    (s.modCore c (fun co => { co with checkQ := [] }))

/-- REMOTE_STORE_ACK (13 R254): the home has performed and acknowledges the source's oldest store that was sent there; the accesses that stood
behind it follow. -/
def execRemoteStoreAck (src : StoreSrc) (s : State) : Out :=
  eventStep s (fun s =>
    let s := s.dropStore src (fun p => p.remote && p.sent)
    match src with
    | .seq c => s.drainChecks c (s.core c).checkQ.length
    | _ => s)

/-- REMOTE_RESULT_RETURN (R107): the result for register d that has come back is written. -/
def execRemoteResultReturn (core : Nat) (d : BitVec 5) (s : State) : Out :=
  eventStep s (fun s => s.modCore core (fun co => co.arrive d false))

/-! ### Timelines and fences -/

/-- The names of the commands a counter has passed, up to number n (13 R257). -/
def Queue.releasedTo (q : Queue) (n : Nat) : List Nat :=
  ((q.retired.filter (fun r => decide (r.1 ≤ n))).map (·.2)).flatten

/-- An acquire, or an observation, of a sequencer's word: at once, or in its place behind the checked operations before it. -/
def State.inOrder (s : State) (c : Nat) (op : CheckedOp) : State :=
  if (s.core c).checkClear then s.effect c ((s.core c).entry op none false 0 false)
  else s.modCore c (fun co => co.enter op none false 0 false)

/-- TLWAIT (R93): an acquire of every command numbered up to s[a], once the count has reached it. -/
def execTlwait (a : BitVec 5) (ctr inst : BitVec 4) (s : State) : Out :=
  seqWord s [a] (fun c co =>
    if co.pois a then s.poisonTrap c
    else
      let q := timelineOf c (s.ctxOf c) ctr.toNat inst.toNat
      let n := (co.reg a).toNat
      if n ≤ (s.queue q).count then
        (s.inOrder c (.acquire ((s.queue q).releasedTo n))).modCore c (fun co => co.advance 4)
      else s.setCore c { co with wait := some ⟨.tl q n, 4, false⟩ })

/-- TLREAD (R93): the count; it observes completions and acquires nothing. -/
def execTlread (d : BitVec 5) (ctr inst : BitVec 4) (s : State) : Out :=
  seqWord s [] (fun c _ =>
    let qu := s.queue (timelineOf c (s.ctxOf c) ctr.toNat inst.toNat)
    (s.inOrder c (.observe (qu.releasedTo qu.count))).modCore c (fun co => (co.write d (BitVec.ofNat 64 qu.count) false).advance 4))

/-- XFENCE.O2E (R94): it completes when every store of the issuer is performed; commands pushed later see the stores up to the
issuer's last one. -/
def execXfenceO2E (s : State) : Out :=
  seqWord s [] (fun c co =>
    if co.storeCount ≠ 0 then s.stallSeq c .storesBusy
    else s.setCore c { co.advance 4 with fence := max co.fence co.lastStore })

/-- XFENCE.E2O (R94): it acquires the writes of every command whose completion the issuer has observed. -/
def execXfenceE2O (s : State) : Out :=
  seqWord s [] (fun c _ => (s.inOrder c .fence).modCore c (fun co => co.advance 4))

end Sys2Proof.Machine
end

