-- ==== Sys2Proof/Machine/Task.lean ====
section
/-!
DEFINITION. Sys2Proof/Machine/Task.lean: how a wait ends (04 R404), how a core receives and ends its share of a task (R98, R99), and
what an abort undoes (15 R290, 04 R89, R100).
-/
namespace Sys2Proof.Machine

/-- The task of a stage that an id names. -/
def Stage.task (st : Stage) (id : TaskId) : Option Task := st.tasks.find? (fun t => t.id == id)
def Stage.modTask (st : Stage) (id : TaskId) (f : Task → Task) : Stage :=
  { st with tasks := mapFirst (fun t => t.id == id) f st.tasks }
def State.task (s : State) (x : Nat) (id : TaskId) : Option Task := (s.stage x id.stage).bind (fun st => st.task id)
def State.modTask (s : State) (x : Nat) (id : TaskId) (f : Task → Task) : State :=
  match s.stage x id.stage with
  | some st => s.setStage x id.stage (st.modTask id f)
  | none => s

/-- The designation that TNEXT returns in s[d+5] (04 R87, 15 R284). -/
def designation (n minc crew lead m : Nat) : BitVec 64 :=
  BitVec.ofNat 64 (n * 2 ^ 32 + minc * 2 ^ 24 + (crew - 1) * 2 ^ 20 + lead * 2 ^ 9 + m)

/-- The ringmaster's answer reaches the core (R98): s[d] to s[d+5] are written, and the sequencer goes to the entry point of the
stage for the phase; the core takes the stage's issue policy (10 R218). -/
def State.answerTnext (s : State) (c : Nat) (d : BitVec 5) : State :=
  let x := s.ctxOf c
  match (s.core c).share with
  | none => s
  | some sh =>
    match s.stage x sh.task.stage, s.task x sh.task with
    | some st, some t =>
      let w := fun (co : Core) (i : Nat) (v : BitVec 64) => co.write (d + BitVec.ofNat 5 i) v false
      let des := designation (st.items.getD t.phase 0) st.minc t.crew.length (coordOf (t.crew.headD 0)) st.csem
      s.modCore c (fun co =>
        let co := w co 0 (t.tag.zeroExtend 64)
        let co := w co 1 (BitVec.ofNat 64 (t.phase + 256 * sh.task.stage))
        let co := w co 2 (BitVec.ofNat 64 t.ver)
        let co := w co 3 (BitVec.ofNat 64 sh.rank)
        let co := w co 4 (BitVec.ofNat 64 t.crew.length)
        let co := w co 5 des
        { co with
          wait := none, mism := 0, pc := BitVec.ofNat 56 (st.entries.getD t.phase 0)
          vec := { co.vec with rr := st.rr } })
    | _, _ => s

/-- TEND's report (R99): the core's share is over, its held effects stay with the task, and execution goes on at the next word. -/
def State.reportTend (s : State) (c ulen : Nat) : State :=
  let x := s.ctxOf c
  match (s.core c).share with
  | some sh =>
    let s := s.modTask x sh.task (fun t => { t with ended := t.ended ++ [(c, { sh with stores := (s.core c).lastStore })] })
    s.modCore c (fun co => { co.advance ulen with wait := none, share := none })
  | none => s.modCore c (fun co => { co.advance ulen with wait := none })

/-- Every command that the core pushed since its TNEXT has retired (R99). -/
def State.pushedRetired (s : State) (c : Nat) : Bool :=
  match (s.core c).share with
  | some sh => sh.pushed.all (fun p => decide (p.2 ≤ (s.queue p.1).count))
  | none => true

/-- A wait whose release has taken effect completes, with every effect its release carries (R404). -/
def State.completeWait (s : State) (c : Nat) (w : Waiting) : State :=
  match w.on with
  | .tl q n =>
    (s.inOrder c (.acquire ((s.queue q).releasedTo n))).modCore c (fun co => { co.advance w.ulen with wait := none })
  | .tnext d => s.answerTnext c d
  | .tend => s.reportTend c w.ulen
  | .probe _ => s.modCore c (fun co => { co with wait := none })
  | _ => s.modCore c (fun co => { co.advance w.ulen with wait := none })

/-- A wait ended by an interrupt has had no effect: the word has not issued and executes again (R404). -/
def State.cancelWait (s : State) (c : Nat) (w : Waiting) : State :=
  let dropEntry := fun (co : Core) => { co with wait := none, checkQ := co.checkQ.filter (fun e => !e.holds) }
  match w.on with
  | .sem k m _ =>
    (s.modCore k (fun co => co.setSem m { co.sem m with waiters := (co.sem m).waiters.filter (fun e => e.1 != .seq c) })).modCore c
      dropEntry
  | .ring q _ =>
    let s := match s.findRing (s.ctxOf c) q with
      | some (on, oq, _) => (match s.ring on oq with
        | some r => s.setRing on oq { r with waitE := r.waitE.filter (· != c), waitF := r.waitF.filter (· != c) }
        | none => s)
      | none => s
    s.modCore c dropEntry
  | .set g _ =>
    let n := s.ctxOf c
    let v := s.mset n g
    (s.setMset n g { v with waiters := v.waiters.filter (fun e => e.1 != c) }).modCore c dropEntry
  | .probe _ =>
    (s.modCtx (s.ctxOf c) (fun x => { x with probes := x.probes.filter (· != c) })).modCore c (fun co => { co with wait := none })
  | _ => s.modCore c (fun co => { co with wait := none })

/-- Bring a sequencer to its pre-emption point: a released wait completes, any other wait and every stall ends with no effect
(R404, 24 R381 step 2). -/
def State.interruptSeq (s : State) (c : Nat) : State :=
  let s := match (s.core c).wait with
    | some w => if w.released then s.completeWait c w else s.cancelWait c w
    | none => s
  s.modCore c (fun co => { co with stall := none })

/-- A fault raised by a strand, a command or a file stops the sequencer at its pre-emption point and is taken there (R102), or is
held while the core is in its handler (24 R379). -/
def State.raiseFault (s : State) (c : Nat) (f : HeldFault) : State :=
  if (s.core c).handler || (s.core c).mayFail then s.modCore c (fun co => { co with heldFaults := co.heldFaults ++ [f] })
  else (s.interruptSeq c).raise c f

/-- A fault that waited for an earlier checked word which might have failed (log entry 6) is taken. -/
def State.settleFaults (s : State) (c : Nat) : State :=
  let co := s.core c
  if co.heldFaults = [] ∨ co.handler = true ∨ co.mayFail = true then s else (s.interruptSeq c).takeHeld c

/-! ### Aborting a task (15 R290) -/

/-- Discard the commands of a task from a queue: each retires without effect, and the counter passes it (12 R246). A queue that one of them had
stopped at its fault runs on. -/
def Queue.discardTask (q : Queue) (id : TaskId) (pusher : Nat) : Queue :=
  let gone := fun (k : Cmd) => k.task == some id && k.pusher == pusher
  let kept := q.cmds.filter (fun k => !gone k)
  let retired := q.retired ++ (q.cmds.filter gone).map (fun k => (k.num, []))
  -- commands of a queue retire in number order: the count is just below the first one left
  { q with cmds := kept, retired := retired, count := (match kept with | k :: _ => k.num - 1 | [] => q.last),
           stop := q.stop && !(q.cmds.filter gone).any (·.fault) }

/-- What a task held of a ring when it is aborted (R89): unfilled or held-filled claims become void; slots whose free was held are the oldest
filled ones again, in the order in which they were taken. -/
def Ring.undo (r : Ring) (claims frees : List Nat) : Ring :=
  let r := claims.foldl (fun r n =>
    if NatSet.has r.filled n then r
    else { r with void := NatSet.mark r.void n true, filled := NatSet.mark r.filled n true, heldM := NatSet.mark r.heldM n false }) r
  { r with
    heldM := frees.foldl (fun t n => NatSet.mark t n false) r.heldM
    ret := (r.taken.map (·.1)).filter (fun n => frees.contains n) ++ r.ret
    taken := r.taken.filter (fun e => !frees.contains e.1) }

/-- Undo the ring effects of a task, which are those of its shares together. -/
def State.undoRings (s : State) (x : Nat) (shs : List Share) : State :=
  let slots := (shs.map (·.slots)).flatten
  let takes := (shs.map (·.takes)).flatten
  let held := (shs.map (·.fx)).flatten
  (slots.map (·.1) ++ takes.map (·.1)).eraseDups.foldl (fun s q =>
    match s.findRing x q with
    | none => s
    | some (on, oq, _) =>
      match s.ring on oq with
      | none => s
      | some r =>
        let claims := (slots.filter (fun e => e.1 == q)).map (·.2)
        let freed := held.filterMap (fun f => match f with | .free q' n => if q' = q then some n else none | _ => none)
        let frees := ((takes.filter (fun e => e.1 == q)).map (·.2)).filter (fun n => freed.contains n)
        s.putRing on oq (r.undo claims frees)) s

/-- A channel slot whose publish is discarded becomes void at the consumer (16 R305): those held, and those of steps that had taken a
sequence number. -/
def State.voidPublishes (s : State) (x c : Nat) (id : TaskId) (sh : Share) : State :=
  let peer := fun (q : Nat) => match s.ring x q with | some r => r.chEnd.peer | none => 0
  let held := sh.fx.filterMap (fun f => match f with | .publish q n _ => some (q, n) | _ => none)
  let cmds := ([2, 4].map (fun sel => (s.queue (.core c sel)).cmds.filterMap (fun k =>
    if k.task = some id then k.chSeq else none))).flatten
  (held ++ cmds).foldl (fun s e => s.send (.chPublish (peer e.1) e.1 e.2 0 true)) s

/-- A strand leaves every set it belongs to and its slots are free (04 R92, 10 R215); what its loads have read stays in its registers. -/
def State.dropStrand (s : State) (c uid : Nat) : State :=
  let s := s.leaveAll (s.ctxOf c) (.strand c uid)
  s.modCore c (fun co =>
    let co := co.landLoads (fun l => l.strand == uid)
    { co with vec := { co.vec with
        strands := co.vec.strands.filter (fun t => t.uid != uid), syncLoads := co.vec.syncLoads.filter (fun l => l.strand != uid) } })

/-- The strand's end (06 R145, 10 R215; 24 R380): its status goes to its command, which has run its last iteration. -/
def State.endStrand (s : State) (c : Nat) (t : Strand) : State :=
  let s := s.modCmd (.core c 0) t.uid (fun k => { k with stage := 4, iter := t.iter + 1, status := t.status, part := false })
  s.dropStrand c t.uid

/-- A faulted command is checked again at the head (24 R379); what it has begun it resumes at its progress word. -/
def Cmd.recheck (k : Cmd) : Cmd := if k.fault then { k with fault := false, stage := 1, step := 0 } else k

/-- A queue runs on. -/
def Queue.restart (q : Queue) : Queue := { q with stop := false, cmds := q.cmds.map Cmd.recheck }

/-- A strand kept in place goes on at its slot PCs; the members that a fault stopped execute the faulting word again (24 R379, R380). -/
def Strand.unfault (t : Strand) : Strand :=
  { t with mode := if t.mode = .kept then .live else t.mode,
           members := t.members.map (fun m => match m.wait with
             | .fault again => { m with wait := if again then .again else .run }
             | _ => m) }

/-- A crew core goes back to the TNEXT that received an aborted task, as if that word issued again, out of its handler and with its token
queues empty (R290; 12 R244). -/
def Core.backToTnext (co : Core) (pc : BitVec 56) : Core :=
  { co with share := none, checkQ := [], outst := [], tokens := [], handler := false, heldFaults := [], wait := none,
            stall := none, pc := pc,
            queues := co.queues.map (fun q => (q.1, q.2.restart)), cutting := false, faultStrand := none,
            vec := { co.vec with strands := co.vec.strands.map Strand.unfault } }

/-- One crew core's share of an aborted task stops (R290): strands evicted, commands discarded, tokens emptied, held effects
dropped; the sequencer resumes at its TNEXT. -/
def State.abortShare (s : State) (c : Nat) (id : TaskId) : State :=
  let co := s.core c
  let x := s.ctxOf c
  match co.share with
  | none => s
  | some sh =>
    if sh.task ≠ id then s
    else
      let s := s.dropChecks c
      let s := s.voidPublishes x c id sh
      let vec := (s.queue (.core c 0)).cmds.filter (fun k => k.task == some id)
      let s := vec.foldl (fun s k => s.dropStrand c k.uid) s
      let uids := ((s.queuesOf c).map (fun q => ((s.queue q).cmds.filter (fun k => k.task == some id && k.pusher == c)).map (·.uid))).flatten
      let s := (s.queuesOf c).foldl (fun s q => s.setQueue q ((s.queue q).discardTask id c)) s
      let s := { s with ms := { s.ms with pins := s.ms.pins.filter (fun p => !uids.contains p.uid) } }
      let s := s.modCtx x (fun xx => { xx with crsl := xx.crsl.filter (fun t => !uids.contains t.uid) })
      s.modCore c (fun co => co.backToTnext sh.nextPc)

/-- A crew core whose share of an aborted task has ended goes back to its TNEXT too, unless it works on another task by now (R290); its token queues
are emptied all the same (12 R244). -/
def State.abortEnded (s : State) (x : Nat) (id : TaskId) (c : Nat) (sh : Share) : State :=
  let s := s.voidPublishes x c id sh
  if s.holder c ≠ some x then s
  else if (s.core c).share = none then ((s.interruptSeq c).dropChecks c).modCore c (fun co => co.backToTnext sh.nextPc)
  else s.modCore c (fun co => { co with tokens := [] })

/-- The shares of a task: those that run and those that have ended. -/
def State.sharesOf (s : State) (t : Task) : List Share :=
  (t.crew.filterMap (fun c => (s.core c).share)).filter (fun sh => sh.task == t.id) ++ t.ended.map (·.2)

/-- Abort a task (R290): every share stops, what the ended ones held is discarded, flip marks clear, and the task waits to be rerun; the sixteenth abort loses the
context with class 14. `same` keeps the crew of the first run. -/
def State.abortTask (s : State) (x : Nat) (id : TaskId) (same : Bool) : State :=
  match s.task x id with
  | none => s
  | some t =>
    let s := t.crew.foldl (fun s c => if ((s.core c).share.map (·.task)) = some id then s.interruptSeq c else s) s
    let s := s.undoRings x (s.sharesOf t)
    let s := t.crew.foldl (fun s c => s.abortShare c id) s
    let s := t.ended.foldl (fun s e => s.abortEnded x id e.1 e.2) s
    let s := s.modCtx x (fun c => { c with flips := c.flips.map (fun f =>
      (f.1, f.2.map (fun f => if f.mark = some id then { f with mark := none } else f))) })
    let s := s.modTask x id (fun t => { t with waiting := true, ended := [], aborts := t.aborts + 1, same := same })
    if t.aborts + 1 ≥ 16 then s.loseContext x 14 0 (coreField (t.crew.headD 0) 0) [] s.mod.self else s

/-- Every task under COMMIT=1 to which a core has reported its TEND, and which has not retired, is aborted, as a drain of one of its crew cores demands
(R290). -/
def State.abortReported (s : State) (c : Nat) : State :=
  let x := s.ctxOf c
  if s.holder c = none then s
  else ((s.ctx x).stages.filterMap (·.2)).foldl (fun s st =>
    if st.commit then
      (st.tasks.filter (fun t => !t.waiting && t.ended.any (fun e => e.1 == c))).foldl (fun s t => s.abortTask x t.id false) s
    else s) s

/-- An abort cause under the stage's COMMIT (01 R22): an abort and rerun, or the loss of the context with the class given. -/
def State.abortOrLose (s : State) (c cls : Nat) (same : Bool) : State :=
  match (s.core c).task with
  | some sh => if s.commits c then s.abortTask (s.ctxOf c) sh.task same else s.seqLoss c cls 0
  | none => s.seqLoss c cls 0

/-! ### The end of a launch (15 R272) -/

/-- Does a sequencer wait in TNEXT with no task (15 R283)? -/
def Core.idle (c : Core) : Bool :=
  c.run == .on && c.share.isNone && c.checkQ.isEmpty && (match c.wait with | some { on := .tnext _, released := false, .. } => true | _ => false)

/-- Is a phase declared (15 R274)? -/
def Stage.declares (st : Stage) (phase : Nat) : Bool := bitAt st.phases phase

/-- Has every declared stage retired MBN tasks of each phase that it declares, and does every sequencer wait in TNEXT or stand halted? -/
def State.launchOver (s : State) (x : Nat) : Bool :=
  let xx := s.ctx x
  let mbn := match xx.launch with | some l => l.mbn | none => 0
  xx.st == .running && xx.launch.isSome && !xx.preempting &&
    (xx.stages.filterMap (·.2)).all (fun st => (List.range 3).all (fun p => !st.declares p || decide (mbn ≤ st.retiredN.getD p 0))) &&
    xx.coreList.all (fun c => (s.core c).idle || (s.core c).run == .halted)

/-- The launch ends: one completion record, and STATE returns to LOADED. Its sequencers wait on in TNEXT, which nothing answers before the next
launch starts them afresh (log entry 69). -/
def State.endLaunch (s : State) (x : Nat) : State :=
  if s.launchOver x then
    let gen := match (s.ctx x).launch with | some l => l.gen | none => 0
    (s.modCtx x (fun xx => { xx with st := .loaded, launch := none })).record x ⟨3, 0, 0, 0, BitVec.ofNat 64 (gen * 2 ^ 32)⟩
  else s

/-! ### Task words -/

/-- TNEXT (R98): it stalls until the ringmaster dispatches a task to the core. -/
def execTnext (d : BitVec 5) (s : State) : Out :=
  seqWord s [] (fun c co => (s.setCore c { co with wait := some ⟨.tnext d, 4, false⟩ }).endLaunch (s.ctxOf c))

/-- TNEXT_ANSWER_ARRIVAL (15 R284): the answer reaches the core. -/
def execTnextAnswerArrival (core : Nat) (s : State) : Out :=
  eventStep s (fun s => match (s.core core).wait with
    | some { on := .tnext d, released := true, .. } => s.answerTnext core d
    | _ => s)

/-- TEND (R99): outside a task it is a program error, whose TVAL is 0, since the word has no operand (DESIGN CHOICE, log entry 99); inside one it stalls until every command pushed has retired. -/
def execTend (s : State) : Out :=
  seqWord s [] (fun c co =>
    if co.inTask = false then s.progError c 0
    else s.setCore c { co with wait := some ⟨.tend, 4, false⟩ })

/-- TEND_REPORT (R99): once every word of the core has taken effect and every command has retired, the core's share is reported and it goes on. -/
def execTendReport (core : Nat) (s : State) : Out :=
  eventStep s (fun s => match (s.core core).wait with
    | some w => if w.on = .tend ∧ (s.core core).checkClear = true ∧ s.pushedRetired core = true then s.reportTend core w.ulen else s
    | none => s)

/-- TABORT (R100): outside a task as TEND (TVAL 0: DESIGN CHOICE, log entry 99); under COMMIT=1 the task is aborted and rerun; under COMMIT=0 the context is lost with class 17 (24 R376). -/
def execTabort (s : State) : Out :=
  seqWord s [] (fun c co =>
    if co.inTask = false then s.progError c 0
    else if co.checkClear = false then s.stallSeq c .checkBusy
    else s.abortOrLose c 17 false)

end Sys2Proof.Machine
end

