-- ==== Sys2Proof/Machine/Check.lean ====
section
/-!
DEFINITION. Sys2Proof/Machine/Check.lean: the check queue at work: a checked operation takes effect or does not match (04 R77, 24
R385), and how waiting and stalled words of a sequencer are released (04 R76, R404; 95 CHECKED_OP_EFFECT to WAIT_INTERRUPTED).
-/
namespace Sys2Proof.Machine

/-- One WU in the unit in which wear is kept (log entry 11): fine enough that every reading of R394 is a whole number of it, but for irrational
powers of two. -/
def wearUnit : Nat := 3600000000000 * 10 ^ 12 * 750 ^ 4 * 2 ^ 128
/-- An amount of wear in 1/1,000 WU, rounded down. -/
def milliWu (d : Nat) : Nat := d / (wearUnit / 1000)

/-- A core takes no new task once it is drained, retiring or retired (01 R25, 15 R283). -/
def WearState.eligible : WearState → Bool
  | .healthy | .derated => true
  | _ => false

/-- Mark a core suspect and drain it, and tell its owner (24 R385, R386, R392); the tasks to which it has reported are aborted (15 R290). -/
def State.suspect (s : State) (c : Nat) : State :=
  let w := s.wrec c
  let s := s.setWrec c { w with susp := true, st := if w.st.eligible then .drained else w.st }
  match s.holder c with
  | some x => (s.record x ⟨10, 11, 0, coreField c 0, 0⟩).abortReported c
  | none => s

/-- Replay (R385): both copies reload from the check point and resume at the word after it. -/
def State.replay (s : State) (c : Nat) : State :=
  let s := (s.interruptSeq c).dropChecks c
  s.modCore c (fun co => match co.ckpt with
    | some k => { co with regs := k.regs, rpois := k.rpois, pc := k.pc, checkQ := [], outst := [], wait := none, stall := none }
    | none => { co with checkQ := [], outst := [], wait := none, stall := none })

/-- The mismatches counted so far: over the task, or since TNEXT returned or the curtain rose (R385). -/
def State.mismatches (s : State) (c : Nat) : Nat :=
  match (s.core c).task with
  | some sh => (match s.task (s.ctxOf c) sh.task with | some t => t.mism | none => 0)
  | none => (s.core c).mism

/-- One more mismatch: of the task, and of the words since TNEXT returned, in a task too. -/
def State.countMismatch (s : State) (c : Nat) : State :=
  let s := s.modCore c (fun co => { co with mism := co.mism + 1 })
  match (s.core c).task with
  | some sh => s.modTask (s.ctxOf c) sh.task (fun t => { t with mism := t.mism + 1 })
  | none => s

/-- The shadow does not match: the operation and every later entry are discarded (R385). -/
def State.mismatch (s : State) (c : Nat) : State :=
  let n := s.mismatches c
  let s := s.countMismatch c
  let x := s.ctxOf c
  match (s.core c).task with
  | some sh =>
    if s.commits c then
      if n = 0 then s.abortTask x sh.task true else (s.suspect c).abortTask x sh.task false
    else if n = 0 then s.replay c else (s.suspect c).seqLoss c 11 0
  | none => if n = 0 then s.replay c else (s.suspect c).seqLoss c 11 0

/-- Can the operation take effect now? Every access before it has its place in the global order (13 R252), and a push to a shared queue waits
for a free place there (08 R187). -/
def State.effectReady (s : State) (c : Nat) (e : CheckEntry) : Bool :=
  s.opInPlace c e.op && (match e.op with
    | .push q _ => (match q with | .core _ _ => true | _ => decide ((s.queue q).cmds.length < queueDepth q))
    | _ => true)

/-- CHECKED_OP_EFFECT (R77, R385): the oldest entry takes effect when the shadow's copy matches (`ok`), else the mismatch is
handled. A sequencer that waits in TNEXT may stand idle from here on, and the launch end (15 R272). -/
def execCheckedOpEffect (core : Nat) (ok : Bool) (s : State) : Out :=
  eventStep s (fun s =>
    match (s.core core).checkQ with
    | [] => s
    | e :: rest =>
      if e.op.access then (s.drainChecks core (rest.length + 1)).endLaunch (s.ctxOf core)
      else if ok then
        if s.effectReady core e then ((s.effectHead core e rest).settleFaults core).endLaunch (s.ctxOf core) else s
      else s.mismatch core)

/-- Does a stall's reason still stand? -/
def State.stallStands (s : State) (c : Nat) : Stall → Bool
  | .result => false
  | .checkFull => decide (Config.checkDepth ≤ (s.core c).checked.length)
  | .checkBusy => !(s.core c).checkClear
  | .storesFull => decide (Config.storeDepth ≤ (s.core c).storeCount)
  | .storesBusy => (s.core c).storeCount != 0
  | .queueFull => false
  | .tokens => false
  | .cut => !bitAt ((s.core c).sys 38).toNat 31
  | .pinned | .repair => false

/-- STALLED_ISSUE_RESUME (R76, R77, R82, R96): when its reason is gone, the stalled word issues again from the start. -/
def execStalledIssueResume (core : Nat) (s : State) : Out :=
  eventStep s (fun s => match (s.core core).stall with
    | some r => if s.stallStands core r then s else s.modCore core (fun co => { co with stall := none })
    | none => s)

/-- A released wait of the kind named completes. -/
def State.completeIf (s : State) (c : Nat) (p : SeqWait → Bool) : State :=
  match (s.core c).wait with
  | some w => if w.released && p w.on then s.completeWait c w else s
  | none => s

/-- SEMWAIT_RELEASE (R85, R404). -/
def execSemwaitRelease (core : Nat) (s : State) : Out :=
  eventStep s (fun s => s.completeIf core (fun w => match w with | .sem _ _ _ => true | _ => false))

/-- RING_WAIT_RELEASE (R88). -/
def execRingWaitRelease (core : Nat) (s : State) : Out :=
  eventStep s (fun s => s.completeIf core (fun w => match w with | .ring _ _ => true | _ => false))

/-- BWAIT_RELEASE (R91). -/
def execBwaitRelease (core : Nat) (s : State) : Out :=
  eventStep s (fun s => s.completeIf core (fun w => match w with | .set _ _ => true | _ => false))

/-- TLWAIT_RELEASE (R93): once the count has reached the number, the word completes and acquires. -/
def execTlwaitRelease (core : Nat) (s : State) : Out :=
  eventStep s (fun s => match (s.core core).wait with
    | some w => (match w.on with
      | .tl q n => if n ≤ (s.queue q).count then s.completeWait core w else s
      | _ => s)
    | none => s)

end Sys2Proof.Machine
end

