-- ==== Sys2Proof/Machine/SeqSys.lean ====
section
/-!
DEFINITION. Sys2Proof/Machine/SeqSys.lean: CPUSH and CSTAT (04 R96, R97), the control words (R103), ERET (R102, 24 R379) and the
system registers (04 R104, 24 R378). TNEXT, TEND and TABORT stand in Task.lean, TQUERY in Ringmaster.lean.
-/
namespace Sys2Proof.Machine

/-! ### Pushing a command -/

/-- A command as a push makes it from a staging buffer (08 R179). -/
def newCmd (img : List (BitVec 64)) (chain : Option (List (BitVec 64))) (core : Nat) (task : Option TaskId) (see : Nat) : Cmd :=
  { img := img, chain := chain, num := 0, uid := 0, pusher := core, task := task, stage := 0, body := [], iter := 0, step := 0, status := 0, acq := [], see := see, cover := [], lands := [], held := [], hver := [],
    statAddr := none, records := 0, part := false, fault := false, met := false, waitOn := none }

/-- Pushes of the check queue that go to queue q, with the matrix commands they bring. -/
def Core.pending (co : Core) (c : Nat) (q : QId) : Nat :=
  (co.checkQ.map (fun e => match e.op with
    | .push q' k => (if q' = q then 1 else 0) + (if k.chain.isSome ∧ q = .core c 1 then 1 else 0)
    | _ => 0)).sum

/-- Tokens that the pushes of the check queue will pop from Y→SEQ. -/
def Core.popsPending (co : Core) (y : Nat) : Nat :=
  (co.checkQ.filter (fun e => match e.op with | .push _ k => bitAt k.sqpop y | _ => false)).length
/-- Tokens that the pushes of the check queue will push into SEQ→Y. -/
def Core.pushesPending (co : Core) (y : Nat) : Nat :=
  (co.checkQ.filter (fun e => match e.op with | .push _ k => bitAt k.sqpush y | _ => false)).length

/-- A token stands in Y→SEQ for every bit of SQPOP, and SEQ→Y has room for every bit of SQPUSH (08 R189), pushes of the check queue
counted. -/
def Core.sqReady (co : Core) (k : Cmd) : Bool :=
  (List.range 4).all (fun y =>
    (!bitAt k.sqpop y || decide (co.popsPending y < (Tbl.get [] co.tokens (5 * y + 4)).length)) &&
    (!bitAt k.sqpush y || decide ((Tbl.get [] co.tokens (20 + y)).length + co.pushesPending y < 15)))

/-- A free place in queue q, pushes of the check queue counted (R96, 08 R187). -/
def State.roomFor (s : State) (c : Nat) (q : QId) : Bool :=
  decide ((s.queue q).cmds.length + (s.core c).pending c q < queueDepth q)

/-- CPUSH (R96): a buffer with a poisoned doubleword is a poison trap (R78); bytes 0-7 that name no queue are a command fault with
TVAL zero; a full queue or missing tokens stall. The number on a per-core queue is ready at issue. A mover command with CHAIN brings a matrix
command (08 R200), one without an image from cb15, which never runs. Where the buffer holds a poisoned
doubleword and names no queue, the poison trap is taken: the spec orders neither before the other (DESIGN CHOICE, log entry 75). -/
def execCpush (d : BitVec 5) (k : BitVec 4) (s : State) : Out :=
  bufferWord [] [k.toNat] (fun c co =>
    if co.bufferPois k.toNat then s.poisonTrap c
    else
      let img := co.buffer k.toNat
      let eng := slice (img.headD 0).toNat 63 60
      let inst := slice (img.headD 0).toNat 59 57
      match queueOf c (s.ctxOf c) eng inst with
      | none => s.trap c 6 0
      | some q =>
        let chains := (eng == 2 || eng == 3) && bitAt (img.headD 0).toNat 55
        if chains && co.cloading (k.toNat + 1) then s.stallSeq c .checkBusy
        else if chains && k.toNat != 15 && co.bufferPois (k.toNat + 1) then s.poisonTrap c
        else
          let chain := if !chains then none else if k = 15 then some [] else some (co.buffer (k.toNat + 1))
          let cmd := newCmd img chain c (co.task.map (·.task)) co.fence
          if Config.checkDepth ≤ co.checked.length then s.stallSeq c .checkFull
          else if co.sqReady cmd = false then s.stallSeq c .tokens
          else if s.roomFor c q = false ∨ (chains ∧ s.roomFor c (.core c 1) = false) then s.stallSeq c .queueFull
          else
            match q with
            | .core _ _ =>
              let num := BitVec.ofNat 64 ((s.queue q).last + co.pending c q + 1)
              s.setCore c (((co.write d num false).enter (.push q cmd) none false 4 false).advance 4)
            | _ => s.setCore c ((co.enter (.push q cmd) (some d) true 4 false).advance 4)) s

/-- The state word of a queue (R97). -/
def Queue.stat (q : Queue) (depth : Nat) : BitVec 64 :=
  BitVec.ofNat 64 (q.count % 2 ^ 32 * 2 ^ 32 + q.cmds.isEmpty.toNat * 2 ^ 17 + (q.stop || q.pre).toNat * 2 ^ 16 + depth * 2 ^ 8 +
    q.cmds.length)

/-- CSTAT (R97). -/
def execCstat (d : BitVec 5) (eng k : BitVec 4) (s : State) : Out :=
  seqWord s [] (fun c co =>
    match queueOf c (s.ctxOf c) eng.toNat k.toNat with
    | none => s.illegal c
    | some q => s.setCore c ((co.write d ((s.queue q).stat (queueDepth q)) false).advance 4))

/-! ### Control words -/

/-- NOP (R103). -/
def execNop (s : State) : Out := seqWord s [] (fun c co => s.setCore c (co.advance 4))

/-- TRAP (R103): class 4 with the code; EPC is the address of the word after it (R102), and TVAL is unchanged (24 R376). -/
def execTrap (code : BitVec 5) (s : State) : Out :=
  seqWord s [] (fun c co => s.precisely c (fun s => s.trapWith c 4 (co.pc + 4) none { code := code.toNat }))

/-! ### Debug halt: DRAIN (24 R384) -/

/-- The shared queues of a context. -/
def sharedQueues (x : Nat) : List QId :=
  (List.range 2).map (QId.stash x) ++ (List.range 2).map (QId.crsl x) ++ (List.range 8).map (QId.dou x)

/-- Has a command of a halted core neither begun nor anything on its way? A strand stopped by the halt does not count, nor a command that has
faulted. -/
def Cmd.drained (q : QId) (k : Cmd) : Bool :=
  k.held.isEmpty && k.lands.isEmpty && k.sends.isEmpty && (k.stage ≤ 2 || k.fault || (k.stage == 3 && (match q with | .core _ sel => sel == 0 | _ => false)))

/-- DRAIN of a core under a debug halt (R384): no command of it, on its own queues or a shared one, in stages 3-5 and no write of it on its way. -/
def State.drained_ (s : State) (c : Nat) : Bool :=
  (List.range 6).all (fun q => (s.queue (.core c q)).cmds.all (Cmd.drained (.core c q))) &&
    (sharedQueues (s.ctxOf c)).all (fun q => (s.queue q).cmds.all (fun k => k.pusher != c || k.drained q))

/-- After DRAIN every read of stage SRAM returns the landed bytes of the commands of a halted core (R384). -/
def State.drainSeen (s : State) (c : Nat) : State :=
  if (s.core c).debug && s.drained_ c then s.acquireWhere .device (fun w => w.core == c && isSram w.place.key) else s

/-- HALT (R103): the core halts as a one-core debug halt (24 R384), and its owner receives a halt record. -/
def execHalt (s : State) : Out :=
  seqWord s [] (fun c co => s.precisely c (fun _ =>
    let x := s.ctxOf c
    let s := s.setCore c { co.advance 4 with run := .halted, debug := true }
    let s := s.modCtx x (fun c' => { c' with dbgHalted := (c'.dbgHalted ++ [c]).eraseDups })
    ((s.drainSeen c).record x ⟨8, 0, 0, coreField c (co.pc + 4), 0⟩).endLaunch x))

/-! ### Returning from the handler, with what QCTL and STRCTL asked for (24 R378-R380) -/

/-- A command retires without effect: its counter passes it (R379, 12 R246). -/
def Queue.discard (q : Queue) (gone : Cmd → Bool) : Queue :=
  let kept := q.cmds.filter (fun k => !gone k)
  { q with
    cmds := kept, retired := q.retired ++ (q.cmds.filter gone).map (fun k => (k.num, []))
    count := match kept with | k :: _ => k.num - 1 | [] => q.last }

/-- Discard the command at the head of a stopped queue, with its strand (R378, R379). -/
def State.discardHead (s : State) (q : QId) (p : Cmd → Bool) : State :=
  let qu := s.queue q
  match qu.cmds.find? p with
  | none => s
  | some k =>
    let s := match q with
      | .core c 0 => s.dropStrand c k.uid
      | .crsl x _ => s.modCtx x (fun xx => { xx with crsl := xx.crsl.filter (fun t => t.uid != k.uid) })
      | _ => s
    let s := { s with ms := { s.ms with pins := s.ms.pins.filter (fun p => p.uid != k.uid) } }
    (s.setQueue q (qu.discard (fun j => j.uid == k.uid))).retestAll k.pusher

/-- The shared queue whose command of this core faulted, as CAUSE.QSEL names it (R375). -/
def State.faultedShared (s : State) (c : Nat) : Option QId :=
  let co := s.core c
  let cause := (co.sys 5).toNat
  if slice cause 4 0 = 6 ∧ 6 ≤ slice cause 19 16 then
    some (timelineOf c (s.ctxOf c) (slice cause 19 16) (slice cause 23 20))
  else none

/-- One QCTL bit (R378): bits 0-5 name a per-core queue, bit 8 the faulted command of the shared queue. -/
def State.discardBit (s : State) (c bit : Nat) : State :=
  let s := s.modCore c (fun co => { co with discards := NatSet.mark co.discards bit false })
  if bit < 6 then (if (s.queue (.core c bit)).stop then s.discardHead (.core c bit) (fun _ => true) else s)
  else if bit = 8 then
    match s.faultedShared c with
    | some q => s.discardHead q (fun k => k.fault && k.pusher == c)
    | none => s
  else s

/-- End the faulted strand as at the end of its final iteration (R380, 10 R215): it leaves its sets and its slots are free; its command
goes on to its completion. -/
def State.endFaulted (s : State) (c : Nat) : State :=
  let s := s.modCore c (fun co => { co with endStrand := false })
  match (s.core c).faultStrand.bind (s.core c).strand with
  | none => s
  | some t => (s.endStrand c t).modCore c (fun co => { co with faultStrand := none })

/-- Everything asked for through QCTL and STRCTL since the trap. -/
def State.performRequests (s : State) (c : Nat) : State :=
  let s := ((s.core c).discards.map (·.1)).foldl (fun s b => s.discardBit c b) s
  if (s.core c).endStrand then s.endFaulted c else s

/-- Everything of the core that the trap stopped goes on (R379, R380): its queues, whose commands are checked again, and its strands. -/
def Core.restartAll (co : Core) : Core :=
  let co : Core := { co with queues := co.queues.map (fun e => (e.1, { e.2 with cmds := e.2.cmds.map Cmd.recheck })) }
  { co.restartQueues with vec := { co.vec with strands := co.vec.strands.map Strand.unfault } }

/-- ERET (R102, R379): outside handler mode an illegal instruction; else the requests are performed, every queue that the trap stopped
restarts, and the sequencer goes on at EPC. Where a fault is held, it is taken in the same step: what is stopped stays stopped. While a QCTL
request waits for the cut, ERET waits with it (DEDUCED, log entry 82). -/
def execEret (s : State) : Out :=
  seqWord s [] (fun c co =>
    if co.handler = false then s.illegal c
    else if co.cutting ∧ co.discards ≠ [] then s.stallSeq c .cut
    else s.precisely c (fun _ =>
      let s := s.performRequests c
      let s := match s.faultedShared c with
        | some q => s.setQueue q (s.queue q).restart
        | none => s
      if (s.core c).heldFaults.isEmpty then s.modCore c (fun co => co.restartAll.eret)
      else (s.modCore c (fun co => co.eret)).takeHeld c))

/-- QCTL_DISCARD (24 R378): the command that a QCTL bit names, stopped at the cut, is discarded. -/
def execQctlDiscard (core bit : Nat) (s : State) : Out :=
  eventStep s (fun s => if NatSet.has (s.core core).discards bit ∧ (s.core core).cutting = false then s.discardBit core bit else s)

/-- STRCTL_END_STRAND (24 R380): the faulted strand is ended. -/
def execStrctlEndStrand (core : Nat) (s : State) : Out :=
  eventStep s (fun s => if (s.core core).endStrand then s.endFaulted core else s)

/-! ### The cut (24 R377, R378) -/

/-- A progress word (08 R191). -/
def progressWord (iter step : Nat) : BitVec 64 := BitVec.ofNat 64 (iter % 2 ^ 32 * 2 ^ 32 + step % 128 * 2 ^ 25)

/-- Where a command stands: of a strand kept whole, its iteration; of a command that faulted at a step, that step. -/
def State.progress (s : State) (c : Nat) (k : Cmd) : BitVec 64 :=
  match (s.core c).strand k.uid with
  | some t => progressWord (if t.mode = .drained then k.iter else t.iter) 0
  | none => progressWord k.iter (if k.fault then k.step else 0)

/-- A strand has stopped: it has drained to its boundary or is kept whole (R377, R380). -/
def Strand.stopped (t : Strand) : Bool := t.mode == .kept || t.mode == .drained

/-- Has a command of a stopped queue come to rest: nothing held and nothing on its way, and it has not begun, or stands between iterations, or
has faulted at its step, or its strand has stopped (R377)? A command past its last step completes and signals first. -/
def State.atRest (s : State) (c : Nat) (k : Cmd) : Bool :=
  k.held.isEmpty && k.lands.isEmpty && k.sends.isEmpty && (k.stage ≤ 2 || k.fault || (k.stage == 3 &&
    (match (s.core c).strand k.uid with
      | some t => t.stopped
      | none => (k.step == 0 || k.want.isSome) && k.chSeq.isNone && decide (k.iter < k.iterations))))

/-- Write a command's progress word at entry PROG of the progress table (08 R191). -/
def State.writeProgress (s : State) (x : Nat) (k : Cmd) (w : BitVec 64) : State :=
  { s with ms := s.ms.pokeBytes (physPlace ((s.ctx x).ptab + 8 * k.prog)) (leBytes w.toNat 8) }

/-- The commands of a core's queue that have begun are part way, and their progress words are written (R377; 08 R191). Strands of several VEC
commands may stand part way (09 R210); the word of the first is written last (DESIGN CHOICE where they share an entry, log entry 82). -/
def State.markPart (s : State) (c q : Nat) : State :=
  let begun := fun (k : Cmd) => decide (3 ≤ k.stage) || k.part
  let qu := s.queue (.core c q)
  let s := s.setQueue (.core c q) { qu with cmds := qu.cmds.map (fun k => { k with part := begun k }) }
  (qu.cmds.filter begun).reverse.foldl (fun s k => s.writeProgress (s.ctxOf c) k (s.progress c k)) s

/-- The cut of a core (R378): the per-core queues' counts, which of them have a part-way or faulted command and its progress word, the
faulted command on a shared queue. -/
def State.takeCut (s : State) (c : Nat) : State :=
  let x := s.ctxOf c
  let s := (List.range 6).foldl (fun s q => s.markPart c q) s
  let bits := fun (p : Cmd → Bool) => ((List.range 6).map (fun q =>
    match (s.queue (.core c q)).cmds with | k :: _ => if p k then 2 ^ q else 0 | [] => 0)).sum
  let part := bits (·.part)
  let flt := bits (·.fault)
  let shr := s.faultedShared c
  let sk := shr.bind (fun q => (s.queue q).cmds.find? (fun k => k.fault && k.pusher == c))
  let s := match sk with | some k => s.writeProgress x k (s.progress c k) | none => s
  let cuts := 2 ^ 31 + (if shr.isSome then 2 ^ 16 else 0) + flt * 2 ^ 8 + part
  let co1 := (List.range 6).foldl (fun (co : Core) q =>
      let qu := s.queue (.core c q)
      let w := match qu.cmds with | k :: _ => if k.part then s.progress c k else 0 | [] => 0
      (co.setSys (32 + q) (BitVec.ofNat 64 qu.count)).setSys (40 + q) w) (s.core c)
  s.setCore c { (co1.setSys 38 (BitVec.ofNat 64 cuts)).setSys 46 (match sk with | some k => s.progress c k | none => 0) with
    cutting := false }

/-- CUT_COMPLETE (R377): every per-core queue has stopped. -/
def execCutComplete (core : Nat) (s : State) : Out :=
  eventStep s (fun s =>
    let co := s.core core
    if co.cutting && (List.range 6).all (fun q => (s.queue (.core core q)).cmds.all (fun k => s.atRest core k)) then s.takeCut core
    else s)

/-! ### System registers -/

/-- Wear charged to the context on a core, in 1/1,000 WU (R104, 25 R402). -/
def State.wearCharge (s : State) (c : Nat) : Nat := milliWu (Tbl.get 0 (s.ctx (s.ctxOf c)).charge c)

/-- Is sr a register that SYSR reads (R104, R378)? -/
def sysReadable (sr : Nat) : Bool :=
  decide (sr ≤ 8) || (decide (16 ≤ sr) && decide (sr ≤ 46)) || (decide (48 ≤ sr) && decide (sr ≤ 52))

/-- What SYSR reads; QCTL is write only and reads zero. -/
def State.sysValue (s : State) (c sr : Nat) : BitVec 64 :=
  let co := s.core c
  match sr with
  | 0 => BitVec.ofNat 64 (c * 256 + coordOf c)
  | 1 => BitVec.ofNat 64 (s.ctxOf c)
  | 2 => co.cycle
  | 7 => BitVec.ofNat 64 co.derated.toNat
  | 8 => BitVec.ofNat 64 (s.wearCharge c)
  | 38 => if co.handler then co.sys 38 else co.sys 38 &&& ~~~(BitVec.ofNat 64 (2 ^ 31))
  | 39 => 0
  | _ => co.sys sr

/-- The core's clock moves on between two words (log entry 8). -/
def State.passCycles (s : State) (c : Nat) : State :=
  { s with fresh := s.fresh + 1 }.modCore c (fun co => { co with cycle := co.cycle + 1 + BitVec.ofNat 64 (Config.cyclesPassed s.fresh) })

/-- SYSR (R104): in handler mode sr 32-46 stall until the cut is complete (R378). -/
def execSysr (d : BitVec 5) (sr : BitVec 10) (s : State) : Out :=
  seqWord s [] (fun c co =>
    let r := sr.toNat
    if sysReadable r = false then s.illegal c
    else if co.handler && decide (32 ≤ r) && decide (r ≤ 46) && !bitAt (co.sys 38).toNat 31 then s.stallSeq c .cut
    else
      let s := if r = 2 then s.passCycles c else s
      s.modCore c (fun co => (co.write d (s.sysValue c r) false).advance 4))

/-- SYSW (R104): TVEC, EPC and the scratch registers are written; QCTL and STRCTL ask for a discard and an end of the strand, in
handler mode only (R378); every other register is read-only or absent. A register that the word may not write is illegal before a poisoned s[a]
traps (DESIGN CHOICE, log entry 75). -/
def execSysw (a : BitVec 5) (sr : BitVec 10) (s : State) : Out :=
  seqWord s [a] (fun c co =>
    let r := sr.toNat
    let v := co.reg a
    if r = 3 ∨ r = 4 ∨ (16 ≤ r ∧ r ≤ 31) then
      if co.pois a then s.poisonTrap c else s.setCore c ((co.setSys r v).advance 4)
    else if r = 39 ∨ r = 52 then
      if co.handler = false then s.illegal c
      else if co.pois a then s.poisonTrap c
      else if r = 39 then
        let bits := ([0, 1, 2, 3, 4, 5, 8] : List Nat).filter (fun b => bitAt v.toNat b)
        s.setCore c ({ co with discards := bits.foldl (fun t b => NatSet.mark t b true) co.discards }.advance 4)
      else s.setCore c ({ co with endStrand := co.endStrand || bitAt v.toNat 0 }.advance 4)
    else s.illegal c)

end Sys2Proof.Machine
end

