-- ==== Sys2Proof/Machine/Load.lean ====
section
/-!
DEFINITION. Sys2Proof/Machine/Load.lean: how a word comes to stand where the next step fetches it (log entry 3): a sequencer word at the PC of the
core in focus, in a context that runs on it; a step word in the loop buffer of a command that its queue runs.
-/
namespace Sys2Proof.Machine

/-- A plain translation of the 64 KiB that hold an address. -/
def plainEntry (va : Nat) : LttEntry :=
  { vbase := va / 65536 * 65536, size := 16, pbase := 0, place := 0, comp := 0, cache := false, rowop := false, ft := false, pois := false,
    flip := 0, mb := 0, rw4 := 0 }

/-- The context of a core, which runs on it: its own, or context 0 where it has none. -/
def State.withContext (s : State) (c : Nat) : State :=
  let n := s.ctxOf c
  let s := s.modCore c (fun co => { co with holder := some n })
  s.modCtx n (fun x => { x with st := .running, coreList := if x.coreList.contains c then x.coreList else x.coreList ++ [c] })

/-- A core whose sequencer issues its next word. -/
def Core.issuing (c : Core) : Core :=
  { c with run := .on, wait := none, stall := none, outst := [], heldFaults := [] }

/-- The 8 bytes at the PC of a core hold a sequencer word, and zeros after it; what is not translated becomes so. -/
def State.withSeqBytes (s : State) (c w : Nat) : State :=
  let s := (s.withContext c).modCore c Core.issuing
  let n := s.ctxOf c
  let pc := (s.core c).pc.toNat
  let s := if (s.ctx n).translated pc then s
    else s.modCtx n (fun x => { x with ltt := Tbl.put 4095 (some (plainEntry pc)) (x.ltt.filter (fun e => match e.2 with
      | some e => !e.covers pc | none => true)) })
  match (s.ctx n).place false pc with
  | some p =>
    let m := { s.ms with pendW := s.ms.pendW.filter (fun w => !w.touches p.key 8) }
    { s with ms := (m.markPoison (linesOf p.key 8) false).pokeBytes p (leBytes w 8), sched := .seq c :: s.sched }
  | none => s

/-- A queue runs a command whose body is one step word; everything else of the command is zero. -/
def State.withStepWord (s : State) (q : QId) (c w : Nat) : State :=
  let s := (s.withContext c).modCore c (fun co => { co with debug := false })
  let uid := s.uid + 1
  let k : Cmd := { newCmd (List.replicate 16 0) none c none 0 with
    uid := uid, num := (s.queue q).last + 1, stage := 3, body := [BitVec.ofNat 32 w] }
  let v := s.queue q
  { s with uid := uid, sched := .engine q :: s.sched }.setQueue q
    { v with cmds := k :: v.cmds, last := v.last + 1, stop := false, pre := false }

/-- The queue whose space holds a word that is no sequencer word, in the order of `decodeTableWord`. -/
def stepQueue (c x w : Nat) : Option QId :=
  if (decodeMtx w).isSome then some (.core c 1)
  else if (decodeMvCopy w).isSome then some (.core c 2)
  else if (decodeMvXform w).isSome then some (.core c 3)
  else if (decodeDou w).isSome then some (.dou x 0)
  else if (decodeStash w).isSome then some (.stash x 0)
  else if (decodeCrsl w).isSome then some (.crsl x 0)
  else none

/-- The word of n bits stands where the next step fetches it. -/
def State.placeWord (s : State) (nbits w : Nat) : State :=
  let w := w % 2 ^ nbits % 2 ^ 32
  let c := s.focus
  if (decodeSeq w).isSome then s.withSeqBytes c w
  else match stepQueue c (s.ctxOf c) w with
    | some q => s.withStepWord q c w
    | none => s.withSeqBytes c w

end Sys2Proof.Machine
end

