-- ==== Sys2Proof/Machine/Fmt.lean ====
section
/-!
DEFINITION. Sys2Proof/Machine/Fmt.lean: the number formats of 03_numbers.md, their values, and the one rounding step that
every unit uses (R61-R70). Values are exact; rounding happens once.
-/
namespace Sys2Proof.Machine

/-- How a floating-point format spends its top exponent (R61). -/
inductive FKind where
  | ieee   -- exponent all ones: infinities and NaNs
  | e4m3   -- only the all-ones fraction under the all-ones exponent is NaN; no infinity
  | plain  -- e2m1: every code is finite
  deriving DecidableEq, Repr

/-- A floating-point format of R61. -/
structure FFmt where
  width : Nat
  ebits : Nat
  fbits : Nat
  bias  : Nat
  kind  : FKind
  deriving DecidableEq, Repr

def FFmt.f64  : FFmt := ⟨64, 11, 52, 1023, .ieee⟩
def FFmt.f32  : FFmt := ⟨32, 8, 23, 127, .ieee⟩
def FFmt.bf16 : FFmt := ⟨16, 8, 7, 127, .ieee⟩
def FFmt.f16  : FFmt := ⟨16, 5, 10, 15, .ieee⟩
def FFmt.e4m3 : FFmt := ⟨8, 4, 3, 7, .e4m3⟩
def FFmt.e5m2 : FFmt := ⟨8, 5, 2, 15, .ieee⟩
def FFmt.e2m1 : FFmt := ⟨4, 2, 1, 1, .plain⟩

/-- An element format that a code of R31 names: floating-point or integer. -/
inductive NumFmt where
  | flt (f : FFmt)
  | int (width : Nat) (signed : Bool)
  deriving DecidableEq, Repr

/-- The formats of codes 0-12 (R31); the block formats 13-15 are not element formats. -/
def NumFmt.ofCode : Nat → Option NumFmt
  | 0 => some (.flt .f64) | 1 => some (.flt .f32) | 2 => some (.flt .bf16) | 3 => some (.flt .f16)
  | 4 => some (.flt .e4m3) | 5 => some (.flt .e5m2) | 6 => some (.flt .e2m1)
  | 7 => some (.int 32 true) | 8 => some (.int 16 true) | 9 => some (.int 8 true)
  | 10 => some (.int 32 false) | 11 => some (.int 16 false) | 12 => some (.int 8 false)
  | _ => none

/-- The element format of a block format b8, b5, b4 (R66). -/
def blockElem : Nat → Option FFmt
  | 13 => some .e4m3 | 14 => some .e5m2 | 15 => some .e2m1 | _ => none

def NumFmt.width : NumFmt → Nat
  | .flt f => f.width
  | .int w _ => w

/-- A value of a format: NaN, an infinity, or (−1)^neg × m × 2^e. -/
inductive FVal where
  | nan
  | inf (neg : Bool)
  | fin (neg : Bool) (m : Nat) (e : Int)
  deriving DecidableEq, Repr

/-- The canonical NaN (R62); e2m1 has none and takes +0 (R69). -/
def FFmt.nanBits (f : FFmt) : Nat :=
  match f.kind with
  | .ieee => (2 ^ f.ebits - 1) * 2 ^ f.fbits + 2 ^ (f.fbits - 1)
  | .e4m3 => 0x7F
  | .plain => 0

/-- The exponent of the spacing of subnormals and of the smallest normals. -/
def FFmt.qmin (f : FFmt) : Int := 1 - (f.bias : Int) - f.fbits

/-- The bits of the sign alone. -/
def FFmt.signBits (f : FFmt) (neg : Bool) : Nat := if neg then 2 ^ (f.width - 1) else 0

/-- The code of the largest finite magnitude (R61). -/
def FFmt.maxBits (f : FFmt) : Nat :=
  match f.kind with
  | .ieee => (2 ^ f.ebits - 1) * 2 ^ f.fbits - 1
  | .e4m3 => 0x7E
  | .plain => 7

/-- The code of infinity, where the format has one. -/
def FFmt.infBits (f : FFmt) : Nat := (2 ^ f.ebits - 1) * 2 ^ f.fbits

/-- The value of a code (R61). -/
def FFmt.value (f : FFmt) (bits : Nat) : FVal :=
  let neg := bitAt bits (f.width - 1)
  let ex := (bits / 2 ^ f.fbits) % 2 ^ f.ebits
  let fr := bits % 2 ^ f.fbits
  let top := ex = 2 ^ f.ebits - 1
  if top ∧ f.kind = .ieee then (if fr = 0 then .inf neg else .nan)
  else if top ∧ f.kind = .e4m3 ∧ fr = 2 ^ f.fbits - 1 then .nan
  else if ex = 0 then .fin neg fr f.qmin
  else .fin neg (2 ^ f.fbits + fr) (f.qmin + (ex : Int) - 1)

/-- The largest finite magnitude as a number of steps m × 2^e. -/
def FFmt.maxVal (f : FFmt) : Nat × Int :=
  match f.value f.maxBits with
  | .fin _ m e => (m, e)
  | _ => (0, 0)

/-- Rounding modes (R67). -/
inductive RMode where
  | rne | rtz | rup | rdn | sr
  deriving DecidableEq, Repr

/-- The mode of a code of R67; codes 5-7 round as RNE (05 R109). -/
def RMode.ofCode : Nat → RMode
  | 1 => .rtz | 2 => .rup | 3 => .rdn | 4 => .sr | _ => .rne

/-- An exact finite result before rounding: the magnitude lies in [m, m+1) × 2^e, at m × 2^e when `sticky` is false and
strictly above it when true. A sticky magnitude carries enough bits of m for every destination. -/
structure Exact where
  neg : Bool
  m   : Nat
  e   : Int
  sticky : Bool
  deriving DecidableEq, Repr

/-- floor(log2 m) for m > 0. -/
def flog2 (m : Nat) : Nat := Nat.log2 m

/-- m × 2^k for k ≥ 0, floor division otherwise. -/
def shiftInt (m : Nat) (k : Int) : Nat :=
  match k with
  | .ofNat n => m * 2 ^ n
  | .negSucc n => m / 2 ^ (n + 1)

/-- Exact sticky: something was lost by shiftInt. -/
def lostInt (m : Nat) (k : Int) : Bool :=
  match k with
  | .ofNat _ => false
  | .negSucc n => m % 2 ^ (n + 1) != 0

/-- Round a magnitude to a whole multiple of 2^q. Answers the multiple and whether something was lost (R67, R68). -/
def roundAt (mode : RMode) (u : Nat) (x : Exact) (q : Int) : Nat × Bool :=
  match x.e - q with
  | .ofNat k => (x.m * 2 ^ k, x.sticky)
  | .negSucc k' =>
    let k := k' + 1
    let n := x.m / 2 ^ k
    let r := x.m % 2 ^ k
    let inexact := r != 0 || x.sticky
    let half := 2 ^ (k - 1)
    let up := match mode with
      | .rne => r > half || (r == half && (x.sticky || n % 2 == 1))
      | .rtz => false
      | .rup => inexact && !x.neg
      | .rdn => inexact && x.neg
      | .sr => r * 2 ^ 32 / 2 ^ k + u ≥ 2 ^ 32
    (if up then n + 1 else n, inexact)

/-- The flags of R74 that one element raises, and whether it counts as saturated. -/
structure Flags where
  inv : Bool := false
  of  : Bool := false
  uf  : Bool := false
  inx : Bool := false
  dz  : Bool := false
  nanp : Bool := false
  poison : Bool := false
  sat : Nat := 0
  deriving DecidableEq, Repr

def Flags.none : Flags := {}

/-- Both sets of flags. -/
def Flags.or (a b : Flags) : Flags :=
  { inv := a.inv || b.inv, of := a.of || b.of, uf := a.uf || b.uf, inx := a.inx || b.inx,
    dz := a.dz || b.dz, nanp := a.nanp || b.nanp, poison := a.poison || b.poison, sat := a.sat + b.sat }

def Flags.invalid : Flags := { inv := true }

/-- The code of the magnitude n × 2^q, already rounded to the format's spacing (q the spacing there). -/
def FFmt.encodeMag (f : FFmt) (n : Nat) (q : Int) : Nat :=
  -- n counts steps of 2^q with q ≥ qmin; steps of 2^qmin from zero give the code for subnormals and, one binade at a
  -- time, for normals
  let k := (q - f.qmin).toNat
  if n < 2 ^ f.fbits then n else k * 2 ^ f.fbits + n

/-- Is the magnitude n × 2^q above the largest finite value? -/
def FFmt.overflows (f : FFmt) (n : Nat) (q : Int) : Bool :=
  let (mm, me) := f.maxVal
  if q ≥ me then n * 2 ^ (q - me).toNat > mm else n > mm * 2 ^ (me - q).toNat

/-- The result of an overflow, or of an infinite input, and its flags (R69). `sat` is the saturation in force for the
8-bit formats; `fromInf` says that the input was infinite. -/
def FFmt.overflow (f : FFmt) (mode : RMode) (sat neg fromInf : Bool) : Nat × Flags :=
  let sg := f.signBits neg
  match f.kind with
  | .plain => (sg + f.maxBits, { of := true, inx := !fromInf, sat := 1 })
  | .e4m3 =>
    if sat then (sg + f.maxBits, { of := true, inx := !fromInf, sat := 1 })
    else (f.nanBits, { of := true, inx := !fromInf, nanp := true })
  | .ieee =>
    if f.width = 8 ∧ sat then (sg + f.maxBits, { of := true, inx := !fromInf, sat := 1 })
    else if fromInf then (sg + f.infBits, {})
    else
      let toMax := if f.width = 8 then false else match mode with
        | .rtz => true | .rup => neg | .rdn => !neg | _ => false
      (sg + (if toMax then f.maxBits else f.infBits), { of := true, inx := true })

/-- Round an exact magnitude to a floating-point format (R67-R69). -/
def FFmt.roundExact (f : FFmt) (mode : RMode) (sat : Bool) (u : Nat) (x : Exact) : Nat × Flags :=
  if x.m = 0 ∧ x.sticky = false then (f.signBits x.neg, {})
  else
    let qn : Int := (if x.m = 0 then x.e else x.e + flog2 x.m) - f.fbits   -- spacing of the value's own binade
    let q := if qn < f.qmin then f.qmin else qn
    let (n, inexact) := roundAt mode u x q
    -- a carry into the next binade
    let (n, q) := if n ≥ 2 ^ (f.fbits + 1) then (n / 2, q + 1) else (n, q)
    if f.overflows n q then f.overflow mode sat x.neg false
    else
      -- tiny after rounding (R67): the value rounded with an unbounded exponent is below the smallest normal
      let (n', _) := roundAt mode u x qn
      let tiny := qn < f.qmin ∧ ¬ (n' ≥ 2 ^ (f.fbits + 1) ∧ qn + 1 ≥ f.qmin)
      (f.signBits x.neg + f.encodeMag n q, { inx := inexact, uf := inexact && decide tiny })

/-- Round an exact value to an integer and clamp it (R69). -/
def roundInt (width : Nat) (signed : Bool) (mode : RMode) (u : Nat) (x : Exact) : Nat × Flags :=
  let (n, inexact) := roundAt mode u x 0
  let v : Int := if x.neg then -(n : Int) else n
  let lo : Int := if signed then -(2 ^ (width - 1) : Nat) else 0
  let hi : Int := if signed then (2 ^ (width - 1) - 1 : Nat) else (2 ^ width - 1 : Nat)
  let enc := fun (z : Int) => (z % (2 ^ width : Nat)).toNat
  if v < lo then (enc lo, { inv := true, of := true, sat := 1 })
  else if v > hi then (enc hi, { inv := true, of := true, sat := 1 })
  else (enc v, { inx := inexact })

/-- Convert a value to a format, rounding once (R69). -/
def NumFmt.convert (t : NumFmt) (mode : RMode) (sat : Bool) (u : Nat) (v : FVal) : Nat × Flags :=
  match t, v with
  | .flt f, .nan => if f.kind = .plain then (0, { inv := true }) else (f.nanBits, { nanp := true })
  | .flt f, .inf neg => f.overflow mode sat neg true
  | .flt f, .fin neg m e => f.roundExact mode sat u ⟨neg, m, e, false⟩
  | .int _ _, .nan => (0, { inv := true })
  | .int w s, .inf neg =>
    let hi := if s then 2 ^ (w - 1) - 1 else 2 ^ w - 1
    let lo := if s then 2 ^ (w - 1) else 0
    (if neg then lo else hi, { inv := true, of := true, sat := 1 })
  | .int w s, .fin neg m e => roundInt w s mode u ⟨neg, m, e, false⟩

/-- The value of a code in a format; integers are exact values too. -/
def NumFmt.value (t : NumFmt) (bits : Nat) : FVal :=
  match t with
  | .flt f => f.value bits
  | .int w s =>
    if s ∧ bitAt bits (w - 1) then .fin true (2 ^ w - bits % 2 ^ w) 0 else .fin false (bits % 2 ^ w) 0

/-- A block scale s24 (R65): zero, invalid, or a value. -/
inductive Scale where
  | zero
  | invalid
  | val (m : Nat) (e : Int)
  deriving DecidableEq, Repr

def Scale.ofBits (x : Nat) : Scale :=
  let ex := (x / 65536) % 256
  if ex = 0 then .zero else if ex = 255 then .invalid else .val (65536 + x % 65536) ((ex : Int) - 127 - 16)

/-- x / s as an exact value with `extra` bits below its leading bit (all the bits any rounding needs). -/
def divExact (neg : Bool) (m : Nat) (e : Int) (dm : Nat) (de : Int) : Exact :=
  -- scale the numerator so that the quotient has at least 100 significant bits
  let k := flog2 dm + 101
  let num := m * 2 ^ k
  ⟨neg, num / dm, e - de - k, num % dm != 0⟩

/-- One advance of the xorshift generator (R68). -/
def srAdvance (x : Nat) : Nat :=
  let x := (x ^^^ (x <<< 13)) % 2 ^ 32
  let x := x ^^^ (x >>> 17)
  (x ^^^ (x <<< 5)) % 2 ^ 32

/-- The seed of a lane for the selector k (R68). -/
def srSeed (k lane : Nat) : Nat := (0x9E3779B9 * (k * 128 + lane + 1)) % 2 ^ 32

/-- The scale that QNT forms for the largest magnitude amax = am × 2^ae and the largest element value L = lm × 2^le
(R70): bits of the s24. -/
def qntScale (am : Nat) (ae : Int) (lm : Nat) (le : Int) : Nat :=
  if am = 0 then 0
  else
    -- g = (am / lm) × 2^(ae - le); find E with 2^(E-127) ≤ g < 2^(E-126)
    let fl : Int :=
      let k : Int := (flog2 am : Int) - flog2 lm
      -- floor(log2(am/lm)) is k or k - 1
      if (if k ≥ 0 then am ≥ lm * 2 ^ k.toNat else am * 2 ^ (-k).toNat ≥ lm) then k else k - 1
    let ex : Int := fl + ae - le + 127
    -- M = ceil((am × 2^16 / (lm × 2^fl)) ) - 65536
    let num := if fl ≥ 0 then am * 65536 else am * 65536 * 2 ^ (-fl).toNat
    let den := if fl ≥ 0 then lm * 2 ^ fl.toNat else lm
    let mm := ceilDiv num den - 65536
    let (ex, mm) := if mm = 65536 then (ex + 1, 0) else (ex, mm)
    let (ex, mm) := if ex < 1 then (1, 0) else (ex, mm)
    let (ex, mm) := if ex > 254 then (254, 65535) else (ex, mm)
    ex.toNat * 65536 + mm

end Sys2Proof.Machine
end

