-- ==== Sys2Proof/Machine/Flags.lean ====
section
/-!
DEFINITION. Sys2Proof/Machine/Flags.lean: the status word of 03 R73 and how the flags of R74 enter it. The machine has no condition
flags besides it: sequencer words set none (04 R79).
-/
namespace Sys2Proof.Machine

/-- The sticky bits 6:0 that a set of flags raises (R73). -/
def Flags.bits (f : Flags) : Nat :=
  f.inv.toNat + 2 * f.of.toNat + 4 * f.uf.toNat + 8 * f.inx.toNat + 16 * f.dz.toNat + 32 * f.nanp.toNat + 64 * f.poison.toNat

/-- SATCNT of a status word (R73). -/
def satcnt (w : BitVec 64) : Nat := w.toNat / 2 ^ 32 % 2 ^ 16
/-- RERUN of a status word (R73). -/
def rerunCount (w : BitVec 64) : Nat := w.toNat / 2 ^ 48

/-- A status word from its parts; the counts stop at 0xFFFF (R73). -/
def statusWord (rerun sat bits : Nat) : BitVec 64 :=
  BitVec.ofNat 64 (min rerun 0xFFFF * 2 ^ 48 + min sat 0xFFFF * 2 ^ 32 + bits % 128)

/-- OR flags into a sticky status word and add its counts (R73, R113). -/
def addFlags (w : BitVec 64) (f : Flags) : BitVec 64 :=
  statusWord (rerunCount w) (satcnt w + f.sat) (w.toNat % 128 ||| f.bits)

/-- One more checksum rerun (R73, 07 R172). -/
def addRerun (w : BitVec 64) : BitVec 64 := statusWord (rerunCount w + 1) (satcnt w) (w.toNat % 128)

/-- Both status words of two parts of one command. -/
def joinStatus (a b : BitVec 64) : BitVec 64 :=
  statusWord (rerunCount a + rerunCount b) (satcnt a + satcnt b) (a.toNat % 128 ||| b.toNat % 128)

end Sys2Proof.Machine
end

