-- ==== Sys2Proof/Machine/Engine.lean ====
section
/-!
DEFINITION. Sys2Proof/Machine/Engine.lean: what every engine that runs step words shares (08 R194, R195): reads and writes of a command
through the table of its context, whole-line marks, how a step ends, command faults (02 R60, 24 R377), the next step of a body.
-/
namespace Sys2Proof.Machine

/-! ### A command in its queue -/

/-- Put a command back. -/
def State.putCmd (s : State) (q : QId) (k : Cmd) : State := s.modCmd q k.uid (fun _ => k)

/-- The context that a command works for. -/
def State.cmdCtx (s : State) (q : QId) : Nat := s.queueCtx q

/-- The streams of a step at the command's present iteration (08 R185). -/
def Cmd.here (k : Cmd) (st : Nat) : Int := k.addr st k.iter

/-- OR flags into the status word of a command (03 R74). -/
def Cmd.flag (k : Cmd) (f : Flags) : Cmd := { k with status := addFlags k.status f }

/-! ### How a step fails -/

/-- Why a step does not take effect: a command fault at the step (R60), a fatal context error at an address (04 R81), consumed poison of
lines (24 R388), a malformed stream with the segment's address and failure number (18 R315), or it waits, with a state that records its
wait. `after`: what the step did before it failed stands. `paused`: a channel of HBM pauses for a lane repair, and the step waits as it was
(22 R368). -/
inductive StepErr where
  | fault
  | fatal (addr : Nat)
  | poison (pages : List Nat)
  | malformed (addr d : Nat)
  | wait (s : State)
  | paused
  | after (s : State) (k : Cmd) (e : StepErr)

/-- Does a step wait for a paused channel? -/
def StepErr.waitsChannel : StepErr → Bool
  | .paused => true
  | .after _ _ e => e.waitsChannel
  | _ => false

/-- What a step makes: the state and the command. -/
abbrev StepRes := Except StepErr (State × Cmd)

/-- The meaning of a step word. -/
abbrev EngOp := QId → Cmd → State → StepRes

/-- Go on only when a condition holds; else a command fault at the step. -/
def demand (b : Bool) : Except StepErr Unit := if b then .ok () else .error .fault

/-- A formed address must lie in the 56-bit space (08 R185). -/
def asAddr (a : Int) : Except StepErr Nat := if 0 ≤ a ∧ a < 2 ^ 56 then .ok a.toNat else .error (.fatal (a.toNat % 2 ^ 64))

/-- An address of the step at stream st, which must be a multiple of `al`. -/
def Cmd.at_ (k : Cmd) (st al : Nat) : Except StepErr Nat := do
  let a ← asAddr (k.here st)
  demand (a % al = 0)
  .ok a

/-! ### Engine accesses -/

/-- The step word of a queue's own space that some bits are (02 R57-R59). -/
def decodeStep (q : QId) (w : Nat) : Option Instr :=
  (match q with
    | .core _ sel => if sel = 1 then decodeMtx w else if sel = 2 ∨ sel = 4 then decodeMvCopy w else if sel = 3 ∨ sel = 5 then decodeMvXform w else none
    | .stash _ _ => decodeStash w
    | .crsl _ _ => decodeCrsl w
    | .dou _ _ => decodeDou w).filter Instr.wf

/-- The value of a 12-bit count field: 0 encodes 4,096 (02 R59). -/
def count12 (n : BitVec 12) : Nat := if n = 0 then 4096 else n.toNat

/-- Width in bits of the elements of a plain format code. -/
def codeBits (fmt : Nat) : Nat := match NumFmt.ofCode fmt with | some f => f.width | none => 8

/-- A byte with the poison of the line it was read from. -/
abbrev PByte := Byte × Bool

/-- Pieces (address, length) of a range, each inside one 64-byte line. The fuel bounds their number. -/
def linePieces (va : Nat) : Nat → Nat → List (Nat × Nat)
  | 0, _ => []
  | f + 1, n => if n = 0 then [] else (va, min n (64 - va % 64)) :: linePieces (va + min n (64 - va % 64)) f (n - min n (64 - va % 64))

def piecesOf (va n : Nat) : List (Nat × Nat) := linePieces va (n / 64 + 2) n

/-! ### Reads and writes -/

/-- What an engine read of a command meets besides the machine's pending writes: a byte that the present step or a later one writes may be read
old or new (08 R194), unit by unit (13 R256). -/
def Cmd.reads (k : Cmd) (m : MemSys) : MemSys := { m with pendW := m.pendW ++ k.ahead.map (·.2) }

/-- An engine read of one piece in the live frame (13 R256-R259, 15 R288). -/
def State.engPiece (s : State) (k : Cmd) (x va n : Nat) : Except StepErr (List PByte × State) :=
  match (s.ctx x).place false va with
  | none => .error (.fatal va)
  | some p =>
    if s.ms.pausedIn p n then .error .paused
    else
    let s := if isRemote p.key then (linesOf p.key n).foldl State.askHome s else s
    let s := { s with ms := s.ms.checkBlock p }
    -- a handle's FE wait acquires the writes of single lines (07 R162)
    let own := k.lineAcq.filter (fun e => e.1 == lineOf p.key)
    let acq := k.acq ++ (own.map (fun e => e.2.1)).flatten
    let see := own.foldl (fun m e => max m e.2.2) k.see
    let (bs, f) := (k.reads s.ms).readEngine k.uid acq see p n s.fresh
    let bad := s.ms.poisoned p
    .ok (bs.map (fun b => (b, bad)), { s with fresh := f })

/-- An engine read of n bytes at an address. -/
def State.engRead (s : State) (k : Cmd) (x va n : Nat) : Except StepErr (List PByte × State) :=
  (piecesOf va n).foldlM (fun (acc : List PByte × State) pc => do
    let (bs, s') ← acc.2.engPiece k x pc.1 pc.2
    .ok (acc.1 ++ bs, s')) ([], s)

def pbytes (bs : List PByte) : List Byte := bs.map (·.1)
def anyBad (bs : List PByte) : Bool := bs.any (·.2)
def clean (bs : List Byte) : List PByte := bs.map (fun b => (b, false))

/-- The lines that the poisoned ones among some bytes from an address up came from. -/
def State.poisonKeys (s : State) (x va : Nat) (bs : List PByte) : List Nat :=
  (((bs.mapIdx (fun i b => (i, b.2))).filter (·.2)).filterMap (fun e => ((s.ctx x).place false (va + e.1)).map (fun p => lineOf p.key))).eraseDups

/-- Bytes that the engine must act on: the poison of their lines is consumed (24 R388). -/
def State.consume (s : State) (x va : Nat) (bs : List PByte) : Except StepErr (List Byte) :=
  if anyBad bs then .error (.poison (s.poisonKeys x va bs)) else .ok (pbytes bs)

/-- 64-byte pieces of bytes that came from poisoned lines. -/
def poisonPieces (bs : List PByte) : List Nat :=
  ((chunks 64 (bs.length / 64) bs).mapIdx (fun i c => (i, anyBad c))).filterMap (fun e => if e.2 then some e.1 else none)

/-- Bytes with the poison of their 64-byte pieces. -/
def withPieces (bytes : List Byte) (poison : List Nat) : List PByte :=
  ((chunks 64 (bytes.length / 64) bytes).mapIdx (fun i c => c.map (fun b => (b, poison.contains i)))).flatten

/-- A command of the matrix engine. -/
def isMtxCmd (k : Cmd) : Bool := k.eng == 1

/-- What one piece of a write leaves in the command's record of written lines: bit j for byte j, bit 128 for data of a poisoned line. A line
that is whole begins anew. Answers the record and whether the line is whole and whether it is whole and clean. -/
def Cmd.coverLine (k : Cmd) (p : Place) (n : Nat) (taint : Bool) : Cmd × Bool × Bool :=
  let l := lineOf p.key
  let len := lineLen p.key
  let new := Tbl.get 0 k.cover l ||| ((2 ^ n - 1) * 2 ^ (p.key - l)) ||| (if taint then 2 ^ 128 else 0)
  let whole := new % 2 ^ len == 2 ^ len - 1
  ({ k with cover := Tbl.set 0 k.cover l (if whole then 0 else new) }, whole, whole && decide (new < 2 ^ 128))

/-- An engine write of one piece at its place: its units are pending until acquired; a stage-SRAM line that the command has wholly written
becomes full, but for the matrix engine (R195, 07 R162); poison goes with the data and leaves a line written whole and clean (24 R405). `ord`: it stands after the earlier
writes of its own command and before its later accesses. `uid` names the write for those who acquire it. -/
def State.engPutAt (s : State) (k : Cmd) (uid : Nat) (ord : Bool) (p : Place) (bs : List PByte) : State × Cmd :=
  let taint := anyBad bs
  let (k, whole, cleanLine) := k.coverLine p bs.length taint
  let (data, f) := if ord then (pbytes bs, s.fresh) else s.ms.writtenTwice uid p (pbytes bs) s.fresh
  let m := s.ms.writeEngine uid k.pusher ord p data
  let m := if taint then m.markPoison [lineOf p.key] true
    else if cleanLine && !m.rangePois p then m.markPoison [lineOf p.key] false else m
  let m := if whole && isSram p.key && !isMtxCmd k then m.setFull (lineOf p.key) true [uid] else m
  let s : State := { s with ms := m, fresh := f }
  let s := if isRemote p.key then s.send (.store (p.key / 2 ^ 52 - 1) (p.key % 2 ^ 52) 0 data) else s
  (s, if taint then k.flag { poison := true } else k)

/-- An engine write of one piece, to the shadow frame inside a task, which marks the region (15 R288). -/
def State.engPut (s : State) (k : Cmd) (x va : Nat) (ord : Bool) (bs : List PByte) : StepRes :=
  let xx := s.ctx x
  match xx.place k.task.isSome va with
  | none => .error (.fatal va)
  | some p =>
    if s.ms.pausedIn p bs.length then .error .paused
    else
    let marked := match k.task with
      | some t => if xx.flipOf va = 0 then some xx else xx.markFlip (xx.flipOf va) t
      | none => some xx
    match marked with
    | none => .error .fault
    | some x' => .ok ((s.setCtx x x').engPutAt k k.uid ord p bs)

/-- An engine write of bytes at an address. -/
def State.engWriteOrd (s : State) (k : Cmd) (x va : Nat) (ord : Bool) (bs : List PByte) : StepRes :=
  (piecesOf va bs.length).foldlM (fun (acc : State × Cmd) pc =>
    acc.1.engPut acc.2 x pc.1 ord ((bs.drop (pc.1 - va)).take pc.2)) (s, k)

def State.engWrite (s : State) (k : Cmd) (x va : Nat) (bs : List PByte) : StepRes := s.engWriteOrd k x va false bs

/-! ### The next step of a command -/

/-- The command goes past the step it ran: to the next word, the next iteration, or stage 4 (R188, R194). -/
def Cmd.next (k : Cmd) : Cmd :=
  if k.step + 1 < k.body.length then { k with step := k.step + 1 }
  else if k.iter + 1 < k.iterations then { k with step := 0, iter := k.iter + 1 }
  else { k with step := 0, iter := k.iterations, stage := 4 }

/-- The command of a queue that stage 3 runs. -/
def Queue.running (q : Queue) : Option Cmd := q.cmds.find? (fun k => k.stage == 3)

/-- Can a queue run a step: once stopped or pre-empted, only within an iteration that has begun (24 R377, R381)? -/
def Queue.canRun (q : Queue) (k : Cmd) : Bool := ((!q.stop && !q.pre) || (k.step != 0 && k.want.isNone) || k.chSeq.isSome) && !k.fault

/-- A fault that a command raises stops its queue with its progress word, and the pushing core takes it (24 R375, R377; 02 R60); held results of
earlier steps are still committed (07 R160). -/
def State.faultAt (s : State) (q : QId) (uid cls : Nat) (tval : BitVec 64) (detail : Nat) : State :=
  let s := s.modCmd q uid (fun k => { k with fault := true, part := decide (3 ≤ k.stage) || k.part })
  let s := s.setQueue q { s.queue q with stop := true }
  match (s.queue q).cmds.find? (fun k => k.uid == uid) with
  | none => s
  | some k =>
    -- its lines are unpinned (07 R163)
    let s := { s with ms := { s.ms with pins := s.ms.pins.filter (fun p => p.uid != uid || k.held.any (fun h => h.pins.contains p.line)) } }
    let s := (s.writeProgress (s.cmdCtx q) k (progressWord k.iter k.step)).drainSeen k.pusher
    s.raiseFault k.pusher ⟨cls, tval, qsel q, detail, none⟩

/-- A command fault: TVAL is the command's number (24 R376). -/
def State.cmdFault (s : State) (q : QId) (k : Cmd) : State := s.faultAt q k.uid 6 (BitVec.ofNat 64 k.num) 0

/-- An engine loses its context (24 R388, R389). -/
def State.engLoss (s : State) (q : QId) (k : Cmd) (cls addr : Nat) (pages : List Nat) : State :=
  s.loseContext (s.cmdCtx q) cls (BitVec.ofNat 64 addr) (coreField k.pusher 0) pages s.mod.self

/-- How a step that does not take effect ends, by what it says. -/
def stepEnds (q : QId) : StepErr → Cmd → State → State
  | .fault, k, s => s.cmdFault q k
  | .fatal a, k, s => s.engLoss q k 12 a []
  | .poison pages, k, s => s.engLoss q k 10 0 pages
  | .malformed a d, k, s => s.faultAt q k.uid 7 (BitVec.ofNat 64 a) d
  | .wait s', _, _ => s'
  | .paused, _, s => s
  | .after s' k' e, _, _ => stepEnds q e k' (s'.putCmd q k')

/-- How a step that does not take effect ends; one that waits for a channel leaves everything as it was. -/
def stepFails (q : QId) (e : StepErr) (k : Cmd) (s : State) : State := if e.waitsChannel then s else stepEnds q e k s

/-! ### Shared engines (08 R187) -/

def isShared : QId → Bool | .core _ _ => false | _ => true

/-- The queue of the same engine that serves another context. -/
def queueFor (y : Nat) : QId → QId
  | .core c sel => .core c sel
  | .stash _ d => .stash y d
  | .crsl _ d => .crsl y d
  | .dou _ d => .dou y d

/-- Can a queue run a step of a command? A command of a core under a debug halt that has begun runs to completion, whatever stops its shared
queue (24 R384). -/
def State.runs (s : State) (q : QId) (k : Cmd) : Bool :=
  (s.queue q).canRun k || (isShared q && (s.core k.pusher).debug && !(s.queue q).stop && !k.fault)

/-- Does another context's command run on the shared engine of a queue? -/
def State.othersRun (s : State) (q : QId) : Bool :=
  ((List.range Config.contexts).filter (fun y => y != s.queueCtx q)).any (fun y =>
    (s.queue (queueFor y q)).cmds.any (fun k => k.stage == 3 && s.runs (queueFor y q) k))

/-- Is it this queue's turn on its engine? A shared one runs one command at a time; after a resumption that of the context it serves goes on
first. -/
def State.engineHere (s : State) (q : QId) : Bool :=
  !isShared q || Tbl.get 0 s.mod.served (sharedKey q) == s.queueCtx q + 1 || !s.othersRun q

/-- The engine serves this context. -/
def State.serve (s : State) (q : QId) : State :=
  if isShared q then { s with mod := { s.mod with served := Tbl.set 0 s.mod.served (sharedKey q) (s.queueCtx q + 1) } } else s

/-- One step of the command that a queue runs. -/
def State.engineTurn (s : State) (q : QId) (op : EngOp) : State :=
  match (s.queue q).running with
  | none => s
  | some k =>
    if s.runs q k && s.engineHere q then
      match op q k (s.serve q) with
      | .ok (s', k') => s'.putCmd q k'.next
      | .error e => stepFails q e k s
    else s

/-! ### What the steps of a command write (08 R194) -/

/-- What a command's copies that have not landed will write to stage SRAM, from one on. -/
def Cmd.landWrites (k : Cmd) (from_ : Nat) : List EngineWrite :=
  (((k.lands.drop from_).filter (fun l => !l.toReg)).map (fun l => unitPieces (fun p bs => ⟨p, bs, k.uid, false, false, false, k.pusher⟩)
    (physPlace (sramBase + l.core * sliceStep + l.offs)) l.bytes.length (pbytes l.bytes))).flatten

/-- What the present step of a queue's command and the later ones write, each with the number of steps until then, as they would run from here on;
`ready` is what lets a later step go on. What a later step must see is not read before it (R202). The fuel is the number of steps. -/
def futureWrites (ops : Instr → Option EngOp) (ready : State → State) (q : QId) : Nat → Nat → State → List (Nat × EngineWrite)
  | 0, _, _ => []
  | f + 1, j, s =>
    match (s.queue q).running with
    | none => []
    | some k =>
      match ((k.body[k.step]?).bind (fun w => decodeStep q w.toNat)).bind ops with
      | none => []
      | some op =>
        match op q k s with
        | .ok (s', k') =>
          ((s'.ms.pendW.drop s.ms.pendW.length ++ k'.landWrites k.lands.length).filter (fun w => !w.done)).map (fun w => (j, w)) ++
            futureWrites ops ready q f (j + 1) (ready (s'.putCmd q k'.next))
        | .error _ => []

/-- The command that a queue runs knows what its steps write. -/
def State.lookAhead (s : State) (ops : Instr → Option EngOp) (ready : State → State) (q : QId) : State :=
  match (s.queue q).running with
  | some k => s.putCmd q { k with ahead := futureWrites ops ready q ((k.iterations - k.iter) * k.body.length) 0 s }
  | none => s

/-- … and knows it no more. -/
def State.forgetAhead (s : State) (q : QId) : State :=
  s.setQueue q { s.queue q with cmds := (s.queue q).cmds.map (fun k => { k with ahead := [] }) }

/-- Does a queue belong to a mover's copy or transform engine, a DOU, a stash engine, a carousel, a matrix engine (02 R44)? -/
def isMvCopy : QId → Bool | .core _ sel => sel == 2 || sel == 4 | _ => false
def isMvXform : QId → Bool | .core _ sel => sel == 3 || sel == 5 | _ => false
def isDou : QId → Bool | .dou _ _ => true | _ => false
def isStash : QId → Bool | .stash _ _ => true | _ => false
def isCrsl : QId → Bool | .crsl _ _ => true | _ => false
def isMtx : QId → Bool | .core _ sel => sel == 1 | _ => false

/-- A step word: the agent must be an engine of the word's space (02 R57). -/
def stepWord (fits : QId → Bool) (op : EngOp) (s : State) : Out :=
  match s.who with
  | .engine q => if fits q then .next (s.engineTurn q op) else .fault .wrongAgent
  | _ => .fault .wrongAgent

end Sys2Proof.Machine
end

