-- ==== Sys2Proof/Machine/Stash.lean ====
section
/-!
DEFINITION. Sys2Proof/Machine/Stash.lean: the stash engine (08 R206, 16 R291-R298) and the two ends of tensor channels (16 R300-R305).
-/
namespace Sys2Proof.Machine

/-! ### Names, classes, room -/

/-- Does an entry carry a name? -/
def Stashed.named (e : Stashed) (die stage tag slot : Nat) : Bool :=
  e.die == die && e.stage == stage && e.tag == tag && e.slot == slot

def Ctx.stashed (x : Ctx) (die stage tag slot : Nat) : Option Stashed := x.stash.find? (fun e => e.named die stage tag slot)
def Ctx.unstash (x : Ctx) (die stage tag slot : Nat) : Ctx := { x with stash := x.stash.filter (fun e => !e.named die stage tag slot) }

/-- Bytes of a tensor that are resident in the store (R297). -/
def Stashed.resident (e : Stashed) : Nat :=
  match e.state with
  | .present n _ _ spill pref => if spill = 0 ∨ pref then 4096 * n else 0
  | .dropped => 0
/-- Bytes it takes in a backing of a class. -/
def Stashed.backing (e : Stashed) (cls : Nat) : Nat :=
  match e.state with
  | .present _ _ _ spill _ => if e.cls = cls then spill else 0
  | .dropped => 0

/-- Resident bytes of a stage (R297). -/
def Ctx.residentBytes (x : Ctx) (stage : Nat) : Nat := ((x.stash.filter (fun e => e.stage == stage)).map Stashed.resident).sum
/-- Bytes in a die's backing of a class. -/
def Ctx.backingBytes (x : Ctx) (die cls : Nat) : Nat := ((x.stash.filter (fun e => e.die == die)).map (fun e => e.backing cls)).sum

/-- Sectors of a spilled block (R295): the fewest of methods 1-3, uncompressed when none is below 16. -/
def spillSectors (blk : List Byte) : Nat :=
  (([1, 2, 3].filterMap (fun m => compressForm m blk)).map (fun f => sectors f.length)).foldl min 16
/-- Bytes of a spilled tensor: its sectors and its metadata (R293, R295). -/
def spillBytes (n : Nat) (bytes : List Byte) : Nat := ((chunks 4096 n bytes).map (fun b => 256 * spillSectors b + 8)).sum

/-- A put enters the stash (R293, R294): the old tensor goes first, then the class rule applies. -/
def Ctx.enterStash (x : Ctx) (st : Stage) (die stage tag slot n : Nat) (bytes : List Byte) (poison : List Nat) : Ctx :=
  let x := x.unstash die stage tag slot
  let add := fun (cls : Nat) (v : StashState) => { x with stash := x.stash ++ [⟨die, stage, tag, slot, cls, v⟩] }
  let spill := spillBytes n bytes
  let room := fun (cls size : Nat) => decide (x.backingBytes die cls + spill ≤ size * 2 ^ 20)
  if st.cls = 0 ∧ x.residentBytes stage + 4096 * n ≤ st.quota * 2 ^ 16 then add 0 (.present n bytes poison 0 false)
  else if st.cls ≤ 1 ∧ room 1 (x.hbk.getD die 0) then add 1 (.present n bytes poison spill false)
  else if st.cls ≤ 2 ∧ room 2 (x.tbk.getD die 0) then add 2 (.present n bytes poison spill false)
  else add 3 .dropped

/-- A put of a context takes effect. -/
def State.putStash (s : State) (x die stage tag slot n : Nat) (bytes : List Byte) (poison : List Nat) : State :=
  match s.stage x stage with
  | some st => s.modCtx x (fun c => c.enterStash st die stage tag slot n bytes poison)
  | none => s

/-- SDROP of a name (R294, R265): a tensor is discarded; a name that holds none is recorded as dropped. -/
def Ctx.dropStash (x : Ctx) (die stage tag slot : Nat) : Ctx :=
  match x.stashed die stage tag slot with
  | some e => (match e.state with
    | .present _ _ _ _ _ => x.unstash die stage tag slot
    | .dropped => x)
  | none => { x with stash := x.stash ++ [⟨die, stage, tag, slot, 3, .dropped⟩] }

/-- Prefetch of an entry (R296): only a spilled tensor, only within the quota. -/
def Ctx.prefetch (x : Ctx) (st : Stage) (e : Stashed) : Ctx :=
  match e.state with
  | .present n bytes poison spill pref =>
    if spill ≠ 0 ∧ pref = false ∧ x.residentBytes e.stage + 4096 * n ≤ st.quota * 2 ^ 16 then
      { x with stash := mapFirst (fun y => y.named e.die e.stage e.tag e.slot) (fun y => { y with state := .present n bytes poison spill true }) x.stash }
    else x
  | .dropped => x

/-- A block of a spilled tensor fails its check when it is read back (R295): its lines land poisoned. A tensor that has been brought back has
been read before. -/
def Ctx.stashError (x : Ctx) (die stage tag slot block : Nat) : Ctx :=
  { x with stash := mapFirst (fun y => y.named die stage tag slot) (fun y =>
      { y with state := match y.state with
          | .present n bytes poison spill false =>
            if spill ≠ 0 ∧ block < n then .present n bytes ((poison ++ upFrom (64 * block) 64).eraseDups) spill false else y.state
          | st => st }) x.stash }

/-- The record of R206. -/
def stashRecord (state cls size : Nat) : Nat := cls * 2 ^ 52 + state * 2 ^ 48 + size

/-- The record that SGET of n units (or SQRY, n none) reports for a name. -/
def recordOf (e : Option Stashed) (n : Option Nat) : Nat :=
  match e with
  | some e => (match e.state with
    | .present k _ _ _ _ => stashRecord (if n.isSome && n != some k then 3 else 1) e.cls k
    | .dropped => stashRecord 2 0 0)
  | none => stashRecord 0 0 0

/-! ### The words -/

/-- A stash step: its stage, die and declaration; the head check has seen to both. -/
def stashStep (q : QId) (k : Cmd) (s : State) (f : (x die stage : Nat) → Stage → StepRes) : StepRes :=
  match q, k.task with
  | .stash x die, some t => (match s.stage x t.stage with
    | some st => f x die t.stage st
    | none => .error .fault)
  | _, _ => .error .fault

/-- SPUT (R206): the units are read at the step; under COMMIT=1 the entry is held. -/
def sputE (sa : BitVec 2) (slot n : BitVec 12) : EngOp := fun q k s => stashStep q k s (fun x die stage st => do
  let a ← k.at_ sa.toNat 4096
  let (bs, s) ← s.engRead k x a (4096 * count12 n)
  let k := if anyBad bs then k.flag { poison := true } else k
  if st.commit then .ok (s.hold k.pusher (.put q stage k.tag slot.toNat (count12 n) (pbytes bs) (poisonPieces bs)), k)
  else .ok (s.putStash x die stage k.tag slot.toNat (count12 n) (pbytes bs) (poisonPieces bs), k))

/-- The record of a step goes to B1 + 8q (R206). -/
def writeRecordAt (x r : Nat) (s : State) (k : Cmd) : StepRes := do
  let a ← asAddr ((k.baseAddr 1 : Int) + 8 * (k.records : Int))
  s.engWrite { k with records := k.records + 1 } x a (clean (leBytes r 8))

/-- SGET (R206, R294). -/
def sgetE (sa : BitVec 2) (slot n : BitVec 12) : EngOp := fun q k s => stashStep q k s (fun x die stage _ => do
  let a ← k.at_ sa.toNat 4096
  let e := (s.ctx x).stashed die stage k.tag slot.toNat
  let (s, k) ← match e.map Stashed.state with
    | some (StashState.present m bytes poison _ _) =>
      if m = count12 n then s.engWrite k x a (withPieces bytes poison) else .ok (s, k)
    | _ => .ok (s, k)
  writeRecordAt x (recordOf e (some (count12 n))) s k)

/-- SQRY (R206). -/
def sqryE (sa : BitVec 2) (slot : BitVec 12) : EngOp := fun q k s => stashStep q k s (fun x die stage _ => do
  let a ← k.at_ sa.toNat 4096
  let r := recordOf ((s.ctx x).stashed die stage k.tag slot.toNat) none
  let (s, k) ← s.engWrite k x a (clean (leBytes r 8))
  writeRecordAt x r s k)

/-- SDROP (R206, R294): held under COMMIT=1. -/
def sdropE (slot : BitVec 12) : EngOp := fun q k s => stashStep q k s (fun x die stage st =>
  if st.commit then .ok (s.hold k.pusher (.drop q stage k.tag slot.toNat), k)
  else .ok (s.modCtx x (fun c => c.dropStash die stage k.tag slot.toNat), k))

/-- SPREF (R206, R296). -/
def sprefE (slot : BitVec 12) : EngOp := fun q k s => stashStep q k s (fun x die stage st =>
  match (s.ctx x).stashed die stage k.tag slot.toNat with
  | some e => .ok (s.modCtx x (fun c => c.prefetch st e), k)
  | none => .ok (s, k))

/-- The step words of a stash engine. -/
def stashOp : Instr → Option EngOp
  | .sput sa slot n => some (sputE sa slot n)
  | .sget sa slot n => some (sgetE sa slot n)
  | .sdrop slot => some (sdropE slot)
  | .spref slot => some (sprefE slot)
  | .sqry sa slot => some (sqryE sa slot)
  | _ => none

def execSput (sa : BitVec 2) (slot n : BitVec 12) (s : State) : Out := stepWord isStash (sputE sa slot n) s
def execSget (sa : BitVec 2) (slot n : BitVec 12) (s : State) : Out := stepWord isStash (sgetE sa slot n) s
def execSdrop (slot : BitVec 12) (s : State) : Out := stepWord isStash (sdropE slot) s
def execSpref (slot : BitVec 12) (s : State) : Out := stepWord isStash (sprefE slot) s
def execSqry (sa : BitVec 2) (slot : BitVec 12) (s : State) : Out := stepWord isStash (sqryE sa slot) s

/-- The present names of some tags of a stage, by die, tag and slot (R296). -/
def Ctx.namesOf (x : Ctx) (stage : Nat) (tags : List (BitVec 16)) : List (Nat × Nat × Nat) :=
  (tags.map (fun tag => (x.stash.filter (fun e => e.stage == stage && e.tag == tag.toNat)).map (fun e => (e.die, e.tag, e.slot)))).flatten

/-- STASH_LOOKAHEAD (R296): the prefetch of one name, so that the engine's commands run between them (R298). The names are those present when the
lookahead begins; one that has left the stash since is passed over. -/
def execStashLookahead (ctx stage : Nat) (s : State) : Out :=
  eventStep s (fun s =>
    match s.stage ctx stage with
    | some st => (match st.looks with
      | l :: rest =>
        (match l.names.getD ((s.ctx ctx).namesOf stage l.tags) with
        | [] => s.setStage ctx stage { st with looks := rest }
        | n :: ns =>
          (s.setStage ctx stage { st with looks := if ns = [] then rest else { l with names := some ns } :: rest }).modCtx ctx (fun c =>
            match c.stash.find? (fun e => (e.die, e.tag, e.slot) == n && e.stage == stage) with
            | some e => c.prefetch st e
            | none => c))
      | [] => s)
    | none => s)

/-! ### The consumer end of a channel (R300, R302, R303, R305) -/

/-- The consumer end of ring q: a channel of the owner role consumer. -/
def State.consumerEnd (s : State) (x q : Nat) : Option Ring :=
  match s.ring x q with
  | some r => if r.consumerEnd then some r else none
  | none => none

/-- The queues of a stage change (15 R279): a change of its B queue asks for a lookahead (R296). -/
def Stage.setQueues (st : Stage) (qs : List (List Arrival)) : Stage :=
  { st with
    queues := qs
    looks := if qs.getD 1 [] = st.queues.getD 1 [] then st.looks else st.looks ++ [{ tags := ((qs.getD 1 []).take 2).map (·.tag) }] }

/-- An arrival on a stage's queue for a phase (15 R279). -/
def Stage.arrive (st : Stage) (phase : Nat) (tag : BitVec 16) (now : Nat) : Stage :=
  { st.setQueues ((upFrom 0 3).map (fun p => (st.queues.getD p []) ++ (if p = phase then [⟨tag, now, st.arrived⟩] else []))) with
    arrived := st.arrived + 1 }

/-- The arrivals that a published slot of channel q brings (R303). -/
def State.channelArrival (s : State) (x q : Nat) (tag : BitVec 16) : State :=
  s.modCtx x (fun c => { c with stages := c.stages.map (fun e => (e.1, e.2.map (fun st =>
    if st.fsrc = q then st.arrive 0 tag s.now else if st.bsrc = q then st.arrive 1 tag s.now else st))) })

/-- After a change of a consumer end: the filled frontier moves, each slot it passes gives its arrival, void slots are freed. -/
def State.settleChannel (s : State) (x q : Nat) (r : Ring) : State :=
  let passed := (seqFrom r.f (r.settled.f - r.f).toNat).filter (fun n => !NatSet.has r.void n.toNat)
  let s := passed.foldl (fun s n => s.channelArrival x q (Tbl.get 0 r.chEnd.tags n.toNat)) s
  s.putRing x q r

/-- The slot of a send counts as claimed when its first byte lands, or when it is published void with none (R302, R305): the lines that it covers
begin anew, and what lands there has one name. -/
def Ring.claimFor (r : Ring) (ctx n uid : Nat) : Ring :=
  if (Tbl.find n r.claimed).isSome then r
  else { r with c := r.c + 1, claimed := Tbl.put n ctx r.claimed, rel := Tbl.set [] r.rel n [uid] }

/-- The lines of a slot. -/
def State.slotLines (s : State) (x va n : Nat) : List Nat :=
  (piecesOf va n).filterMap (fun p => ((s.ctx x).place false p.1).map (fun p => lineOf p.key))

/-- CHANNEL_LANDING (R302): bytes of the send with sequence number `slot` land from byte `first` of its slot; lines that the whole send covers
become full, poison lands with its bytes. A send within the window has its slot among the SLOTS from the freed frontier up. What a W4 that has
failed had sent is never delivered late (22 R361). -/
def execChannelLanding (ctx ring slot first : Nat) (bytes : List (BitVec 8)) (poisoned : Bool) (s : State) : Out :=
  eventStep s (fun s =>
    match s.consumerEnd ctx ring with
    | none => s
    | some r =>
      let n := BitVec.ofNat 32 slot
      if r.slots ≤ (n - r.r).toNat ∨ NatSet.has s.mod.failed r.chEnd.peer then s
      else
        let new := (Tbl.find n.toNat r.claimed).isNone
        let r1 := r.claimFor ctx n.toNat (s.uid + 1)
        let old := s.slotLines ctx (r.slotAddr n) r.slotb
        let cover := if new then r1.chEnd.cover.filter (fun e => !old.contains e.1) else r1.chEnd.cover
        let s : State := { s with uid := s.uid + 1 }
        let k : Cmd := { newCmd [] none 0 none 0 with
          uid := (Tbl.get [] r1.rel n.toNat).headD 0, pusher := Config.cores, cover := cover }
        let (s1, cover) := match s.engWrite k ctx (r.slotAddr n + first) (bytes.map (fun b => (b, poisoned))) with
          | .ok (s1, k1) => (s1, k1.cover)
          | .error _ => (s, cover)
        s1.setRing ctx ring { r1 with chEnd := { r1.chEnd with cover := cover } })

/-- CHANNEL_PUBLISH (R303, R305): the slot is marked filled, or void. -/
def execChannelPublish (ctx ring seq : Nat) (tag : BitVec 16) (void : Bool) (s : State) : Out :=
  eventStep s (fun s =>
    match s.consumerEnd ctx ring with
    | none => s
    | some r =>
      let n := (BitVec.ofNat 32 seq).toNat
      if NatSet.has s.mod.failed r.chEnd.peer then s
      else
      let r := if void then r.claimFor ctx n (s.uid + 1) else r
      ({ s with uid := s.uid + 1 } : State).settleChannel ctx ring { r with
        filled := NatSet.mark r.filled n true, void := NatSet.mark r.void n void
        chEnd := { r.chEnd with tags := Tbl.set 0 r.chEnd.tags n tag } })

/-- CHANNEL_ADVERTISEMENT (R304): kept only when it raises the freed total. -/
def execChannelAdvertisement (ctx ring : Nat) (freed : BitVec 32) (s : State) : Out :=
  eventStep s (fun s =>
    match s.ring ctx ring with
    | some r =>
      let d := freed - BitVec.ofNat 32 r.win.freed
      if r.chan ∧ r.orole = 0 ∧ r.win.joined ∧ d ≠ 0 ∧ d.toNat < 2 ^ 31 ∧ NatSet.has s.mod.failed r.chEnd.peer = false then
        s.setRing ctx ring { r with win := { r.win with
          freed := freed.toNat, w := r.slots - (BitVec.ofNat 32 r.win.sent - freed).toNat } }
      else s
    | none => s)

/-- Link loss for the producer (R305): every claimed slot that has not been published becomes void, and with it one before it whose bytes can no
longer come (log entry 87). -/
def State.voidUnpublished (s : State) (x q : Nat) (r : Ring) : State :=
  let last := (r.claimed.map (fun e => (BitVec.ofNat 32 e.1 - r.f).toNat + 1)).foldl (fun m i => if i ≤ r.slots then max m i else m) 0
  let lost := ((seqFrom r.f last).map (·.toNat)).filter (fun n => !NatSet.has r.filled n)
  let r := lost.foldl (fun (r : Ring) n => r.claimFor x n (s.uid + 1)) r
  ({ s with uid := s.uid + 1 } : State).settleChannel x q { r with
    filled := lost.foldl (fun t n => NatSet.mark t n true) r.filled
    void := lost.foldl (fun t n => NatSet.mark t n true) r.void }

end Sys2Proof.Machine
end

