-- ==== Sys2Proof/Machine/FpArith.lean ====
section
/-!
DEFINITION. Sys2Proof/Machine/FpArith.lean: exact results of the arithmetic of 05 R114-R117 and 03 R71, rounded once by the
one rounding step of Fmt.lean. The functions on values serve the vector engine, the matrix array, the DOU and the carousel.
-/
namespace Sys2Proof.Machine

/-- A result before rounding: NaN (with the flags that made it), an infinity, or an exact value. -/
inductive XVal where
  | nan (inv : Bool)
  | inf (neg dz : Bool)
  | ex (x : Exact)
  deriving DecidableEq, Repr

/-- Round a result to a format and gather its flags (R67, R74). -/
def XVal.finish (f : FFmt) (mode : RMode) (sat : Bool) (u : Nat) : XVal → Nat × Flags
  | .nan inv => (f.nanBits, { inv := inv, nanp := true })
  | .inf neg dz => let (b, fl) := f.overflow mode sat neg true; (b, { fl with dz := dz })
  | .ex x => f.roundExact mode sat u x

/-- Exact zero. -/
def Exact.zero (neg : Bool) : Exact := ⟨neg, 0, 0, false⟩

/-- The exact sum of two finite values; `down` says that the mode is RDN, which gives −0 for x + (−x) (R62). -/
def addFin (down : Bool) (na : Bool) (ma : Nat) (ea : Int) (nb : Bool) (mb : Nat) (eb : Int) : Exact :=
  if ma = 0 ∧ mb = 0 then .zero (if na = nb then na else down)
  else if ma = 0 then ⟨nb, mb, eb, false⟩
  else if mb = 0 then ⟨na, ma, ea, false⟩
  else
    let e := min ea eb
    let a := ma * 2 ^ (ea - e).toNat
    let b := mb * 2 ^ (eb - e).toNat
    if na = nb then ⟨na, a + b, e, false⟩
    else if a = b then .zero down
    else if a > b then ⟨na, a - b, e, false⟩ else ⟨nb, b - a, e, false⟩

/-- a + b (R114). -/
def fvAdd (down : Bool) : FVal → FVal → XVal
  | .nan, _ => .nan false
  | _, .nan => .nan false
  | .inf x, .inf y => if x = y then .inf x false else .nan true
  | .inf x, _ => .inf x false
  | _, .inf y => .inf y false
  | .fin na ma ea, .fin nb mb eb => .ex (addFin down na ma ea nb mb eb)

/-- −a. -/
def FVal.neg : FVal → FVal
  | .nan => .nan
  | .inf n => .inf !n
  | .fin n m e => .fin (!n) m e

/-- The exact product; `none` marks 0 × ∞. -/
def fvMul : FVal → FVal → Option FVal
  | .nan, _ => some .nan
  | _, .nan => some .nan
  | .inf x, .inf y => some (.inf (x != y))
  | .inf x, .fin n m _ => if m = 0 then none else some (.inf (x != n))
  | .fin n m _, .inf y => if m = 0 then none else some (.inf (n != y))
  | .fin na ma ea, .fin nb mb eb => some (.fin (na != nb) (ma * mb) (ea + eb))

/-- A value as a result. -/
def FVal.toX : FVal → XVal
  | .nan => .nan false
  | .inf n => .inf n false
  | .fin n m e => .ex ⟨n, m, e, false⟩

/-- a × b. -/
def fvMulX (a b : FVal) : XVal :=
  match fvMul a b with
  | none => .nan true
  | some p => p.toX

/-- a × b + c, rounded only once (R114). 0 × ∞ plus a NaN is no NaN from non-NaN inputs, so it sets no INV (R74). -/
def fvFma (down : Bool) (a b c : FVal) : XVal :=
  match fvMul a b with
  | none => .nan (c != .nan)
  | some p => fvAdd down p c

/-- Is a value zero? -/
def FVal.isZero : FVal → Bool
  | .fin _ m _ => m == 0
  | _ => false

def FVal.isNeg : FVal → Bool
  | .nan => false
  | .inf n => n
  | .fin n _ _ => n

/-- a / b (R114). -/
def fvDiv : FVal → FVal → XVal
  | .nan, _ => .nan false
  | _, .nan => .nan false
  | .inf _, .inf _ => .nan true
  | .inf x, .fin n _ _ => .inf (x != n) false
  | .fin n _ _, .inf y => .ex (.zero (n != y))
  | .fin na ma ea, .fin nb mb eb =>
    if mb = 0 then (if ma = 0 then .nan true else .inf (na != nb) true)
    else if ma = 0 then .ex (.zero (na != nb))
    else .ex (divExact (na != nb) ma ea mb eb)

/-- The integer square root, bit by bit from bit k down. -/
def isqrtFrom (n : Nat) : Nat → Nat → Nat
  | 0, r => if (r + 1) * (r + 1) ≤ n then r + 1 else r
  | k + 1, r =>
    let t := r + 2 ^ (k + 1)
    isqrtFrom n k (if t * t ≤ n then t else r)

/-- floor(√n). -/
def isqrt (n : Nat) : Nat := isqrtFrom n (flog2 n / 2 + 1) 0

/-- √(m × 2^e), m > 0. -/
def sqrtExact (m : Nat) (e : Int) : Exact :=
  let (m, e) := if e % 2 = 0 then (m, e) else (2 * m, e - 1)
  let m' := m * 2 ^ 240
  let r := isqrt m'
  ⟨false, r, e / 2 - 120, r * r != m'⟩

/-- 1 / √(m × 2^e), m > 0. -/
def rsqrtExact (m : Nat) (e : Int) : Exact :=
  let (m, e) := if e % 2 = 0 then (m, e) else (2 * m, e - 1)
  let k := flog2 m + 240
  let k := k + k % 2
  let r := isqrt (2 ^ k / m)
  ⟨false, r, -(e / 2) - (k / 2 : Nat), r * r * m != 2 ^ k⟩

def fvSqrt : FVal → XVal
  | .nan => .nan false
  | .inf n => if n then .nan true else .inf false false
  | .fin n m e => if m = 0 then .ex (.zero n) else if n then .nan true else .ex (sqrtExact m e)

def fvRsq : FVal → XVal
  | .nan => .nan false
  | .inf n => if n then .nan true else .ex (.zero false)
  | .fin n m e => if m = 0 then .inf n true else if n then .nan true else .ex (rsqrtExact m e)

def fvRcp : FVal → XVal
  | .nan => .nan false
  | .inf n => .ex (.zero n)
  | .fin n m e => if m = 0 then .inf n true else .ex (divExact n 1 0 m e)

/-- Lower bound of Σ z^(2k+1)/(2k+1) × 2^W for z = p / 2^W, by floors; fuel is the number of terms. -/
def atanhSum (w z2 : Nat) : Nat → Nat → Nat → Nat
  | 0, _, _ => 0
  | f + 1, k, pw => if pw = 0 then 0 else pw / (2 * k + 1) + atanhSum w z2 f (k + 1) (pw * z2 / 2 ^ w)

/-- Lower bound of 2 atanh(p / q) × 2^W, p/q ≤ 1/3; the error is below 8 W. -/
def atanh2 (w p q : Nat) : Nat :=
  let z := p * 2 ^ w / q
  2 * atanhSum w (z * z / 2 ^ w) w 0 z

/-- Lower bound of Σ y^k / k! × 2^W for y / 2^W < 1. -/
def expSum (w y : Nat) : Nat → Nat → Nat → Nat
  | 0, _, t => t
  | f + 1, k, t => if t = 0 then 0 else t + expSum w y f (k + 1) (t * y / 2 ^ w / (k + 1))

/-- 2^(num / 2^d) × 2^P for 0 < num < 2^d: the floor, found once lower and upper bounds agree on it. The value is
irrational, so some precision suffices; the list gives the guard bits tried. -/
def exp2Frac (num d p : Nat) : List Nat → Nat
  | [] => 0
  | g :: gs =>
    let w := p + g
    let y := num * atanh2 w 1 3 / 2 ^ d
    let lo := expSum w y w 0 (2 ^ w)
    let hi := lo + 32 * w
    if lo / 2 ^ g = hi / 2 ^ g ∨ gs = [] then lo / 2 ^ g else exp2Frac num d p gs

/-- The guard bits tried in turn. -/
def guardBits : List Nat := [64, 256, 1300, 4096]

/-- 2^a for a finite (R114): exact for integers. -/
def exp2Fin (n : Bool) (m : Nat) (e : Int) : Exact :=
  if m = 0 then ⟨false, 1, 0, false⟩
  else if (flog2 m : Int) + e ≥ 13 then ⟨false, 1, if n then -8192 else 8192, false⟩
  else
    let d := (-e).toNat
    let v : Int := if n then -((m * 2 ^ e.toNat : Nat) : Int) else (m * 2 ^ e.toNat : Nat)  -- a × 2^d
    let ip := v / (2 ^ d : Nat)
    let fp := (v % (2 ^ d : Nat)).toNat
    if fp = 0 then ⟨false, 1, ip, false⟩
    else ⟨false, exp2Frac fp d 128 guardBits, ip - 128, true⟩

def fvExp2 : FVal → XVal
  | .nan => .nan false
  | .inf n => if n then .ex (.zero false) else .inf false false
  | .fin n m e => .ex (exp2Fin n m e)

/-- log2 of z / 2^k' with 2^k' < z < 2^(k'+1), plus the integer k: the magnitude in [M, M+1) × 2^−P. -/
def log2Frac (z kz : Nat) (k : Int) (p : Nat) : List Nat → Exact
  | [] => .zero false
  | g :: gs =>
    let w := p + g
    let one := 2 ^ kz
    let lnlo := atanh2 w (z - one) (z + one)
    let ln2 := atanh2 w 1 3
    let lo := lnlo * 2 ^ w / (ln2 + 16 * w)
    let hi := (lnlo + 16 * w) * 2 ^ w / ln2 + 1
    let vlo : Int := k * (2 ^ w : Nat) + lo
    let vhi : Int := k * (2 ^ w : Nat) + hi
    let neg := decide (vlo < 0)
    let a := if neg then (-vhi).toNat else vlo.toNat
    let b := if neg then (-vlo).toNat else vhi.toNat
    if a / 2 ^ g = b / 2 ^ g ∨ gs = [] then ⟨neg, a / 2 ^ g, -(p : Int), true⟩ else log2Frac z kz k p gs

def fvLog2 : FVal → XVal
  | .nan => .nan false
  | .inf n => if n then .nan true else .inf false false
  | .fin n m e =>
    if m = 0 then .inf true true
    else if n then .nan true
    else
      let kz := flog2 m
      let k : Int := e + kz
      if m = 2 ^ kz then .ex ⟨decide (k < 0), k.natAbs, 0, false⟩
      else .ex (log2Frac m kz k 256 guardBits)

/-- Compare two values; none when unordered (R116). −0 equals +0. -/
def fvCmp : FVal → FVal → Option Ordering
  | .nan, _ => none
  | _, .nan => none
  | .inf x, .inf y => some (if x = y then .eq else if x then .lt else .gt)
  | .inf x, _ => some (if x then .lt else .gt)
  | _, .inf y => some (if y then .gt else .lt)
  | .fin na ma ea, .fin nb mb eb =>
    let e := min ea eb
    let a : Int := (ma * 2 ^ (ea - e).toNat : Nat)
    let b : Int := (mb * 2 ^ (eb - e).toNat : Nat)
    some (compare (if na then -a else a) (if nb then -b else b))

/-- FMIN and FMAX on codes (R115): −0 is below +0; one NaN gives the other operand. -/
def fMinMax (f : FFmt) (max : Bool) (a b : Nat) : Nat × Flags :=
  match f.value a, f.value b with
  | .nan, .nan => (f.nanBits, { nanp := true })
  | .nan, _ => (b, {})
  | _, .nan => (a, {})
  | va, vb =>
    let aLess := match fvCmp va vb with
      | some .lt => true
      | some .eq => va.isNeg
      | _ => false
    (if aLess != max then a else b, {})

/-- FCLASS (R117). -/
def fClass (f : FFmt) (a : Nat) : Nat :=
  match f.value a with
  | .nan => 256
  | .inf n => if n then 1 else 128
  | .fin n m _ =>
    if m = 0 then (if n then 8 else 16)
    else if m < 2 ^ f.fbits then (if n then 4 else 32) else (if n then 2 else 64)

/-- The rounded sum of two codes of f32 under RNE (R71, DGSUM, CRED). -/
def f32AddRne (a b : Nat) : Nat × Flags :=
  (fvAdd false (FFmt.f32.value a) (FFmt.f32.value b)).finish .f32 .rne true 0

end Sys2Proof.Machine
end

