-- ==== Sys2Proof/Machine/Block.lean ====
section
/-!
DEFINITION. Sys2Proof/Machine/Block.lean: block-scaled elements (03 R65, R66) and the rule of QNT (R70), for the vector engine, the
movers, the matrix array and the carousel.
-/
namespace Sys2Proof.Machine

/-- code × scale, rounded once (R66, R128): a zero scale gives +0, an invalid block NaN with INV, a NaN code NaN. -/
def dequant (dst : FFmt) (mode : RMode) (sat : Bool) (u : Nat) (v : FVal) (scale : Nat) : Nat × Flags :=
  match Scale.ofBits scale with
  | .zero => (0, {})
  | .invalid => if dst.kind = .plain then (0, { inv := true }) else (dst.nanBits, { inv := true, nanp := true })
  | .val sm se =>
    match v with
    | .nan => (NumFmt.flt dst).convert mode sat u .nan
    | .inf n => (NumFmt.flt dst).convert mode sat u (.inf n)
    | .fin n m e => dst.roundExact mode sat u ⟨n, m * sm, e + se, false⟩

/-- Compare two magnitudes m × 2^e. -/
def magLe (ma : Nat) (ea : Int) (mb : Nat) (eb : Int) : Bool :=
  let e := min ea eb
  decide (ma * 2 ^ (ea - e).toNat ≤ mb * 2 ^ (eb - e).toNat)

/-- The largest magnitude of finite values; none when one is NaN or infinite. -/
def maxMag : List FVal → Nat → Int → Option (Nat × Int)
  | [], m, e => some (m, e)
  | .fin _ a b :: vs, m, e => if magLe m e a b then maxMag vs a b else maxMag vs m e
  | _ :: _, _, _ => none

/-- The scale of a block of f32 values (R70): the bits of the s24 and whether the block is invalid. -/
def blockScale (fe : FFmt) (vals : List FVal) : Nat × Bool :=
  match maxMag vals 0 0 with
  | none => (255 * 65536, true)
  | some (m, e) => (qntScale m e fe.maxVal.1 fe.maxVal.2, false)

/-- One element of a block under its scale (R70): always saturating. -/
def quant (fe : FFmt) (mode : RMode) (u : Nat) (scale : Nat) (v : FVal) : Nat × Flags :=
  match Scale.ofBits scale, v with
  | .val sm se, .fin n m e => fe.roundExact mode true u (divExact n m e sm se)
  | _, _ => (0, {})

/-- BAMAX of a block (05 R125), as f32 bits. -/
def blockMax (vals : List FVal) : Nat × Flags :=
  if vals.any (· == .nan) then (FFmt.f32.nanBits, { nanp := true })
  else if vals.any (fun v => match v with | .inf _ => true | _ => false) then (FFmt.f32.infBits, {})
  else match maxMag vals 0 0 with
    | some (m, e) => ((FFmt.f32.roundExact .rne true 0 ⟨false, m, e, false⟩).1, {})
    | none => (0, {})

end Sys2Proof.Machine
end

