-- ==== Sys2Proof/Machine/Rans.lean ====
section
/-!
DEFINITION. Sys2Proof/Machine/Rans.lean: coded weights (18 R311-R317): tables, segments, tiles; the decoder of the matrix operand port and DEC,
and ENC's encoder.
-/
namespace Sys2Proof.Machine

/-- Segments of a tile of a coded format (R311): one for bf16, two otherwise. -/
def tileSegments (fmt : Nat) : Nat := if fmt = 2 then 1 else 2

/-! ### Tables (R313) -/

/-- The 256 frequencies of a table image: bits 12s + 11 : 12s of its field. -/
def tableFreqs (img : List Byte) : List Nat :=
  let v := leNat (img.take 384)
  (List.range 256).map (fun s => v / 2 ^ (12 * s) % 4096)

/-- A table from its image of 392 bytes, valid when its CRC matches and its frequencies total 4,096 (R165, R313). -/
def readTable (img : List Byte) : Option (List Nat) :=
  let f := tableFreqs img
  if crc64 (img.take 384) = leNat ((img.drop 384).take 8) ∧ f.sum = 4096 then some f else none

/-- The symbol that a remainder falls to, with its frequency and its cumulative frequency; s and c count up. -/
def findSym (r : Nat) : List Nat → Nat → Nat → Nat × Nat × Nat
  | [], s, c => (s, 0, c)
  | f :: fs, s, c => if r < c + f then (s, f, c) else findSym r fs (s + 1) (c + f)

/-- The cumulative frequency of symbol s. -/
def cumFreq (freqs : List Nat) (s : Nat) : Nat := (freqs.take s).sum

/-! ### Decoding (R315) -/

/-- One symbol of one state, with the rest of the segment's words: the symbol, the new state, the words left; none when the words end. -/
def decodeSym (freqs : List Nat) (x : Nat) (ws : List Byte) : Option (Nat × Nat × List Byte) :=
  let r := x % 4096
  let (s, f, c) := findSym r freqs 0 0
  let y := f * (x / 4096) + r - c
  if y < 2 ^ 16 then
    match ws with
    | b0 :: b1 :: rest => some (s, y * 2 ^ 16 + leNat [b0, b1], rest)
    | _ => none
  else some (s, y, ws)

/-- One symbol of each state in turn. -/
def decodeRow (freqs : List Nat) : List Nat → List Byte → Option (List Nat × List Nat × List Byte)
  | [], ws => some ([], [], ws)
  | x :: xs, ws =>
    match decodeSym freqs x ws with
    | none => none
    | some (s, y, ws) => (decodeRow freqs xs ws).map (fun r => (s :: r.1, y :: r.2.1, r.2.2))

/-- Rows of 32 symbols: the symbols in order, the final states, the words left. -/
def decodeRows (freqs : List Nat) : Nat → List Nat → List Byte → Option (List Nat × List Nat × List Byte)
  | 0, xs, ws => some ([], xs, ws)
  | n + 1, xs, ws =>
    match decodeRow freqs xs ws with
    | none => none
    | some (ss, xs, ws) => (decodeRows freqs n xs ws).map (fun r => (ss ++ r.1, r.2.1, r.2.2))

/-- One segment from the bytes of its tile that are left (R315): its symbols and the bytes after it, or the failure's number. -/
def decodeSegment (tables : Nat → Option (List Nat)) (bs : List Byte) : Except Nat (List Nat × List Byte) :=
  let h := leNat (bs.take 8)
  let blen := h / 2 ^ 48
  if bs.length < 144 ∨ h % 2 ^ 16 ≠ 0x57A1 ∨ h / 2 ^ 20 % 2 ^ 12 ≠ 0 ∨ h / 2 ^ 45 % 8 ≠ 0 then .error 2
  else
    match tables (h / 2 ^ 16 % 16) with
    | none => .error 3
    | some freqs =>
      if h / 2 ^ 32 % 2 ^ 13 ≠ 4096 then .error 4
      else if blen % 2 = 1 ∨ blen < 144 ∨ bs.length < blen then .error 5
      else
        let xs := (chunks 4 32 ((bs.drop 16).take 128)).map leNat
        if xs.any (fun x => decide (x < 2 ^ 16)) then .error 6
        else
          match decodeRows freqs 128 xs ((bs.take blen).drop 144) with
          | none => .error 7
          | some (syms, ys, left) =>
            if left ≠ [] then .error 8
            else if ys.any (fun y => y != 2 ^ 16) then .error 9
            else if crc64 (syms.map (BitVec.ofNat 8)) ≠ leNat ((bs.drop 8).take 8) then .error 10
            else .ok (syms, bs.drop blen)

/-- The segments of a tile at address p: their symbols and the bytes after them, or the failure and the segment's address. -/
def decodeSegments (tables : Nat → Option (List Nat)) : Nat → Nat → List Byte → Except (Nat × Nat) (List Nat × List Byte)
  | 0, _, bs => .ok ([], bs)
  | n + 1, p, bs =>
    match decodeSegment tables bs with
    | .error d => .error (d, p)
    | .ok (syms, rest) =>
      match decodeSegments tables n (p + (bs.length - rest.length)) rest with
      | .error e => .error e
      | .ok (more, rest) => .ok (syms ++ more, rest)

/-- The plain bytes of a tile from its symbols and low bytes (R164, R202): row-major, bf16 with its low byte first. -/
def plainOf (fmt : Nat) (syms : List Nat) (low : List Byte) : List Byte :=
  if fmt = 2 then ((low.zip syms).map (fun e => [e.1, BitVec.ofNat 8 e.2])).flatten else syms.map (BitVec.ofNat 8)

/-- A tile of LEN bytes at address p (R315): its 8 KiB of plain bytes, or the failure's number and address. -/
def decodeTile (fmt : Nat) (tables : Nat → Option (List Nat)) (p : Nat) (bs : List Byte) : Except (Nat × Nat) (List Byte) :=
  match decodeSegments tables (tileSegments fmt) p bs with
  | .error e => .error e
  | .ok (syms, rest) =>
    let low := if fmt = 2 then rest.take 4096 else []
    if fmt = 2 ∧ rest.length ≠ 4096 ∨ fmt ≠ 2 ∧ rest ≠ [] then .error (11, p) else .ok (plainOf fmt syms low)

/-- An index entry (R311): OFF and LEN. -/
def entryOff (e : Nat) : Nat := e % 2 ^ 40
def entryLen (e : Nat) : Nat := e / 2 ^ 40
/-- The check of an index entry (failure 1 of R315). -/
def entryOk (e : Nat) : Bool := entryOff e % 64 == 0 && decide (144 ≤ entryLen e)

/-! ### Coding (R317) -/

/-- Code one state's symbols, the last one first: the state and its stack of words, the next one to be read on top. -/
def encodeState (freqs : List Nat) : List Nat → Nat × List Nat
  | [] => (2 ^ 16, [])
  | s :: ss =>
    let (x, st) := encodeState freqs ss
    let f := freqs.getD s 0
    let (x, st) := if f * 2 ^ 20 ≤ x then (x / 2 ^ 16, x % 2 ^ 16 :: st) else (x, st)
    (x / f * 4096 + x % f + cumFreq freqs s, st)

/-- The decoder's reads of one row: the words in reading order and the states with their stacks after it. -/
def replayRow (freqs : List Nat) : List (Nat × List Nat) → List Nat × List (Nat × List Nat)
  | [] => ([], [])
  | (y, st) :: rest =>
    let r := y % 4096
    let (_, f, c) := findSym r freqs 0 0
    let y := f * (y / 4096) + r - c
    let (ws, more) := replayRow freqs rest
    match decide (y < 2 ^ 16), st with
    | true, w :: st => (w :: ws, (y * 2 ^ 16 + w, st) :: more)
    | _, st => (ws, (y, st) :: more)

def replayRows (freqs : List Nat) : Nat → List (Nat × List Nat) → List Nat
  | 0, _ => []
  | n + 1, ys => let (ws, ys) := replayRow freqs ys; ws ++ replayRows freqs n ys

/-- The symbols of state k: k, k + 32, … of a segment. -/
def stateSyms (k : Nat) (syms : List Nat) : List Nat := (chunks 32 128 syms).filterMap (fun row => row[k]?)

/-- One segment of 4,096 symbols under table t. -/
def encodeSegment (freqs : List Nat) (t : Nat) (syms : List Nat) : List Byte :=
  let ys := (List.range 32).map (fun k => encodeState freqs (stateSyms k syms))
  let words := replayRows freqs 128 ys
  let blen := 144 + 2 * words.length
  leBytes (blen * 2 ^ 48 + 4096 * 2 ^ 32 + t * 2 ^ 16 + 0x57A1) 8 ++ leBytes (crc64 (syms.map (BitVec.ofNat 8))) 8 ++
    (ys.map (fun y => leBytes y.1 4)).flatten ++ (words.map (fun w => leBytes w 2)).flatten

/-- A plain tile's symbols and low bytes (the inverse of R164's mapping). -/
def symsOf (fmt : Nat) (plain : List Byte) : List Nat × List Byte :=
  if fmt = 2 then
    let ps := chunks 2 4096 plain
    (ps.map (fun p => (p.getD 1 0).toNat), ps.map (fun p => p.getD 0 0))
  else (plain.map BitVec.toNat, [])

/-- The coded bytes of a plain tile; none when a symbol has frequency zero (R202, R317). -/
def encodeTile (fmt : Nat) (freqs : List Nat) (t : Nat) (plain : List Byte) : Option (List Byte) :=
  let (syms, low) := symsOf fmt plain
  if syms.any (fun s => freqs.getD s 0 == 0) then none
  else some (((chunks 4096 (tileSegments fmt) syms).map (encodeSegment freqs t)).flatten ++ low)

end Sys2Proof.Machine
end

