-- ==== Sys2Proof/Machine/Vec.lean ====
section
/-!
DEFINITION. Sys2Proof/Machine/Vec.lean: what vector words share: how a word of a member cluster ends, operands and windows (02 R49, R52;
06 R131), elements and predicates and poison (05 R110-R113; 03 R64), strand faults (24 R380).
-/
namespace Sys2Proof.Machine

/-- Why a vector word has no effect: a trap of the strand (24 R376), consumed poison (24 R388), a fatal context error, or a stall. `badSync`: the
S bits of the bundle at an address differ, and the trap is taken there (02 R50). -/
inductive VTrap where
  | illegal
  | badSync (pc : BitVec 56)
  | align (addr : Nat)
  | prog (v : Nat)
  | poison (pages : List Nat)
  | fatal (addr : Nat)
  | stall
  deriving DecidableEq, Repr

/-- Where the cluster's slot PC goes: past the word, elsewhere, or it waits at the word. -/
inductive VStep where
  | advance
  | yield
  | goto (pc : BitVec 56)
  | wait (w : SlotWait)
  deriving DecidableEq, Repr

/-- A word at issue: its core, its strand's and member's state, the bytes of its unit with prefixes, whether it issues in every member
cluster at once as the same word (R123, R135, R143), and whether a synced bundle of several clusters holds it. -/
structure VCx where
  core : Nat
  rank : Nat
  ulen : Nat
  joint : Bool
  synced : Bool
  co   : Core
  st   : Strand
  m    : Member

/-- The meaning of a vector word. -/
abbrev VOp := VCx → State → Except VTrap (State × VStep)

/-- An effect after which the cluster goes on at the next word. -/
def vdone (s : State) : Except VTrap (State × VStep) := .ok (s, .advance)

/-! ### Lanes and registers -/

/-- Members C of a strand (10 R214). -/
def Strand.c (t : Strand) : Nat := t.members.length
/-- The key of a lane's physical register (06 R131): window register n of strand lane L. -/
def Strand.regKey (t : Strand) (n l : Nat) : Nat :=
  (t.wb + n) * 128 + 32 * (match t.members[l / 32]? with | some m => m.cluster | none => 0) + l % 32

def VecUnit.lane (v : VecUnit) (t : Strand) (n l : Nat) : BitVec 32 := Tbl.get 0 v.regs (t.regKey n l)
def VecUnit.lanePois (v : VecUnit) (t : Strand) (n l : Nat) : Bool := NatSet.has v.rpois (t.regKey n l)
/-- Write one register of one lane with its poison bit. -/
def VecUnit.setLane (v : VecUnit) (t : Strand) (n l : Nat) (x : BitVec 32) (p : Bool) : VecUnit :=
  { v with regs := Tbl.set 0 v.regs (t.regKey n l) x, rpois := NatSet.mark v.rpois (t.regKey n l) p }

/-- The lanes a word acts on: its own cluster's, or every member's (R64, 10 R214). -/
def VCx.lanes (w : VCx) : List Nat := if w.joint then upFrom 0 (32 * w.st.c) else upFrom (32 * w.rank) 32

/-! ### VSH (05 R108) -/

def vshFmt (v : BitVec 24) : Nat := v.toNat % 16
def vshRnd (v : BitVec 24) : Nat := slice v.toNat 6 4
def vshSat (v : BitVec 24) : Bool := bitAt v.toNat 7
def vshLanes (v : BitVec 24) : Nat := slice v.toNat 12 8 + 1
/-- VSH at creation (R108): FMT 1, SAT 1, LNM1 31. -/
def vshReset : BitVec 24 := 0x1F81#24

def VCx.fmt (w : VCx) : Nat := vshFmt w.m.vsh
def VCx.rnd (w : VCx) : Nat := vshRnd w.m.vsh
def VCx.mode (w : VCx) : RMode := RMode.ofCode w.rnd
def VCx.sat (w : VCx) : Bool := vshSat w.m.vsh

/-- Element width of a format code (R110). -/
def fmtWidth (f : Nat) : Nat :=
  match f with
  | 0 => 64 | 1 => 32 | 2 => 16 | 3 => 16 | 4 => 8 | 5 => 8 | 6 => 4 | 7 => 32 | 8 => 16 | 9 => 8 | 10 => 32 | 11 => 16 | 12 => 8
  | 13 => 8 | 14 => 8 | _ => 4
/-- Elements per register, or per pair under f64 (R110). -/
def perSlot (width : Nat) : Nat := if width = 64 then 1 else 32 / width
/-- Registers that hold one slot of elements: a pair under f64. -/
def slotRegs (width : Nat) : Nat := if width = 64 then 2 else 1

/-- Is a lane active in its cluster (R108)? -/
def VCx.active (w : VCx) (l : Nat) : Bool :=
  match w.st.members[l / 32]? with
  | some m => decide (l % 32 < vshLanes m.vsh)
  | none => false

/-- The predicate bits of a lane (R111): p0 has every bit set. -/
def Strand.pred (t : Strand) (p l : Nat) : Nat := if p = 0 then 255 else (Tbl.get 0 t.preds (128 * p + l)).toNat
def Strand.predPois (t : Strand) (p l : Nat) : Bool := p != 0 && NatSet.has t.ppois (128 * p + l)
def Strand.setPred (t : Strand) (p l : Nat) (v : Nat) (pois : Bool) : Strand :=
  { t with preds := Tbl.set 0 t.preds (128 * p + l) (BitVec.ofNat 8 v), ppois := NatSet.mark t.ppois (128 * p + l) pois }

/-! ### Operands -/

def Member.xr (m : Member) (k : Nat) : BitVec 64 := Tbl.get 0 m.x k
def Member.xp (m : Member) (k : Nat) : Bool := NatSet.has m.xpois k
def Member.setX (m : Member) (k : Nat) (v : BitVec 64) (p : Bool) : Member :=
  { m with x := Tbl.set 0 m.x k v, xpois := NatSet.mark m.xpois k p }

/-- The first window register that an operand names for a member, with n registers from it inside a window of ws (R131); under v[xk] the
member's own index register names it. -/
def Member.regNo (m : Member) (ws : Nat) (v : VReg) (n : Nat) : Except VTrap Nat :=
  match v with
  | .win r => if r.toNat + n ≤ ws then .ok r.toNat else .error .illegal
  | .ind k =>
    if m.xp k.toNat then .error (.poison [])
    else
      let x := (m.xr k.toNat).toNat
      if 2 ^ 10 ≤ x then .error .illegal
      else if x + n ≤ ws then .ok x else .error .illegal

/-- A register operand: the window register that each strand lane's cluster names by it. -/
abbrev LReg := Nat → Nat
/-- The register i further on. -/
def shiftReg (r : LReg) (i : Nat) : LReg := fun l => r l + i

/-- Has one of n registers of a member a result on its way (10 R216, R217)? -/
def VecUnit.awaits (v : VecUnit) (uid rank reg n : Nat) : Bool :=
  v.pend.any (fun p => p.strand == uid && p.rank == rank && decide (reg ≤ p.reg) && decide (p.reg < reg + n))

/-- An operand of the word: of the issuing cluster, or of every member for a word they issue together. A register whose result is pending makes
the word wait, source or destination (10 R216). -/
def VCx.reg (w : VCx) (v : VReg) (n : Nat) : Except VTrap LReg :=
  if w.joint then do
    let rs ← w.st.members.mapM (fun m => m.regNo w.st.ws v n)
    if (rs.mapIdx (fun i r => w.co.vec.awaits w.st.uid i r n)).any id then .error .stall
    else .ok (fun l => rs.getD (l / 32) 0)
  else do
    let r ← w.m.regNo w.st.ws v n
    if w.co.vec.awaits w.st.uid w.rank r n then .error .stall else .ok (fun _ => r)

/-- Register and poison of a lane under an operand. -/
def VCx.rl (w : VCx) (r : LReg) (l : Nat) : BitVec 32 := w.co.vec.lane w.st (r l) l
def VCx.rp (w : VCx) (r : LReg) (l : Nat) : Bool := w.co.vec.lanePois w.st (r l) l

/-- An index register that a word reads; using a poisoned one is a poison trap (R138, R147). -/
def VCx.index (w : VCx) (k : BitVec 3) : Except VTrap (BitVec 64) :=
  if w.m.xp k.toNat then .error (.poison []) else .ok (w.m.xr k.toNat)

/-- Go on only when a condition holds; else an illegal instruction. -/
def need (b : Bool) : Except VTrap Unit := if b then .ok () else .error .illegal

/-! ### Elements (03 R64) -/

/-- Slot i of a span: the register's bits, or a pair's. -/
def VCx.slot (w : VCx) (reg : LReg) (width i l : Nat) : Nat :=
  if width = 64 then (w.rl (shiftReg reg (2 * i)) l).toNat + 2 ^ 32 * (w.rl (shiftReg reg (2 * i + 1)) l).toNat
  else (w.rl (shiftReg reg i) l).toNat

/-- Element k of a span of registers. -/
def VCx.elem (w : VCx) (reg : LReg) (width k l : Nat) : Nat :=
  let e := perSlot width
  w.slot reg width (k / e) l / 2 ^ (width * (k % e)) % 2 ^ width

/-- Is any of n registers from reg poisoned in a lane? -/
def VCx.poisIn (w : VCx) (reg : LReg) (n l : Nat) : Bool := (List.range n).any (fun i => w.rp (shiftReg reg i) l)

/-- Replace element j of a slot's bits. -/
def putElem (width j x bits : Nat) : Nat :=
  bits - bits / 2 ^ (width * j) % 2 ^ width * 2 ^ (width * j) + x % 2 ^ width * 2 ^ (width * j)

/-- What one lane's writes to one slot make: the new bits, the flags, the rounding state, whether an element was written and whether
one kept its bits. -/
structure SlotAcc where
  bits : Nat
  flags : Flags
  sr : Nat
  wrote : Bool
  kept : Bool

/-- One lane's element function: lane, element number, the 32 random bits; it answers the element and its flags. -/
abbrev ElemFn := Nat → Nat → Nat → Nat × Flags

/-- Elements of one slot, in ascending position (R111, R113): those the predicate governs are written, the others keep their bits. -/
def runSlot (width pred l i : Nat) (adv : Nat → Bool) (f : ElemFn) : List Nat → SlotAcc → SlotAcc
  | [], a => a
  | j :: js, a =>
    if bitAt pred j then
      let k := i * perSlot width + j
      let u := if adv k then srAdvance a.sr else a.sr
      let (x, fl) := f l k u
      runSlot width pred l i adv f js ⟨putElem width j x a.bits, a.flags.or fl, u, true, a.kept⟩
    else runSlot width pred l i adv f js { a with kept := true }

/-- A register span as a destination: first register, element width, number of slots. -/
structure VDest where
  reg : LReg
  width : Nat
  slots : Nat

/-- The change an elementwise word makes: registers, rounding states and flags. -/
structure VecAcc where
  vec : VecUnit
  sr : Tbl (BitVec 32)
  flags : Flags

/-- Write one slot of one lane, with the poison rule of R112. -/
def VCx.writeSlot (w : VCx) (p : Nat) (d : VDest) (pois : Nat → Nat → Bool) (adv : Nat → Bool) (f : ElemFn) (l i : Nat)
    (a : VecAcc) : VecAcc :=
  let r := runSlot d.width (w.st.pred p l) l i adv f (upFrom 0 (perSlot d.width))
    ⟨w.slot d.reg d.width i l, {}, (Tbl.get 0 a.sr l).toNat, false, false⟩
  if r.wrote then
    let bad := pois l i || w.st.predPois p l
    let reg := d.reg l + slotRegs d.width * i
    let put := fun (v : VecUnit) (n : Nat) =>
      let old := w.co.vec.lanePois w.st (reg + n) l
      v.setLane w.st (reg + n) l (BitVec.ofNat 32 (r.bits / 2 ^ (32 * n))) (bad || (r.kept && old))
    { vec := (List.range (slotRegs d.width)).foldl put a.vec
      sr := Tbl.set 0 a.sr l (BitVec.ofNat 32 r.sr)
      flags := a.flags.or { r.flags with poison := r.flags.poison || bad ||
        (r.kept && (List.range (slotRegs d.width)).any (fun n => w.co.vec.lanePois w.st (reg + n) l)) } }
  else a

/-- Put a word's changes into the state (R113). -/
def State.commitVec (s : State) (w : VCx) (a : VecAcc) : State :=
  s.modCore w.core (fun co => ({ co with vec := { co.vec with regs := a.vec.regs, rpois := a.vec.rpois } }).modStrand w.st.uid
    (fun t => { t with sr := a.sr, status := addFlags t.status a.flags }))

/-- An elementwise word (R111): every active lane writes the elements its predicate governs. `pois l i` says whether a register that
lane l reads for slot i is poisoned; `adv k` whether element k advances the lane's rounding state. -/
def VCx.writeAs (w : VCx) (flagged : Bool) (p : Nat) (d : VDest) (pois : Nat → Nat → Bool) (adv : Nat → Bool) (f : ElemFn) (s : State) : State :=
  let a := w.lanes.foldl (fun a l =>
    if w.active l then (List.range d.slots).foldl (fun a i => w.writeSlot p d pois adv f l i a) a else a)
    ⟨w.co.vec, w.st.sr, {}⟩
  s.commitVec w (if flagged then a else { a with flags := {} })

/-- The same for a word whose flags go to the status (R113). -/
def VCx.write (w : VCx) (p : Nat) (d : VDest) (pois : Nat → Nat → Bool) (adv : Nat → Bool) (f : ElemFn) (s : State) : State :=
  w.writeAs true p d pois adv f s

/-- Write predicate pd (R112, R116, R141): `f l` gives the new bits of lane l where `mask` is 1, `clear` the bits always cleared. A compare
that writes a poisoned predicate sets no flag (R116), not POISON either (DESIGN CHOICE, log entry 96). -/
def VCx.writePred (w : VCx) (p pd : Nat) (mask keepClear : Nat) (pois : Nat → Bool) (f : Nat → Nat) (s : State) : State :=
  let t := w.lanes.foldl (fun (t : Strand) l =>
    if w.active l then
      let gov := w.st.pred p l &&& mask
      let old := w.st.pred pd l
      let new := (f l &&& gov) ||| (old &&& (255 ^^^ gov) &&& (255 ^^^ keepClear))
      if gov = 0 then t.setPred pd l new (w.st.predPois pd l)
      else
        let bad := pois l || w.st.predPois p l
        t.setPred pd l new (bad || (gov != mask && w.st.predPois pd l))
    else t) w.st
  s.modCore w.core (fun co => co.modStrand w.st.uid (fun u => { u with preds := t.preds, ppois := t.ppois }))

/-- Write a whole 32-bit value to register d of every active lane whose predicate has bit 0 set (R133, R134, R141). -/
def VCx.writeWord (w : VCx) (p : Nat) (d : LReg) (f : Nat → BitVec 32) (pois : Nat → Bool) (s : State) : State :=
  let v := w.lanes.foldl (fun (v : VecUnit) l =>
    if w.active l && bitAt (w.st.pred p l) 0 then v.setLane w.st (d l) l (f l) (pois l || w.st.predPois p l) else v) w.co.vec
  s.modCore w.core (fun co => { co with vec := { co.vec with regs := v.regs, rpois := v.rpois } })

/-! ### How a word ends -/

/-- Does a member wait for full lines? The end of that wait is no issue (10 R217). -/
def Member.filling (m : Member) : Bool := match m.wait with | .full _ _ _ => true | _ => false

/-- A strand is kept whole: no cluster of it waits on a semaphore any more. -/
def Core.keepStrand (co : Core) (uid : Nat) : Core := (co.modStrand uid Strand.keep).leaveSems [uid]

/-- A fault of a strand (24 R380): it stops in every member cluster before the word, and the core takes the trap. -/
def State.strandFault (s : State) (c uid rank cls : Nat) (tval : Nat) : State :=
  let s := s.modCore c (fun co =>
    (co.modStrand uid (fun t => t.modMember rank (fun m => { m with wait := .fault (m.wait == .again || (m.filling && !t.whole)) }))).keepStrand uid)
  s.raiseFault c ⟨cls, BitVec.ofNat 64 tval, 0, 0, some (uid, rank)⟩

/-- A strand loses its context (24 R388, R389); the record's cause names the member, as R375 lays it out (R392). -/
def State.strandLoss (s : State) (c rank cls addr : Nat) (pages : List Nat) : State :=
  s.loseContext (s.ctxOf c) (causeWord cls { strand := some rank }).toNat (BitVec.ofNat 64 addr) (coreField c 0) pages s.mod.self

/-- A trap or loss of a vector word. -/
def State.vecTrap (s : State) (c uid rank : Nat) : VTrap → State
  | .illegal => s.strandFault c uid rank 1 0
  | .badSync pc =>
    (s.modCore c (fun co => co.modStrand uid (fun t => t.modMember rank (fun m => { m with pc := pc })))).strandFault c uid rank 1 0
  | .align a => s.strandFault c uid rank 2 a
  | .prog v => s.strandFault c uid rank 3 v
  | .poison pages => s.strandLoss c rank 10 0 pages
  | .fatal a => s.strandLoss c rank 12 a []
  | .stall => s

/-- The strand has issued: its starvation count returns to zero (10 R219). -/
def Core.issued (co : Core) (uid : Nat) : Core := co.modStrand uid (fun t => { t with starve := 0 })

/-- A choice of a cluster is recorded: the strand that issued and its slot, and whether it yielded (10 R220). -/
def Core.chose (co : Core) (t : Strand) (m : Member) (yields : Bool) : Core :=
  { co with vec := { co.vec with
      last := Tbl.set 0 co.vec.last m.cluster (4 * t.age + m.slot)
      yielded := NatSet.mark co.vec.yielded m.cluster yields } }

/-- Can a member issue a word of its own: it waits for nothing? That issue is its cluster's choice (10 R219). -/
def Member.free (m : Member) : Bool := m.wait == .run || m.wait == .again

/-- Can a strand's members issue (24 R377, R380)? -/
def Strand.runs (t : Strand) : Bool := t.mode != .kept && t.mode != .drained

/-- Every member waits at a join, and they are neither all at one synced bundle nor all at VEXIT (06 R144). -/
def Strand.diverged (t : Strand) : Bool :=
  t.members.all (fun m => match m.wait with | .join _ => true | .exit => true | _ => false) &&
    !t.members.all (fun m => some m.wait == (t.members[0]?).map (·.wait))

/-- Where a strand stands after a word or a bundle: the sync-divergence trap (06 R144, 24 R376); one that drains is kept whole as soon as it waits
(24 R381). -/
def State.checkSync (s : State) (c uid rank : Nat) : State :=
  match (s.core c).strand uid with
  | some t =>
    if t.runs && t.diverged then s.strandFault c uid rank 9 0
    else match t.mode with
      | .draining _ _ => if t.waits then s.modCore c (fun co => co.keepStrand uid) else s
      | _ => s
  | none => s

/-- Where the member stands after its word. A word that stands in no synced bundle is the cluster's choice (10 R219, R220). -/
def State.memberStep (s : State) (w : VCx) (v : VStep) : State :=
  s.modCore w.core (fun co =>
    let co := if w.m.filling then co else co.issued w.st.uid
    let co := if w.m.free then co.chose w.st w.m (v == .yield) else co
    co.modStrand w.st.uid (fun t => t.modMember w.rank (fun m => match v with
      | .advance => { m with pc := m.pc + BitVec.ofNat 56 w.ulen, wait := .run }
      | .yield => { m with pc := m.pc + BitVec.ofNat 56 w.ulen, wait := .run }
      | .goto pc => { m with pc := pc, wait := .run }
      | .wait x => { m with wait := x })))

/-- … and the strand may have diverged there (06 R144). -/
def State.vecStep (s : State) (w : VCx) (v : VStep) : State := (s.memberStep w v).checkSync w.core w.st.uid w.rank

/-- The end of a word of one member. -/
def State.vecFinish (s : State) (w : VCx) : Except VTrap (State × VStep) → State
  | .ok (s1, v) => s1.vecStep w v
  | .error e => s.vecTrap w.core w.st.uid w.rank e

/-- Can strands of a core issue: its context is there and running, and no debug halt stops them (24 R384)? A pre-emption lets them drain (R381). -/
def Core.vecLive (co : Core) : Bool := co.holder.isSome && !co.debug && co.run != .off

/-- The word's context for member `rank` of a strand. -/
def State.vcx (s : State) (c uid rank ulen : Nat) (joint synced : Bool) : Option VCx :=
  let co := s.core c
  match co.strand uid with
  | some t => (t.members[rank]?).map (fun m => ⟨c, rank, ulen, joint, synced, co, t, m⟩)
  | none => none

/-- A vector word issued alone by a member cluster, `ulen` bytes with its prefixes: the agent must be a cluster; a cluster that waits, or
whose strand has stopped, does nothing. A strand with one member needs no other cluster, so its cross-cluster words act alone (R123, R135). -/
def vecIssue (ulen : Nat) (op : VOp) (s : State) : Out :=
  match s.who with
  | .cluster c uid r =>
    match s.vcx c uid r ulen false false with
    | some w =>
      if w.co.vecLive && w.st.runs && w.m.wait == .run then .next (s.vecFinish w (op w s)) else .next s
    | none => .next s
  | _ => .fault .wrongAgent

/-- A vector word of one bundle. -/
def vecWord (op : VOp) (s : State) : Out := vecIssue 16 op s

/-- The condition of cross-cluster words (R123, R135, R136, R143): C = 1, or issued as the same word by every member. -/
def VCx.whole (w : VCx) : Bool := w.st.c == 1 || w.joint

end Sys2Proof.Machine
end

