-- ==== Sys2Proof/Machine/VecArith.lean ====
section
/-!
DEFINITION. Sys2Proof/Machine/VecArith.lean: floating-point and integer arithmetic, compares and conversions of the vector engine (05
R114-R122).
-/
namespace Sys2Proof.Machine

/-- The format of floating-point arithmetic (R110). -/
def fpFormat : Nat → Option FFmt
  | 0 => some .f64 | 1 => some .f32 | 2 => some .bf16 | 3 => some .f16 | _ => none

/-- The width and signedness of integer arithmetic (R110). -/
def intFormat : Nat → Option (Nat × Bool)
  | 7 => some (32, true) | 8 => some (16, true) | 9 => some (8, true) | 10 => some (32, false) | 11 => some (16, false)
  | 12 => some (8, false) | _ => none

/-- The format a word needs, or an illegal instruction. -/
def have_ {α : Type} (o : Option α) : Except VTrap α := match o with | some x => .ok x | none => .error .illegal

/-- The result of one element from the old destination and the sources. -/
abbrev ArithFn := (u d a b : Nat) → Nat × Flags

/-- A word with elements of one width on both sides (R111, R112): `useD` when it reads the old destination, `useB` when it has a second
source; `rounds` when it advances the rounding states under SR (R113). -/
def VCx.arith (w : VCx) (p : BitVec 4) (d a b : VReg) (width : Nat) (useD useB rounds : Bool) (f : ArithFn) (s : State) :
    Except VTrap (State × VStep) := do
  let n := slotRegs width
  let rd ← w.reg d n
  let ra ← w.reg a n
  let rb ← if useB then w.reg b n else .ok ra
  let pois := fun l (_ : Nat) => w.poisIn ra n l || (useB && w.poisIn rb n l) || (useD && w.poisIn rd n l)
  let el := fun l k u => f u (w.elem rd width k l) (w.elem ra width k l) (w.elem rb width k l)
  vdone (w.write p.toNat ⟨rd, width, 1⟩ pois (fun _ => rounds && w.rnd == 4) el s)

/-- A floating-point word: its operands' values give the result that is rounded once under VSH.RND (R114). -/
def fpRound (p : BitVec 4) (d a b : VReg) (useD useB : Bool) (g : (down : Bool) → (d a b : FVal) → XVal) : VOp := fun w s => do
  let f ← have_ (fpFormat w.fmt)
  w.arith p d a b f.width useD useB true
    (fun u x y z => (g (w.mode == .rdn) (f.value x) (f.value y) (f.value z)).finish f w.mode w.sat u) s

/-- A floating-point word that rounds nothing (R115, R117). -/
def fpExact (p : BitVec 4) (d a b : VReg) (useB : Bool) (g : FFmt → (a b : Nat) → Nat × Flags) : VOp := fun w s => do
  let f ← have_ (fpFormat w.fmt)
  w.arith p d a b f.width false useB false (fun _ _ y z => g f y z) s

def faddV (p : BitVec 4) (d a b : VReg) : VOp := fpRound p d a b false true (fun dn _ x y => fvAdd dn x y)
def fsubV (p : BitVec 4) (d a b : VReg) : VOp := fpRound p d a b false true (fun dn _ x y => fvAdd dn x y.neg)
def fmulV (p : BitVec 4) (d a b : VReg) : VOp := fpRound p d a b false true (fun _ _ x y => fvMulX x y)
def fmaV (p : BitVec 4) (d a b : VReg) : VOp := fpRound p d a b true true (fun dn z x y => fvFma dn x y z)
def fmsV (p : BitVec 4) (d a b : VReg) : VOp := fpRound p d a b true true (fun dn z x y => fvFma dn x y z.neg)
def fnmaV (p : BitVec 4) (d a b : VReg) : VOp := fpRound p d a b true true (fun dn z x y => fvFma dn x.neg y z)
def fdivV (p : BitVec 4) (d a b : VReg) : VOp := fpRound p d a b false true (fun _ _ x y => fvDiv x y)
def fsqrtV (p : BitVec 4) (d a : VReg) : VOp := fpRound p d a a false false (fun _ _ x _ => fvSqrt x)
def frcpV (p : BitVec 4) (d a : VReg) : VOp := fpRound p d a a false false (fun _ _ x _ => fvRcp x)
def frsqV (p : BitVec 4) (d a : VReg) : VOp := fpRound p d a a false false (fun _ _ x _ => fvRsq x)
def fexp2V (p : BitVec 4) (d a : VReg) : VOp := fpRound p d a a false false (fun _ _ x _ => fvExp2 x)
def flog2V (p : BitVec 4) (d a : VReg) : VOp := fpRound p d a a false false (fun _ _ x _ => fvLog2 x)

/-- A NaN input gives the canonical NaN, any other code the function's result (R115). -/
def quietNan (f : FFmt) (x y : Nat) : Nat × Flags :=
  if f.value x = .nan then (f.nanBits, { nanp := true }) else (y, {})

def fminV (p : BitVec 4) (d a b : VReg) : VOp := fpExact p d a b true (fun f x y => fMinMax f false x y)
def fmaxV (p : BitVec 4) (d a b : VReg) : VOp := fpExact p d a b true (fun f x y => fMinMax f true x y)
def fabsV (p : BitVec 4) (d a : VReg) : VOp := fpExact p d a a false (fun f x _ => quietNan f x (x % 2 ^ (f.width - 1)))
def fnegV (p : BitVec 4) (d a : VReg) : VOp := fpExact p d a a false (fun f x _ => quietNan f x (x ^^^ 2 ^ (f.width - 1)))
def fclassV (p : BitVec 4) (d a : VReg) : VOp := fpExact p d a a false (fun f x _ => (fClass f x, {}))

/-- A compare word (R116, R119): for each active lane, the compare bits of the elements that the predicate governs. -/
def VCx.compare (w : VCx) (p pd : BitVec 4) (a b : VReg) (width : Nat) (g : Nat → Nat → Bool) (s : State) :
    Except VTrap (State × VStep) := do
  let n := slotRegs width
  let ra ← w.reg a n
  let rb ← w.reg b n
  let e := perSlot width
  let bits := fun l => ((List.range e).map (fun j => if g (w.elem ra width j l) (w.elem rb width j l) then 2 ^ j else 0)).sum
  vdone (w.writePred p.toNat pd.toNat (2 ^ e - 1) (256 - 2 ^ e) (fun l => w.poisIn ra n l || w.poisIn rb n l) bits s)

/-- The conditions of FCMP's two sets (02 R55, R116). -/
def fcmp1 (cc : Nat) (o : Option Ordering) : Bool :=
  match cc with
  | 0 => o == some .eq | 1 => o != some .eq | 2 => o == some .lt | _ => o == some .lt || o == some .eq
def fcmp2 (cc : Nat) (o : Option Ordering) : Bool :=
  match cc with
  | 0 => o == some .gt | 1 => o == some .gt || o == some .eq | 2 => o.isNone | _ => o.isSome

def fcmpSet1V (p : BitVec 4) (cc : BitVec 2) (pd : BitVec 4) (a b : VReg) : VOp := fun w s => do
  let f ← have_ (fpFormat w.fmt)
  w.compare p pd a b f.width (fun x y => fcmp1 cc.toNat (fvCmp (f.value x) (f.value y))) s
def fcmpSet2V (p : BitVec 4) (cc : BitVec 2) (pd : BitVec 4) (a b : VReg) : VOp := fun w s => do
  let f ← have_ (fpFormat w.fmt)
  w.compare p pd a b f.width (fun x y => fcmp2 cc.toNat (fvCmp (f.value x) (f.value y))) s

/-! ### Integers (R118, R119) -/

/-- An element's integer value. -/
def intVal (width : Nat) (signed : Bool) (x : Nat) : Int :=
  if signed && bitAt x (width - 1) then (x : Int) - (2 ^ width : Nat) else x
/-- The low bits of an integer. -/
def intBits (width : Nat) (z : Int) : Nat := (z % (2 ^ width : Nat)).toNat

/-- An integer word. -/
def intWord (p : BitVec 4) (d a b : VReg) (useD useB : Bool) (g : (width : Nat) → (signed : Bool) → (d a b : Nat) → Nat × Flags) :
    VOp := fun w s => do
  let (width, sg) ← have_ (intFormat w.fmt)
  w.arith p d a b width useD useB false (fun _ x y z => g width sg x y z) s

/-- An integer word on exact values, wrapped to the width. -/
def wrapWord (p : BitVec 4) (d a b : VReg) (useD useB : Bool) (g : (d a b : Int) → Int) : VOp :=
  intWord p d a b useD useB (fun k sg x y z => (intBits k (g (intVal k sg x) (intVal k sg y) (intVal k sg z)), {}))

/-- a + b clamped to the range of the format; a clamp counts (R118, 03 R74). -/
def clampAdd (width : Nat) (signed : Bool) (a b : Nat) : Nat × Flags :=
  let z := intVal width signed a + intVal width signed b
  let lo : Int := if signed then -(2 ^ (width - 1) : Nat) else 0
  let hi : Int := if signed then (2 ^ (width - 1) : Nat) - 1 else (2 ^ width : Nat) - 1
  if z < lo then (intBits width lo, { sat := 1 }) else if hi < z then (intBits width hi, { sat := 1 }) else (intBits width z, {})

def iaddV (p : BitVec 4) (d a b : VReg) : VOp := wrapWord p d a b false true (fun _ x y => x + y)
def iaddsV (p : BitVec 4) (d a b : VReg) : VOp := intWord p d a b false true (fun k sg _ x y => clampAdd k sg x y)
def isubV (p : BitVec 4) (d a b : VReg) : VOp := wrapWord p d a b false true (fun _ x y => x - y)
def imulV (p : BitVec 4) (d a b : VReg) : VOp := wrapWord p d a b false true (fun _ x y => x * y)
def imulhV (p : BitVec 4) (d a b : VReg) : VOp :=
  intWord p d a b false true (fun k sg _ x y => (intBits k (intVal k sg x * intVal k sg y / (2 ^ k : Nat)), {}))
def imadV (p : BitVec 4) (d a b : VReg) : VOp := wrapWord p d a b true true (fun z x y => x * y + z)
def iminV (p : BitVec 4) (d a b : VReg) : VOp := wrapWord p d a b false true (fun _ x y => min x y)
def imaxV (p : BitVec 4) (d a b : VReg) : VOp := wrapWord p d a b false true (fun _ x y => max x y)
def iabsV (p : BitVec 4) (d a : VReg) : VOp := wrapWord p d a a false false (fun _ x _ => (x.natAbs : Int))

/-- A bitwise word: every format, both registers of an f64 pair (R118). -/
def bitWord (p : BitVec 4) (d a b : VReg) (useB : Bool) (g : (width a b : Nat) → Nat) : VOp := fun w s =>
  let width := fmtWidth w.fmt
  w.arith p d a b width false useB false (fun _ _ x y => (g width x y, {})) s

def iandV (p : BitVec 4) (d a b : VReg) : VOp := bitWord p d a b true (fun _ x y => x &&& y)
def iorV (p : BitVec 4) (d a b : VReg) : VOp := bitWord p d a b true (fun _ x y => x ||| y)
def ixorV (p : BitVec 4) (d a b : VReg) : VOp := bitWord p d a b true (fun _ x y => x ^^^ y)
def inotV (p : BitVec 4) (d a : VReg) : VOp := bitWord p d a a false (fun k x _ => 2 ^ k - 1 - x)

/-- Shift amounts are the low log2(w) bits of b (R118). -/
def ishlV (p : BitVec 4) (d a b : VReg) : VOp := intWord p d a b false true (fun k _ _ x y => (x * 2 ^ (y % k) % 2 ^ k, {}))
def ishrV (p : BitVec 4) (d a b : VReg) : VOp := intWord p d a b false true (fun k _ _ x y => (x / 2 ^ (y % k), {}))
def isarV (p : BitVec 4) (d a b : VReg) : VOp :=
  intWord p d a b false true (fun k _ _ x y => (intBits k (intVal k true x / (2 ^ (y % k) : Nat)), {}))

/-- The conditions of ICMP's two sets (02 R55, R119). -/
def icmp1 (cc k : Nat) (sg : Bool) (x y : Nat) : Bool :=
  match cc with
  | 0 => x == y | 1 => x != y | 2 => decide (intVal k sg x < intVal k sg y) | _ => decide (intVal k sg x ≤ intVal k sg y)
def icmp2 (cc k : Nat) (sg : Bool) (x y : Nat) : Bool :=
  match cc with
  | 0 => decide (intVal k sg x > intVal k sg y) | 1 => decide (intVal k sg x ≥ intVal k sg y) | 2 => decide (x < y) | _ => decide (x ≤ y)

def icmpSet1V (p : BitVec 4) (cc : BitVec 2) (pd : BitVec 4) (a b : VReg) : VOp := fun w s => do
  let (k, sg) ← have_ (intFormat w.fmt)
  w.compare p pd a b k (icmp1 cc.toNat k sg) s
def icmpSet2V (p : BitVec 4) (cc : BitVec 2) (pd : BitVec 4) (a b : VReg) : VOp := fun w s => do
  let (k, sg) ← have_ (intFormat w.fmt)
  w.compare p pd a b k (icmp2 cc.toNat k sg) s

/-! ### Conversions (R120-R122) -/

/-- One element from one format to another (R120): equal formats copy, with NaNs made canonical. -/
def cvtElem (src dst : NumFmt) (same : Bool) (mode : RMode) (sat : Bool) (u x : Nat) : Nat × Flags :=
  if same then match src with
    | .flt f => quietNan f x x
    | .int _ _ => (x, {})
  else dst.convert mode sat u (src.value x)

/-- Does a conversion round, and so advance the rounding state under SR (R113)? -/
def cvtRounds : NumFmt → NumFmt → Bool
  | .int _ _, .int _ _ => false
  | _, _ => true

/-- The two formats of a conversion (R120, R122): neither is a block format. -/
def cvtFormats (src dst : Nat) : Except VTrap (NumFmt × NumFmt) := do
  let a ← have_ (NumFmt.ofCode src)
  let b ← have_ (NumFmt.ofCode dst)
  .ok (a, b)

/-- CVT and CVTSR (R120, R121): destination positions beyond the common count become zero. -/
def cvtOp (p : BitVec 4) (d a : VReg) (fmt : BitVec 4) (mode : Option RMode) : VOp := fun w s => do
  let (fs, fd) ← cvtFormats w.fmt fmt.toNat
  let ws := fmtWidth w.fmt
  let wd := fmtWidth fmt.toNat
  let rd ← w.reg d (slotRegs wd)
  let ra ← w.reg a (slotRegs ws)
  let n := min (perSlot ws) (perSlot wd)
  let mode := mode.getD w.mode
  let el := fun l k u =>
    if k < n then cvtElem fs fd (w.fmt == fmt.toNat) mode w.sat u (w.elem ra ws k l) else (0, {})
  vdone (w.write p.toNat ⟨rd, wd, 1⟩ (fun l _ => w.poisIn ra (slotRegs ws) l)
    (fun _ => mode == .sr && cvtRounds fs fd) el s)

def cvtV (p : BitVec 4) (d a : VReg) (fmt : BitVec 4) : VOp := cvtOp p d a fmt none
def cvtsrV (p : BitVec 4) (d a : VReg) (fmt : BitVec 4) : VOp := fun w s => do
  need (fmt.toNat ≤ 6)
  cvtOp p d a fmt (some .sr) w s

/-- PACK and UNPACK (R122): span element k of the source becomes destination element k. -/
def spanConvert (p : BitVec 4) (d a : VReg) (fmt : BitVec 4) (narrow : Bool) : VOp := fun w s => do
  let (fs, fd) ← cvtFormats w.fmt fmt.toNat
  let ws := fmtWidth w.fmt
  let wd := fmtWidth fmt.toNat
  need (if narrow then wd < ws else ws < wd)
  let na := if narrow then ws / wd else 1
  let nd := if narrow then 1 else wd / ws
  let rd ← w.reg d nd
  let ra ← w.reg a na
  let el := fun l k u => cvtElem fs fd false w.mode w.sat u (w.elem ra ws k l)
  vdone (w.write p.toNat ⟨rd, wd, nd / slotRegs wd⟩ (fun l _ => w.poisIn ra na l)
    (fun _ => w.mode == .sr && cvtRounds fs fd) el s)

def packV (p : BitVec 4) (d a : VReg) (fmt : BitVec 4) : VOp := spanConvert p d a fmt true
def unpackV (p : BitVec 4) (d a : VReg) (fmt : BitVec 4) : VOp := spanConvert p d a fmt false

def execFadd (p : BitVec 4) (d a b : VReg) (s : State) : Out := vecWord (faddV p d a b) s
def execFsub (p : BitVec 4) (d a b : VReg) (s : State) : Out := vecWord (fsubV p d a b) s
def execFmul (p : BitVec 4) (d a b : VReg) (s : State) : Out := vecWord (fmulV p d a b) s
def execFma (p : BitVec 4) (d a b : VReg) (s : State) : Out := vecWord (fmaV p d a b) s
def execFms (p : BitVec 4) (d a b : VReg) (s : State) : Out := vecWord (fmsV p d a b) s
def execFnma (p : BitVec 4) (d a b : VReg) (s : State) : Out := vecWord (fnmaV p d a b) s
def execFmin (p : BitVec 4) (d a b : VReg) (s : State) : Out := vecWord (fminV p d a b) s
def execFmax (p : BitVec 4) (d a b : VReg) (s : State) : Out := vecWord (fmaxV p d a b) s
def execFabs (p : BitVec 4) (d a : VReg) (s : State) : Out := vecWord (fabsV p d a) s
def execFneg (p : BitVec 4) (d a : VReg) (s : State) : Out := vecWord (fnegV p d a) s
def execFcmpSet1 (p : BitVec 4) (cc : BitVec 2) (pd : BitVec 4) (a b : VReg) (s : State) : Out := vecWord (fcmpSet1V p cc pd a b) s
def execFcmpSet2 (p : BitVec 4) (cc : BitVec 2) (pd : BitVec 4) (a b : VReg) (s : State) : Out := vecWord (fcmpSet2V p cc pd a b) s
def execFrcp (p : BitVec 4) (d a : VReg) (s : State) : Out := vecWord (frcpV p d a) s
def execFrsq (p : BitVec 4) (d a : VReg) (s : State) : Out := vecWord (frsqV p d a) s
def execFsqrt (p : BitVec 4) (d a : VReg) (s : State) : Out := vecWord (fsqrtV p d a) s
def execFdiv (p : BitVec 4) (d a b : VReg) (s : State) : Out := vecWord (fdivV p d a b) s
def execFexp2 (p : BitVec 4) (d a : VReg) (s : State) : Out := vecWord (fexp2V p d a) s
def execFlog2 (p : BitVec 4) (d a : VReg) (s : State) : Out := vecWord (flog2V p d a) s
def execFclass (p : BitVec 4) (d a : VReg) (s : State) : Out := vecWord (fclassV p d a) s
def execIadd (p : BitVec 4) (d a b : VReg) (s : State) : Out := vecWord (iaddV p d a b) s
def execIadds (p : BitVec 4) (d a b : VReg) (s : State) : Out := vecWord (iaddsV p d a b) s
def execIsub (p : BitVec 4) (d a b : VReg) (s : State) : Out := vecWord (isubV p d a b) s
def execImul (p : BitVec 4) (d a b : VReg) (s : State) : Out := vecWord (imulV p d a b) s
def execImulh (p : BitVec 4) (d a b : VReg) (s : State) : Out := vecWord (imulhV p d a b) s
def execImad (p : BitVec 4) (d a b : VReg) (s : State) : Out := vecWord (imadV p d a b) s
def execImin (p : BitVec 4) (d a b : VReg) (s : State) : Out := vecWord (iminV p d a b) s
def execImax (p : BitVec 4) (d a b : VReg) (s : State) : Out := vecWord (imaxV p d a b) s
def execIabs (p : BitVec 4) (d a : VReg) (s : State) : Out := vecWord (iabsV p d a) s
def execIand (p : BitVec 4) (d a b : VReg) (s : State) : Out := vecWord (iandV p d a b) s
def execIor (p : BitVec 4) (d a b : VReg) (s : State) : Out := vecWord (iorV p d a b) s
def execIxor (p : BitVec 4) (d a b : VReg) (s : State) : Out := vecWord (ixorV p d a b) s
def execInot (p : BitVec 4) (d a : VReg) (s : State) : Out := vecWord (inotV p d a) s
def execIshl (p : BitVec 4) (d a b : VReg) (s : State) : Out := vecWord (ishlV p d a b) s
def execIshr (p : BitVec 4) (d a b : VReg) (s : State) : Out := vecWord (ishrV p d a b) s
def execIsar (p : BitVec 4) (d a b : VReg) (s : State) : Out := vecWord (isarV p d a b) s
def execIcmpSet1 (p : BitVec 4) (cc : BitVec 2) (pd : BitVec 4) (a b : VReg) (s : State) : Out := vecWord (icmpSet1V p cc pd a b) s
def execIcmpSet2 (p : BitVec 4) (cc : BitVec 2) (pd : BitVec 4) (a b : VReg) (s : State) : Out := vecWord (icmpSet2V p cc pd a b) s
def execCvt (p : BitVec 4) (d a : VReg) (fmt : BitVec 4) (s : State) : Out := vecWord (cvtV p d a fmt) s
def execCvtsr (p : BitVec 4) (d a : VReg) (fmt : BitVec 4) (s : State) : Out := vecWord (cvtsrV p d a fmt) s
def execPack (p : BitVec 4) (d a : VReg) (fmt : BitVec 4) (s : State) : Out := vecWord (packV p d a fmt) s
def execUnpack (p : BitVec 4) (d a : VReg) (fmt : BitVec 4) (s : State) : Out := vecWord (unpackV p d a fmt) s

end Sys2Proof.Machine
end

