-- ==== Sys2Proof/Machine/Xform.lean ====
section
/-!
DEFINITION. Sys2Proof/Machine/Xform.lean: the movers' transform queues: XFORM convert, compress and expand (08 R201), ENC (R202) and DEC (R203).
-/
namespace Sys2Proof.Machine

/-! ### Conversion of blocks of 256 elements -/

/-- A format of R31 as blocks hold it: 256 consecutive elements, or a plane of codes with a scale (03 R66). -/
inductive BlkFmt where
  | plain (f : NumFmt)
  | block (fe : FFmt)
  deriving DecidableEq, Repr

/-- All 16 codes are accepted (R201). -/
def BlkFmt.ofCode (c : Nat) : BlkFmt :=
  match blockElem c with
  | some fe => .block fe
  | none => .plain ((NumFmt.ofCode c).getD (.flt .f32))

def BlkFmt.width : BlkFmt → Nat
  | .plain f => f.width
  | .block fe => fe.width
/-- Bytes of a block of 256 elements. -/
def BlkFmt.bytes (b : BlkFmt) : Nat := 32 * b.width + (match b with | .block _ => 3 | .plain _ => 0)

/-- Elements from bytes, each with its poison; two 4-bit elements share a byte (03 R64). -/
def elemsOf (width : Nat) (bs : List PByte) : List (Nat × Bool) :=
  if width = 4 then (bs.map (fun b => [(b.1.toNat % 16, b.2), (b.1.toNat / 16, b.2)])).flatten
  else (chunks (width / 8) (bs.length / (width / 8)) bs).map (fun c => (leNat (pbytes c), anyBad c))

/-- Bytes from elements. -/
def bytesOf (width : Nat) (es : List (Nat × Bool)) : List PByte :=
  if width = 4 then (chunks 2 (es.length / 2) es).map (fun c =>
    (BitVec.ofNat 8 ((c.getD 0 (0, false)).1 + 16 * (c.getD 1 (0, false)).1), c.any (·.2)))
  else (es.map (fun e => (leBytes e.1 (width / 8)).map (fun b => (b, e.2)))).flatten

/-- code × scale, rounded once to a plain format (R201). -/
def dequantTo (t : NumFmt) (v : FVal) (scale : Nat) : Nat × Flags :=
  match Scale.ofBits scale with
  | .zero => (0, {})
  | .invalid => let (x, f) := t.convert .rne true 0 .nan; (x, { f with inv := true })
  | .val sm se =>
    match v with
    | .fin n m e => t.convert .rne true 0 (.fin n (m * sm) (e + se))
    | v => t.convert .rne true 0 v

/-- The scale of a stored block. -/
def scaleOf (bs : List PByte) : Nat := leNat (pbytes (bs.drop (bs.length - 3)))

/-- The elements of a source block as a plain format holds them, with flags. -/
def toPlain (src : BlkFmt) (t : NumFmt) (bs : List PByte) : List ((Nat × Bool) × Flags) :=
  match src with
  | .plain f => (elemsOf f.width bs).map (fun e => let (x, fl) := cvtElem f t (f == t) .rne true 0 e.1; ((x, e.2), fl))
  | .block fe =>
    let sc := scaleOf bs
    let badScale := anyBad (bs.drop (bs.length - 3))
    (elemsOf fe.width (bs.take (bs.length - 3))).map (fun e =>
      let (x, fl) := dequantTo t (fe.value e.1) sc
      ((x, e.2 || badScale), fl))

/-- A block of f32 elements as R70 stores it: codes and scale. -/
def quantBlock (fe : FFmt) (es : List (Nat × Bool)) : List PByte × Flags :=
  let vals := es.map (fun e => FFmt.f32.value e.1)
  let bad := es.any (·.2)
  let (sc, invalid) := blockScale fe vals
  let codes := vals.map (quant fe .rne 0 sc)
  let fl := codes.foldl (fun (f : Flags) c => f.or c.2) { inv := invalid }
  (bytesOf fe.width (codes.map (fun c => (c.1, bad))) ++ (leBytes sc 3).map (fun b => (b, bad)), fl)

/-- One block converted (R201), always with RNE and saturation. -/
def convertBlock (src dst : BlkFmt) (bs : List PByte) : List PByte × Flags :=
  match dst with
  | .plain t =>
    let rs := toPlain src t bs
    (bytesOf t.width (rs.map (·.1)), rs.foldl (fun (f : Flags) r => f.or r.2) {})
  | .block fe =>
    let rs := toPlain src (.flt .f32) bs
    let (out, fl) := quantBlock fe (rs.map (·.1))
    (out, (rs.foldl (fun (f : Flags) r => f.or r.2) {}).or fl)

/-- XFORM convert (R201). -/
def xformConvertE (sa sb : BitVec 2) (f1 f2 : BitVec 4) (n : BitVec 12) : EngOp := fun q k s => do
  let src := BlkFmt.ofCode f1.toNat
  let dst := BlkFmt.ofCode f2.toNat
  let x := s.cmdCtx q
  let a ← asAddr (k.here sa.toNat)
  let b ← asAddr (k.here sb.toNat)
  (upFrom 0 (count12 n)).foldlM (fun (acc : State × Cmd) i => do
    let (bs, s) ← acc.1.engRead acc.2 x (a + i * src.bytes) src.bytes
    let (out, fl) := convertBlock src dst bs
    s.engWrite (acc.2.flag fl) x (b + i * dst.bytes) out) (s, k)

/-! ### Compression -/

/-- Metadata words take whole sectors. -/
def mdSpan (n : Nat) : Nat := 256 * ceilDiv (8 * n) 256

/-- XFORM compress (R201): the metadata words, then each block's sectors in order; METH is m on every block. -/
def xformCompressE (sa sb : BitVec 2) (m : BitVec 4) (n : BitVec 12) : EngOp := fun q k s => do
  let x := s.cmdCtx q
  let cnt := count12 n
  let a ← asAddr (k.here sa.toNat)
  let b ← asAddr (k.here sb.toNat)
  let (bs, s) ← s.engRead k x a (4096 * cnt)
  let parts := (chunks 4096 cnt bs).map (fun blk => let (st, md) := compressBlock m.toNat (pbytes blk); (st, md, anyBad blk))
  let mds := (parts.map (fun p => (leBytes p.2.1 8).map (fun y => (y, p.2.2)))).flatten
  let pad := List.replicate (mdSpan cnt - 8 * cnt) ((0 : Byte), false)
  let body := (parts.map (fun p => p.1.map (fun y => (y, p.2.2)))).flatten
  s.engWrite k x b (mds ++ pad ++ body)

/-- Bytes that the spec does not define (log entry 14). -/
def lostBytes (f n : Nat) : List Byte := (upFrom f n).map (fun i => BitVec.ofNat 8 (Config.lostSymbol i))

/-- One block expanded (R201): a failure of its check or another method poisons its output, whose bytes stay those of the expansion (R195); a form
that gives none leaves free bytes. -/
def expandOne (m md : Nat) (mdBad : Bool) (sec : List PByte) (f : Nat) : List PByte :=
  let space := padTo 4096 (pbytes sec)
  let bad := mdBad || anyBad sec || md % 4 != m || (expandBlock space md).isNone
  ((expandForm space md).getD (lostBytes f 4096)).map (fun b => (b, bad))

/-- XFORM expand (R201). -/
def xformExpandE (sa sb : BitVec 2) (m : BitVec 4) (n : BitVec 12) : EngOp := fun q k s => do
  let x := s.cmdCtx q
  let cnt := count12 n
  let a ← asAddr (k.here sa.toNat)
  let b ← asAddr (k.here sb.toNat)
  let (mdb, s) ← s.engRead k x a (8 * cnt)
  let mds := (chunks 8 cnt mdb).map (fun c => (leNat (pbytes c), anyBad c))
  let (s, k, _, _) ← mds.foldlM (fun (acc : State × Cmd × Nat × Nat) e => do
    let (s, k, i, pos) := acc
    let len := 256 * (16 - e.1 / 4 % 16)
    let (sec, s) ← s.engRead k x pos len
    let s : State := { s with fresh := s.fresh + 4096 }
    let (s, k) ← s.engWrite k x (b + 4096 * i) (expandOne m.toNat e.1 e.2 sec (s.fresh - 4096))
    .ok (s, k, i + 1, pos + len)) (s, k, 0, a + mdSpan cnt)
  .ok (s, k)

/-! ### Coded weights -/

/-- The table t of the core that a command belongs to (07 R165, R166). -/
def Core.table (co : Core) (t : Nat) : Option (List Nat) := Tbl.get none co.mtx.tabs t

/-- A coded tile read through its index entry (07 R164, 18 R315): its 8 KiB of plain bytes, whether it is poisoned, the state. The symbols of a
poisoned tile are not checked, and are lost where the stream is malformed (07 R161). -/
def State.readTile (s : State) (k : Cmd) (x core fmt entry tbase : Nat) : Except StepErr (List Byte × Bool × State) := do
  let (eb, s) ← s.engRead k x entry 8
  let e := leNat (← s.consume x entry eb)
  if entryOk e = false then .error (.malformed entry 1)
  else
    let (bs, s) ← s.engRead k x (tbase + entryOff e) (entryLen e)
    match decodeTile fmt (s.core core).table (tbase + entryOff e) (pbytes bs), anyBad bs with
    | .ok plain, bad => .ok (plain, bad, s)
    | .error _, true => .ok (lostBytes s.fresh 8192, true, { s with fresh := s.fresh + 8192 })
    | .error (d, p), false => .error (.malformed p d)

/-- DEC (R203): a tile is written once every segment has passed its checks. -/
def decE (sa sb : BitVec 2) (f1 : BitVec 4) (n : BitVec 12) : EngOp := fun q k s => do
  let x := s.cmdCtx q
  let a ← asAddr (k.here sa.toNat)
  let b ← asAddr (k.here sb.toNat)
  (upFrom 0 (count12 n)).foldlM (fun (acc : State × Cmd) i =>
    match acc.1.readTile acc.2 x acc.2.pusher f1.toNat (a + 8 * i) (acc.2.baseAddr sa.toNat) with
    | .error e => .error (.after acc.1 acc.2 e)
    | .ok (plain, bad, s) => s.engWrite acc.2 x (b + 8192 * i) (plain.map (fun y => (y, bad)))) (s, k)

/-- ENC's descriptor (R202). -/
structure EncDesc where
  tb   : Nat
  tile : Nat
  app  : Nat
  deriving DecidableEq, Repr

def EncDesc.ofBytes (bs : List Byte) : EncDesc :=
  let v := leNat bs
  ⟨v / 2 ^ 64, v / 2 ^ 40 % 2 ^ 24, v % 2 ^ 40⟩
def EncDesc.bytes (d : EncDesc) : List Byte := leBytes (d.tb * 2 ^ 64 + d.tile % 2 ^ 24 * 2 ^ 40 + d.app % 2 ^ 40) 16

/-- The descriptor goes back with the command's other writes; later ENC steps of the command read it as this step leaves it. -/
def EncDesc.back (d : EncDesc) (x at_ : Nat) (s : State) (k : Cmd) : StepRes := s.engWriteOrd k x at_ true (clean d.bytes)

/-- One tile (R202): a command fault writes nothing of it. The index entry of a poisoned tile, whose length depends on it, is poisoned as the tile
is, and the descriptor is not (DESIGN CHOICE, log entry 96). -/
def encTile (x src : Nat) (fmt t : Nat) (acc : State × Cmd × EncDesc) : Except StepErr (State × Cmd × EncDesc) := do
  let (s, k, d) := acc
  match (s.core k.pusher).table t with
  | none => .error .fault
  | some freqs =>
    let (bs, s) ← s.engRead k x src 8192
    match encodeTile fmt freqs t (pbytes bs) with
    | none => .error .fault
    | some coded =>
      let room := 64 * ceilDiv coded.length 64
      demand (d.app + room < 2 ^ 40 && coded.length < 2 ^ 24)
      let bad := anyBad bs
      let (s, k) ← s.engWrite k x (d.tb + d.app) (coded.map (fun y => (y, bad)))
      let (s, k) ← s.engWrite k x (d.tb + 8 * d.tile) ((leBytes (coded.length * 2 ^ 40 + d.app) 8).map (fun y => (y, bad)))
      .ok (s, k, { d with tile := d.tile + 1, app := d.app + room })

/-- ENC (R202): the tiles are appended in order; those before one that faults stand. -/
def encE (sa sb : BitVec 2) (f1 t : BitVec 4) (n : BitVec 12) : EngOp := fun q k s => do
  let x := s.cmdCtx q
  let a ← asAddr (k.here sa.toNat)
  let at_ ← asAddr (k.here sb.toNat)
  let (db, s) ← s.engRead k x at_ 16
  let d := EncDesc.ofBytes (← s.consume x at_ db)
  demand (d.app % 64 = 0 && d.tile + count12 n ≤ 2 ^ 24)
  let (s, k, d) ← (upFrom 0 (count12 n)).foldlM (fun (acc : State × Cmd × EncDesc) i =>
    match encTile x (a + 8192 * i) f1.toNat t.toNat acc with
    | .ok r => .ok r
    | .error e =>
      match acc.2.2.back x at_ acc.1 acc.2.1 with
      | .ok (s, k) => .error (.after s k e)
      | .error e' => .error e') (s, k, d)
  d.back x at_ s k

/-- The step words of a transform queue. -/
def mvXformOp : Instr → Option EngOp
  | .xformConvert sa sb f1 f2 n => some (xformConvertE sa sb f1 f2 n)
  | .xformCompress sa sb m n => some (xformCompressE sa sb m n)
  | .xformExpand sa sb _ m n => some (xformExpandE sa sb m n)
  | .enc sa sb f1 t n => some (encE sa sb f1 t n)
  | .dec sa sb f1 n => some (decE sa sb f1 n)
  | _ => none

def execXformConvert (sa sb : BitVec 2) (f1 f2 : BitVec 4) (n : BitVec 12) (s : State) : Out :=
  stepWord isMvXform (xformConvertE sa sb f1 f2 n) s
def execXformCompress (sa sb : BitVec 2) (method : BitVec 4) (n : BitVec 12) (s : State) : Out :=
  stepWord isMvXform (xformCompressE sa sb method n) s
/-- XFORM.exp: f1 is zero in every well-formed word (02 R59). -/
def execXformExpand (sa sb : BitVec 2) (_f1 method : BitVec 4) (n : BitVec 12) (s : State) : Out :=
  stepWord isMvXform (xformExpandE sa sb method n) s
def execEnc (sa sb : BitVec 2) (f1 t : BitVec 4) (n : BitVec 12) (s : State) : Out := stepWord isMvXform (encE sa sb f1 t n) s
def execDec (sa sb : BitVec 2) (f1 : BitVec 4) (n : BitVec 12) (s : State) : Out := stepWord isMvXform (decE sa sb f1 n) s

end Sys2Proof.Machine
end

