-- ==== Sys2Proof/Machine/Carousel.lean ====
section
/-!
DEFINITION. Sys2Proof/Machine/Carousel.lean: the carousel: CRED, CGATH and CBAR (08 R207), steps in progress, consumes, arrivals and
sends (21 R344-R355).
-/
namespace Sys2Proof.Machine

/-! ### Ring and chunk entry -/

/-- h+ and h− of a ring of P members (21 R348). -/
def hPlus (p : Nat) : Nat := (p - 1) / 2
def hMinus (p : Nat) : Nat := p - 1 - hPlus p

/-- The distance d from the owner (R348). -/
def CrslStep.d (t : CrslStep) : Nat := (t.rank + t.p - t.orank) % t.p

/-- Does a step wait, or has it begun and not finished? -/
def CrslStep.open_ (t : CrslStep) : Bool := t.kind != .bar && !t.todo.isEmpty

/-- Bytes of a chunk in memory (R346). -/
def CrslStep.bytes (t : CrslStep) : Nat := 256 * t.blocks * (if t.fmt = 2 then 2 else 4)

/-- CRED's actions (R348). -/
def credActs (d hp hm : Nat) : List CrslAct :=
  let minus := [.consume false, .send [true]]
  let plus := [.consume false, .send [false]]
  if d = 0 then (upFrom 0 ((if 0 < hp then 1 else 0) + (if 0 < hm then 1 else 0))).map (fun j => .take (some j))
  else if d ≤ hm then (if d < hm then [.take (some 0)] else []) ++ minus
  else (if hp + hm + 1 - d < hp then [.take (some 0)] else []) ++ plus

/-- A send, unless it has no direction. -/
def sendAct (dirs : List Bool) : List CrslAct := if dirs.isEmpty then [] else [.send dirs]

/-- CGATH's actions (R349); an owner's sends carry one reading of the data, so that every rank ends with the same bits. -/
def cgathActs (d hp hm : Nat) : List CrslAct :=
  if d = 0 then .consume false :: sendAct ((if 0 < hm then [false] else []) ++ (if 0 < hp then [true] else []))
  else .take none :: sendAct ((if d < hm then [false] else []) ++ (if hm < d ∧ hp + hm + 1 - d < hp then [true] else []))

/-- Does a whole range lie in the stage SRAM of a context's cores (R347)? -/
def Ctx.inStage (x : Ctx) (va n : Nat) : Bool :=
  (piecesOf va n).all (fun pc => match x.place false pc.1 with
    | some p => isSram p.key && x.coreList.contains (sliceCore p.key)
    | none => false)

/-- The format codes that CRED and CGATH admit (08 R207). -/
def crslFmt (f : Nat) : Bool := f == 1 || f == 2 || f == 13 || f == 14

/-- Reserved bits of a chunk entry (R346), as ranges of the 256-bit value. -/
def chunkReserved (e : Nat) : Bool :=
  slice e 255 176 == 0 && slice e 167 164 == 0 && slice e 159 154 == 0 && slice e 127 120 == 0 && slice e 63 56 == 0

/-- The agreed scales (R346): one 4-byte slot a block. A consumed poisoned scale loses the context (24 R388). -/
def State.crslScales (s : State) (k : Cmd) (x scl blocks : Nat) : Except StepErr (List Nat × State) := do
  let (bs, s) ← s.engRead k x scl (4 * blocks)
  let bs ← s.consume x scl bs
  .ok ((chunks 4 blocks bs).map leNat, s)

/-- An agreed scale that the carousel accepts (R347). -/
def scaleOk (w : Nat) : Bool := slice w 31 24 == 0 && slice w 23 16 != 0 && slice w 23 16 != 255

/-- The bytes of a chunk entry (R344, R346). -/
def State.chunkEntry (s : State) (k : Cmd) (x c : Nat) : Except StepErr (Nat × State) := do
  let at_ := slice (s.ctx x).crtab.toNat 55 0 + 32 * c
  let (bs, s) ← s.engRead k x at_ 32
  .ok (leNat (← s.consume x at_ bs), s)

/-- The fields that a step takes from its command. -/
def Cmd.crslStep (k : Cmd) (sid die : Nat) (kind : CrslKind) (bucket chunk fmt : Nat) : CrslStep :=
  { sid := sid, uid := k.uid, num := k.num, die := die, iter := k.iter, step := k.step, kind := kind, bucket := bucket, chunk := chunk,
    fmt := fmt, addr := 0, slots := 0, blocks := 0, scales := [], core := 0, asem := 0, ssem := 0, orank := 0, rank := 0, p := 1,
    todo := [], came := [], status := 0, acq := [], see := 0, rel := [] }

/-- A step of CRED or CGATH that is taken (R351): chunk c = chunk field + i (R347). It does nothing until the earlier steps for c have finished. -/
def Cmd.taken (k : Cmd) (sid die : Nat) (gather : Bool) (sa : BitVec 2) (chunk fmt bucket : Nat) : CrslStep :=
  { k.crslStep sid die (if gather then .gather else .reduce) bucket (chunk + k.iter) fmt with todo := [.begin sa.toNat] }

/-- A step begins: the checks of R347, with the registers, the entry and the scales as they are now, and what the step is to do. A scale that is
NaN sets INV (03 R66). -/
def State.openStep (s : State) (k : Cmd) (x : Nat) (t : CrslStep) (sa : Nat) : Except StepErr (CrslStep × State) := do
  demand (crslFmt t.fmt)
  let xx := s.ctx x
  let rank := slice xx.crcfg.toNat 7 0
  let p := slice xx.crcfg.toNat 15 8 + 1
  let c := t.chunk
  demand (decide (c ≤ slice xx.crcfg.toNat 27 16) && decide (rank < p))
  let (e, s) ← s.chunkEntry k x c
  let coord := slice e 135 128
  let t : CrslStep := { t with
    slots := slice e 55 0, blocks := slice e 163 160 + 1, core := coreOfCoord coord, asem := slice e 144 136, ssem := slice e 153 145
    orank := slice e 175 168, rank := rank, p := p }
  demand (chunkReserved e && decide (t.orank < p) && coordOk coord && s.coreIn x t.core)
  let a ← k.at_ sa 128
  demand (t.slots % 128 == 0 && xx.inStage a t.bytes && xx.inStage t.slots (2 * t.bytes))
  let scl := slice e 119 64
  demand (scl % 4 == 0)
  let (scales, s) ← if (blockElem t.fmt).isSome then s.crslScales k x scl t.blocks else .ok ([], s)
  if scales.any (fun w => slice w 23 16 == 255) then
    .error (.after (s.modCmd (.crsl x t.die) t.uid (fun k => k.flag { inv := true })) (k.flag { inv := true }) .fault)
  else
    demand (scales.all scaleOk)
    demand (!xx.crsl.any (fun u => u.die != t.die && u.chunk == c && u.open_))
    let acts := (if t.kind = .gather then cgathActs else credActs) t.d (hPlus p) (hMinus p)
    .ok ({ t with addr := a, scales := scales, todo := acts }, s)

/-- Steps stand in the order of their commands, iterations and words (R351). -/
def CrslStep.before (a b : CrslStep) : Bool :=
  decide (a.num < b.num) || (a.num == b.num && (decide (a.iter < b.iter) || (a.iter == b.iter && decide (a.step < b.step))))

def insertStep (t : CrslStep) : List CrslStep → List CrslStep
  | [] => [t]
  | u :: us => if u.die == t.die && t.before u then t :: u :: us else u :: insertStep t us

/-- Two steps in the same place of one command. -/
def CrslStep.same (a b : CrslStep) : Bool := a.uid == b.uid && a.iter == b.iter && a.step == b.step

/-- A bar has finished when every earlier step of its bucket has (R350). -/
def barDone (ts : List CrslStep) (b : CrslStep) : Bool :=
  ts.all (fun t => !(t.die == b.die && t.bucket == b.bucket && t.before b) || !t.open_)

/-- Steps in progress at a die's carousel (R351). -/
def Ctx.inProgress (x : Ctx) (die : Nat) : Nat :=
  (x.crsl.filter (fun t => t.die == die && (if t.kind = .bar then !barDone x.crsl t else t.open_))).length

/-- A step joins those in progress, as long as fewer than 256 are (R351); it takes the place of one that its command is to begin again. -/
def State.addStep (s : State) (x die : Nat) (k : Cmd) (t : CrslStep) : StepRes :=
  let xx := s.ctx x
  let xx := { xx with crsl := xx.crsl.filter (fun u => !u.same t) }
  if 256 ≤ xx.inProgress die then .error (.wait s)
  else .ok (s.setCtx x { xx with crsl := insertStep t xx.crsl }, k)

/-- CRED and CGATH (08 R207). -/
def chunkE (gather : Bool) (sa : BitVec 2) (chunk : BitVec 12) (fmt : BitVec 4) (bucket : BitVec 8) : EngOp := fun q k s =>
  match q with
  | .crsl x die =>
    ({ s with uid := s.uid + 1 } : State).addStep x die k (k.taken (s.uid + 1) die gather sa chunk.toNat fmt.toNat bucket.toNat)
  | _ => .error .fault

/-- CBAR (08 R207, 21 R350). -/
def cbarE (bucket : BitVec 8) : EngOp := fun q k s =>
  match q with
  | .crsl x die => ({ s with uid := s.uid + 1 } : State).addStep x die k (k.crslStep (s.uid + 1) die .bar bucket.toNat 0 0)
  | _ => .error .fault

/-! ### Coding (R354) -/

/-- A scale raised by a bump. -/
def bumped (scale b : Nat) : Nat := scale + b * 65536

/-- One element's code: a finite value under its scale, an infinity saturated, a NaN canonical. -/
def crslCode (fe : FFmt) (scale : Nat) (v : FVal) : Nat × Flags :=
  match v with
  | .fin _ _ _ => quant fe .rne 0 scale v
  | v => (NumFmt.flt fe).convert .rne true 0 v

/-- Does every finite element of a block fit under a bump? -/
def blockFits (fe : FFmt) (b scale : Nat) (vals : List FVal) : Bool :=
  vals.all (fun v => match v with | .fin _ _ _ => !(quant fe .rne 0 (bumped scale b) v).2.of | _ => true)

/-- The sender's bump: the least that fits, else the largest allowed. -/
def chooseBump (fe : FFmt) (scales : List Nat) (blocks : List (List FVal)) : Nat :=
  let bmax := min 8 (254 - scales.foldl (fun m w => max m (slice w 23 16)) 0)
  ((List.range (bmax + 1)).find? (fun t => (scales.zip blocks).all (fun e => blockFits fe t e.1 e.2))).getD bmax

/-- The chunk as a message carries it: its bytes, its bump, the flags. -/
def crslEncode (fmt : Nat) (scales : List Nat) (bs : List PByte) : List Byte × Nat × Flags :=
  match blockElem fmt with
  | none => (pbytes bs, 0, { poison := anyBad bs })
  | some fe =>
    let blocks := (chunks 256 scales.length (elemsOf 32 bs)).map (fun es => es.map (fun e => FFmt.f32.value e.1))
    let b := chooseBump fe scales blocks
    let codes := ((scales.zip blocks).map (fun e => e.2.map (crslCode fe (bumped e.1 b)))).flatten
    (codes.map (fun c => BitVec.ofNat 8 c.1), b, codes.foldl (fun (f : Flags) c => f.or c.2) { poison := anyBad bs })

/-- code × 2^b, exactly. -/
def raised (b : Nat) : FVal → FVal
  | .fin n m e => .fin n m (e + b)
  | v => v

/-- The chunk as a receiver writes it: code × s_j × 2^b, rounded once (R354): its bytes and the flags of the expansion. -/
def crslDecode (fmt : Nat) (scales : List Nat) (bump : Nat) (bytes : List Byte) : List Byte × Flags :=
  match blockElem fmt with
  | none => (bytes, {})
  | some fe =>
    let out := ((scales.zip (chunks 256 scales.length bytes)).map (fun e =>
      e.2.map (fun c => dequant .f32 .rne true 0 (raised bump (fe.value c.toNat)) e.1))).flatten
    ((out.map (fun r => leBytes r.1 4)).flatten, out.foldl (fun (f : Flags) r => f.or r.2) {})

/-! ### On the wire (R353) -/

/-- The 16-byte header of a message, as a number. -/
def ringHeader (m : RingMsg) : Nat :=
  m.src * 2 ^ 40 + m.bump * 2 ^ 36 + m.fmt * 2 ^ 32 + m.bucket * 2 ^ 24 + m.chunk * 2 ^ 12 + m.minus.toNat * 2 + m.gather.toNat

/-- A message as it travels: the header, then the data. -/
def ringWire (m : RingMsg) : List Byte := leBytes (ringHeader m) 16 ++ m.bytes

/-- What a message says; its reserved bits are not looked at, and BUMP is taken as it stands (DESIGN CHOICE, log entry 91). -/
def ringMsgOf (wire : List Byte) (poison : List Nat) : RingMsg :=
  let h := leNat (wire.take 16)
  { src := slice h 47 40, bump := slice h 39 36, fmt := slice h 35 32, bucket := slice h 31 24, chunk := slice h 23 12,
    minus := bitAt h 1, gather := bitAt h 0, bytes := wire.drop 16, poison := poison }

/-! ### The cores of a saved context (R355) -/

/-- The cores of a saved context that hold another one now. -/
def State.parkedCores (s : State) (x : Nat) : List Nat :=
  if (s.ctx x).st = .saved then (s.ctx x).coreList.filter (fun c => s.holder c != some x) else []

/-- The carousel state of a saved context stays in place and goes on: what its steps do at a core that holds another context now, they do
to the core's state as it was saved. -/
def State.inPlace (s : State) (x : Nat) (f : State → State) : State :=
  let now := (s.parkedCores x).map (fun c => (c, s.core c))
  let s1 := f (now.foldl (fun s e => s.setCore e.1 (Tbl.get Core.reset (s.ctx x).saved e.1)) s)
  now.foldl (fun s e =>
    let mine := s.core e.1
    let s := s.setCore e.1 e.2
    if (s.ctx x).st = .saved then s.modCtx x (fun xx => { xx with saved := Tbl.set Core.reset xx.saved e.1 mine }) else s) s1

/-- … where a queue is a carousel's. -/
def State.forQueue (s : State) (q : QId) (f : State → State) : State :=
  match q with
  | .crsl x _ => s.inPlace x f
  | _ => f s

/-! ### What a step in progress does -/

/-- Change a step. -/
def State.modStep (s : State) (x sid : Nat) (f : CrslStep → CrslStep) : State :=
  s.modCtx x (fun xx => { xx with crsl := mapFirst (fun t => t.sid == sid) f xx.crsl })

/-- The first unfinished step for a chunk on a die: the one that may act (R351). -/
def Ctx.acting (x : Ctx) (die chunk : Nat) : Option CrslStep := x.crsl.find? (fun t => t.die == die && t.chunk == chunk && t.open_)

/-- A step that is to be begun again: it stands in its place, so that what waits for it waits on (R350, R351). -/
def CrslStep.again (t : CrslStep) : CrslStep := { t with sid := 0, todo := [.halt], came := [], status := 0 }

/-- A step that fails: the command faults at it, and it and its later steps are to be begun again (02 R60, 08 R208). -/
def State.stepFault (s : State) (x : Nat) (t : CrslStep) : State :=
  let q := QId.crsl x t.die
  let later := fun (u : CrslStep) => u.uid == t.uid && (u.sid == t.sid || t.before u)
  let s := s.modCtx x (fun xx => { xx with
    crsl := (xx.crsl.filter (fun u => !(later u && u.kind == .bar))).map (fun u => if later u then u.again else u) })
  let s := s.modCmd q t.uid (fun k => { k with stage := 3, iter := t.iter, step := t.step })
  match (s.queue q).cmds.find? (fun k => k.uid == t.uid) with
  | some k => s.cmdFault q k
  | none => s

/-- The command that a step belongs to, with what the step acquired. -/
def State.stepCmd (s : State) (x : Nat) (t : CrslStep) : Cmd :=
  let k := ((s.queue (.crsl x t.die)).cmds.find? (fun k => k.uid == t.uid)).getD (newCmd [] none t.core none 0)
  { k with acq := k.acq ++ t.acq, see := max k.see t.see, status := t.status, cover := [] }

/-- An access of a step in progress that fails as a step's does. -/
def State.stepErr (s : State) (x : Nat) (t : CrslStep) (e : StepErr) : State :=
  match e with
  | .fault => s.stepFault x t
  | .after s' _ e => s'.stepErr x t e
  | e => stepFails (.crsl x t.die) e (s.stepCmd x t) s

/-- The rank that an arrival must come from (R345). -/
def CrslStep.expected (t : CrslStep) (minus : Bool) : Nat := if minus then (t.rank + 1) % t.p else (t.rank + t.p - 1) % t.p

/-- An arrival's bytes at its destination; the writes have a name of their own, which the add to ASEM releases (R352). -/
def State.landChunk (s : State) (x : Nat) (t : CrslStep) (slot : Option Nat) (m : RingMsg) : Except StepErr State := do
  let uid := s.uid + 1
  let dest := match slot with | some j => t.slots + j * t.bytes | none => t.addr
  let (out, fl) := crslDecode m.fmt t.scales m.bump m.bytes
  let pb := (out.mapIdx (fun i b => (b, m.poison.contains (i / 64)))).take t.bytes
  let k := { (s.stepCmd x t).flag fl with uid := uid }
  let (s, k) ← ({ s with uid := uid } : State).engWrite k x dest pb
  let s := s.modStep x t.sid (fun t => { t with
    todo := t.todo.drop 1, came := t.came ++ [m.minus], rel := t.rel ++ [uid], acq := t.acq ++ [uid], status := k.status })
  .ok (s.putSem t.core t.asem (((s.core t.core).sem t.asem).val + 1) [uid] 0)

/-- The sends of a step (R349, R354): the data are read once, wholly; an owner that codes a gather writes back what its receivers will
hold. -/
def State.sendChunk (s : State) (x : Nat) (t : CrslStep) (dirs : List Bool) : Except StepErr State := do
  let k := s.stepCmd x t
  let (bs, s) ← s.engRead k x t.addr t.bytes
  let (bytes, bump, fl) := crslEncode t.fmt t.scales bs
  let gather := t.kind == .gather
  let pois := poisonPieces bs
  let (s, k) ← if gather && t.d == 0 && (blockElem t.fmt).isSome then
      let (out, f2) := crslDecode t.fmt t.scales bump bytes
      s.engWrite ((k.flag fl).flag f2) x t.addr (out.mapIdx (fun i b => (b, pois.contains (i / 64))))
    else .ok (s, k.flag fl)
  let s := s.modStep x t.sid (fun t => { t with todo := t.todo.drop 1, status := k.status, rel := t.rel ++ [k.uid] })
  .ok (dirs.foldl (fun s minus => s.send (.carousel t.die
    (ringWire { src := t.rank, bump := bump, fmt := t.fmt, bucket := t.bucket, chunk := t.chunk, minus := minus, gather := gather,
                bytes := bytes, poison := pois }) pois)) s)

/-- The distances on the paths of the arrivals that a step awaits (R355): where the partial or the gather starts, every rank that relays it,
the neighbour that sends it. -/
def CrslStep.awaits (t : CrslStep) : List Nat :=
  let hp := hPlus t.p
  let hm := hMinus t.p
  let minus := upFrom (t.d + 1) (hm - t.d)
  let plus := fun (d : Nat) => upFrom (t.p - hp) (d - (t.p - hp))
  if t.kind = .gather then (if t.d ≤ hm then upFrom 0 t.d else 0 :: upFrom (t.d + 1) (t.p - 1 - t.d))
  else if t.d = 0 then (if t.came.contains true then [] else minus) ++ (if t.came.contains false then [] else plus t.p)
  else if t.d ≤ hm then minus else plus t.d

/-- Has the context lost a W4 that the awaited arrival needs (R355)? -/
def CrslStep.cutOff (t : CrslStep) (lost : List Nat) : Bool := t.awaits.any (fun d => lost.contains ((t.orank + d) % t.p))

/-- An arrival of a step's own chunk and kind. -/
def CrslStep.wants (t : CrslStep) (e : Nat × RingMsg) : Bool :=
  e.1 == t.die && e.2.chunk == t.chunk && e.2.gather == (t.kind == .gather)

/-- An awaited arrival is taken (R345, R353): from the expected rank, in the step's format and bucket. -/
def State.takeArrival (s : State) (x : Nat) (t : CrslStep) (slot : Option Nat) (m : RingMsg) : State :=
  if m.src = t.expected m.minus ∧ m.fmt = t.fmt ∧ m.bucket = t.bucket then
    match s.landChunk x t slot m with
    | .ok s' => s'
    | .error e => s.stepErr x t e
  else s.stepFault x t

/-- The acting step begins (R351). -/
def State.beginStep (s : State) (x : Nat) (t : CrslStep) (sa : Nat) : State :=
  let k := { s.stepCmd x t with iter := t.iter, step := t.step }
  match s.openStep k x t sa with
  | .ok (t', s') => s'.modStep x t.sid (fun _ => t')
  | .error e => s.stepErr x t e

/-- What the acting step of a chunk can do now, until it waits. The fuel bounds the actions. -/
def State.pump (s : State) (x die chunk : Nat) : Nat → State
  | 0 => s
  | f + 1 =>
    match (s.ctx x).acting die chunk with
    | none => s
    | some t =>
      match t.todo with
      | .begin sa :: _ => (s.beginStep x t sa).pump x die chunk f
      | .take slot :: _ =>
        (match takeFirst t.wants (s.ctx x).crslHeld with
        | some (e, rest) => ((s.modCtx x (fun xx => { xx with crslHeld := rest })).takeArrival x t slot e.2).pump x die chunk f
        | none => if t.cutOff (s.ctx x).lostRanks then s.stepFault x t else s)
      | .send dirs :: _ =>
        (match s.sendChunk x t dirs with
        | .ok s' => s'.pump x die chunk f
        | .error e => s.stepErr x t e)
      | _ => s

/-- Every action that a chunk's steps can take at once. -/
def State.pumpAll (s : State) (x die chunk : Nat) : State :=
  s.pump x die chunk (3 * (s.ctx x).crsl.length + (s.ctx x).crslHeld.length + 2)

/-- Every chunk that a die's steps act on. -/
def State.pumpDie (s : State) (x die : Nat) : State :=
  (((s.ctx x).crsl.filter (fun t => t.die == die && t.open_)).map (·.chunk)).eraseDups.foldl (fun s c => s.pumpAll x die c) s

/-! ### Meanings -/

/-- A carousel word: the step begins, and what it can do at once it does. -/
def crslWord (op : EngOp) (s : State) : Out :=
  match s.who with
  | .engine (.crsl x die) => .next (s.inPlace x (fun s => (s.engineTurn (.crsl x die) op).pumpDie x die))
  | _ => .fault .wrongAgent

def execCred (sa : BitVec 2) (chunk : BitVec 12) (fmt : BitVec 4) (bucket : BitVec 8) (s : State) : Out :=
  crslWord (chunkE false sa chunk fmt bucket) s
def execCgath (sa : BitVec 2) (chunk : BitVec 12) (fmt : BitVec 4) (bucket : BitVec 8) (s : State) : Out :=
  crslWord (chunkE true sa chunk fmt bucket) s
def execCbar (bucket : BitVec 8) (s : State) : Out := crslWord (cbarE bucket) s

/-- CAROUSEL_CONSUME (R352): the acting step's consume reaches CORE's file, where it waits among the other waiters; once it has been
granted, the sends follow. -/
def execCarouselConsume (ctx die chunk : Nat) (s : State) : Out :=
  eventStep s (fun s => s.inPlace ctx (fun s =>
    match (s.ctx ctx).acting die chunk with
    | none => s
    | some t =>
      match t.todo with
      | .consume false :: rest =>
        let sm := (s.core t.core).sem t.ssem
        if 1 ≤ sm.val then (s.consumeSem t.core t.ssem ctx t.sid).pumpAll ctx die chunk
        else
          (s.modStep ctx t.sid (fun t => { t with todo := .consume true :: rest })).modCore t.core (fun co =>
            co.setSem t.ssem { co.sem t.ssem with waiters := (co.sem t.ssem).waiters ++ [(.carousel ctx t.sid, 1)] })
      | _ => s.pumpAll ctx die chunk))

/-- Does the acting step of a message's chunk await it now? -/
def State.crslAwaited (s : State) (x die : Nat) (m : RingMsg) : Bool :=
  match (s.ctx x).acting die m.chunk with
  | some t => t.wants (die, m) && (match t.todo with | .take _ :: _ => true | _ => false)
  | none => false

/-- An arrival (R351): awaited, or held at the port while fewer than 256 are; a full hold stalls the switch. -/
def State.crslArrival (s : State) (x die : Nat) (m : RingMsg) : State :=
  if (s.ctx x).st = .empty then s
  else if s.crslAwaited x die m ∨ ((s.ctx x).crslHeld.filter (fun e => e.1 == die)).length < 256 then
    (s.modCtx x (fun xx => { xx with crslHeld := xx.crslHeld ++ [(die, m)] })).pumpAll x die m.chunk
  else s

/-- Is the hold of a die full, and the message none that a step awaits: does the switch wait (R351)? -/
def State.crslStalls (s : State) (x die : Nat) (m : RingMsg) : Bool :=
  (s.ctx x).st != .empty && decide (256 ≤ ((s.ctx x).crslHeld.filter (fun e => e.1 == die)).length) && !s.crslAwaited x die m

/-- The ring port of a die gives up the flits that carry a message, the oldest that it has received (22 R345, R361). -/
def State.takeWire (s : State) (die : Nat) (wire : List Byte) : Option State :=
  let v := s.port (6 + die)
  let w := payloadsOf wire
  if w.isPrefixOf v.got then some (s.setPort (6 + die) { v with got := v.got.drop w.length }) else none

/-- A message of a kind that the port's flits have brought is taken (R353; 22 R361); one of the other kind is no such arrival, and one for which
the hold is full waits at the port. -/
def ringArrival (gather : Bool) (ctx die : Nat) (wire : List Byte) (poison : List Nat) (s : State) : Out :=
  eventStep s (fun s =>
    let m := ringMsgOf wire poison
    if m.gather ≠ gather ∨ s.crslStalls ctx die m then s
    else match s.takeWire die wire with
      | some s => s.inPlace ctx (fun s => s.crslArrival ctx die m)
      | none => s)

/-- CAROUSEL_REDUCE_ARRIVAL (R348, R351-R354). -/
def execCarouselReduceArrival (ctx die : Nat) (msg : RingWire) (s : State) : Out :=
  ringArrival false ctx die msg.wire msg.poison s

/-- CAROUSEL_GATHER_ARRIVAL (R349, R351-R354). -/
def execCarouselGatherArrival (ctx die : Nat) (msg : RingWire) (s : State) : Out :=
  ringArrival true ctx die msg.wire msg.poison s

/-- The context loses the W4s that hold some ranks (R355). -/
def State.loseRanks (s : State) (x : Nat) (ranks : List Nat) : State :=
  (s.modCtx x (fun xx => { xx with lostRanks := (xx.lostRanks ++ ranks).eraseDups })).inPlace x (fun s => (s.pumpDie x 0).pumpDie x 1)

/-- The switch has discarded the message that the acting step of a chunk awaits (22 R363): the step fails as for a lost W4. -/
def State.discardedArrival (s : State) (x die chunk : Nat) : State :=
  s.inPlace x (fun s => match (s.ctx x).acting die chunk with
    | some t => (match t.todo with
      | .take _ :: _ => s.stepFault x t
      | _ => s)
    | none => s)

/-! ### What a command of the carousel gathers at its completion (R350) -/

/-- The steps that a bar covers: of its bucket, before it, after the bar of the bucket before it. -/
def covered (ts : List CrslStep) (b : CrslStep) : List CrslStep :=
  let bars := ts.filter (fun u => u.kind == .bar && u.die == b.die && u.bucket == b.bucket && u.before b)
  ts.filter (fun u => u.kind != .bar && u.die == b.die && u.bucket == b.bucket && u.before b && !bars.any (fun v => u.before v))

/-- The steps whose writes a bar releases: every earlier one of its bucket. -/
def released (ts : List CrslStep) (b : CrslStep) : List CrslStep :=
  ts.filter (fun u => u.kind != .bar && u.die == b.die && u.bucket == b.bucket && u.before b)

/-- Has every step of a command finished (R351)? -/
def stepsDone (ts : List CrslStep) (die uid : Nat) : Bool :=
  (ts.filter (fun t => t.die == die && t.uid == uid)).all (fun t => if t.kind = .bar then barDone ts t else !t.open_)

/-- The status and the releases that a command's steps give it; a command with a bar takes the status of what its bars cover alone (R350). -/
def crslResult (ts : List CrslStep) (die uid : Nat) : BitVec 64 × List Nat :=
  let mine := ts.filter (fun t => t.die == die && t.uid == uid)
  let bars := mine.any (fun t => t.kind == .bar)
  mine.foldl (fun (acc : BitVec 64 × List Nat) t =>
    if t.kind = .bar then
      ((covered ts t).foldl (fun w u => joinStatus w u.status) acc.1,
       acc.2 ++ ((released ts t).map (fun u => u.rel ++ u.acq ++ [u.uid])).flatten)
    else (if bars then acc.1 else joinStatus acc.1 t.status, acc.2 ++ t.rel)) (0, [])

end Sys2Proof.Machine
end

