-- ==== Sys2Proof/Machine/Placement.lean ====
section
/-!
DEFINITION. Sys2Proof/Machine/Placement.lean: the placement image (15 R273) and the rules of its sections: translation entries (20 R328, R329,
R337-R339; 12 R235; 18 R318; 24 R389), SRAM allocations (12 R236), rings (12 R240, R242), flip regions (15 R288), cores (01 R14, 25
R398, R402), reservations (12 R249, 16 R292); and what a placement does to the W4 (12 R233, R234).
-/
namespace Sys2Proof.Machine

/-! ### Memories (20 R328) -/

/-- A memory of R328. -/
inductive Memory where
  | hbm (stack : Nat)
  | lpddr (die : Nat)
  | cxl
  | slice (core : Nat)
  deriving DecidableEq, Repr

/-- Bytes of CXL memory, from the base of its window (R328; 01 R20). -/
def cxlSize : Nat := min Config.cxlBytes Config.cxlMax
/-- First address of the CXL window. -/
def cxlBase : Nat := 0x80000000000

/-- The memory that holds a physical address, of a W4 with so many bytes of CXL memory. -/
def memoryIn (cxl pa : Nat) : Option Memory :=
  if pa < 8 * 0x1000000000 then some (.hbm (pa / 0x1000000000))
  else if 0x10000000000 ≤ pa ∧ pa < 0x30000000000 then some (.lpddr (pa / 0x10000000000 - 1))
  else if cxlBase ≤ pa ∧ pa < cxlBase + cxl then some .cxl
  else if isSram pa then some (.slice (sliceCore pa))
  else none

/-- The memory of this W4 that holds a physical address. -/
def memoryOf (pa : Nat) : Option Memory := memoryIn cxlSize pa

/-- Does a range lie wholly in one memory of a W4? -/
def inOneMemoryOf (cxl lo n : Nat) : Bool := (memoryIn cxl lo).isSome && memoryIn cxl lo == memoryIn cxl (lo + n - 1)
/-- Does a range lie wholly in one memory of this W4? -/
def inOneMemory (lo n : Nat) : Bool := inOneMemoryOf cxlSize lo n

/-- Do two ranges meet? -/
def meets (a n b m : Nat) : Bool := decide (a < b + m) && decide (b < a + n)

/-! ### The image -/

/-- A placement image with its header's fields (R273). -/
structure Image where
  ptab  : Nat
  pinq  : List Nat
  sts   : List Nat
  hbk   : List Nat
  tbk   : List Nat
  ltt   : List LttEntry
  sram  : List SramAlloc
  rings : List (Option Ring)
  flips : List Flip
  cores : List (Nat × Nat × Nat)
  deriving DecidableEq, Repr

/-- A physical read by the W4 itself. -/
def State.physBytes (s : State) (pa n : Nat) : List Byte := s.ms.peekBytes (physPlace pa) n

/-- n records of `size` bytes from a physical address. -/
def State.records (s : State) (pa n size : Nat) : List Nat := (upFrom 0 n).map (fun i => leNat (s.physBytes (pa + size * i) size))

/-- Bytes of a section, aligned to 64 (R273). -/
def sectionLen (n size : Nat) : Nat := ceilDiv (n * size) 64 * 64

/-- A translation entry (20 R337), none when a reserved field is not zero. -/
def lttEntryOf (e : Nat) : Option LttEntry :=
  if slice e 255 216 = 0 ∧ slice e 191 177 = 0 ∧ slice e 127 100 = 0 then
    some { vbase := slice e 63 24 * 2 ^ 16, size := slice e 15 10, pbase := slice e 99 64 * 2 ^ 16, place := slice e 9 7, comp := slice e 6 4,
           cache := bitAt e 3, rowop := bitAt e 2, ft := bitAt e 1, pois := bitAt e 0, flip := slice e 23 16, mb := slice e 176 128 * 8,
           rw4 := slice e 215 192 }
  else none

/-- An SRAM allocation entry (12 R236). -/
def sramAllocOf (e : Nat) : Option SramAlloc :=
  if slice e 127 80 = 0 ∧ slice e 63 56 = 0 then some ⟨slice e 55 0, slice e 79 68, bitAt e 67, slice e 66 64⟩ else none

/-- A ring descriptor (12 R240): all zero declares no ring. -/
def ringOf (e : Nat) : Option (Option Ring) :=
  if e = 0 then some none
  else if slice e 127 120 = 0 ∧ slice e 88 56 = 0 then
    some (some { base := slice e 55 0, logsl := slice e 101 98, slotb := (slice e 97 89 + 1) * 128, orole := slice e 103 102, chan := bitAt e 104,
                 gv := bitAt e 105, grole := slice e 107 106, gctx := slice e 111 108, gq := slice e 119 112 })
  else none

/-- A flip entry (15 R288). -/
def flipOf (e : Nat) : Option Flip :=
  if slice e 63 52 = 0 ∧ slice e 127 65 = 0 then some ⟨slice e 51 0, bitAt e 64, none⟩ else none

/-- A core entry (R273): the core, LBV, LBS. -/
def coreEntryOf (e : Nat) : Option (Nat × Nat × Nat) :=
  if slice e 63 39 = 0 ∧ coordOk (slice e 7 0) then some (coreOfCoord (slice e 7 0), slice e 17 8, slice e 38 18) else none

/-- All of a list, or none. -/
def allSome {α : Type} : List (Option α) → Option (List α)
  | [] => some []
  | none :: _ => none
  | some a :: r => (allSome r).map (a :: ·)

/-- Read a placement image (R273). None when a reserved field is not zero or a count is out of its range. A count above a limit of 01 R23
(NLTT, NRING) rejects the image with code 6, as every other rule of it, not the packet with code 4 (DESIGN CHOICE, log entry 79). -/
def State.readImage (s : State) (pa : Nat) : Option Image := do
  let h := leNat (s.physBytes pa 64)
  let nltt := slice h 63 51
  let nsra := slice h 50 44
  let nring := slice h 43 35
  let nflip := slice h 34 27
  let ncore := slice h 26 19
  let ok : Bool := slice h 511 273 == 0 && slice h 87 64 == 0 && slice h 18 0 == 0 && decide (1 ≤ nltt) && decide (nltt ≤ 4096) &&
    decide (nsra ≤ 64) && decide (nring ≤ 256) && decide (nflip ≤ 255) && decide (1 ≤ ncore) && decide (ncore ≤ 128) &&
    decide (slice h 127 108 ≤ 393216) && decide (slice h 107 88 ≤ 393216) && decide (slice h 186 176 ≤ 1536) && decide (slice h 175 165 ≤ 1536)
  if ok then
    let a1 := pa + 64
    let a2 := a1 + sectionLen nltt 32
    let a3 := a2 + sectionLen nsra 16
    let a4 := a3 + sectionLen nring 16
    let a5 := a4 + sectionLen nflip 16
    let ltt ← allSome ((s.records a1 nltt 32).map lttEntryOf)
    let sram ← allSome ((s.records a2 nsra 16).map sramAllocOf)
    let rings ← allSome ((s.records a3 nring 16).map ringOf)
    let flips ← allSome ((s.records a4 nflip 16).map flipOf)
    let cores ← allSome ((s.records a5 ncore 8).map coreEntryOf)
    some { ptab := slice h 164 128 * 2 ^ 15, pinq := [slice h 127 108, slice h 107 88], sts := [slice h 175 165, slice h 186 176],
           hbk := [slice h 205 187, slice h 224 206], tbk := [slice h 248 225, slice h 272 249], ltt := ltt, sram := sram, rings := rings,
           flips := flips, cores := cores }
  else none

/-! ### Translation entries -/

/-- The contexts placed on the W4 but for one. -/
def State.others (s : State) (n : Nat) : List (Nat × Ctx) := s.ctxs.filter (fun e => e.1 != n && e.2.st != .empty)

/-- A stage-SRAM range that another context grants to context n (12 R235, R242). -/
def State.grantedRange (s : State) (n lo len : Nat) : Bool :=
  (s.others n).any (fun o => (o.2.rings.filterMap (·.2)).any (fun r => r.gv && r.gctx == n &&
    (match o.2.ringAlloc r with | some (a, l) => decide (a ≤ lo) && decide (lo + len ≤ a + l) | none => false)))

/-- Does a range hold a retired page (24 R389)? -/
def State.hasRetired (s : State) (lo n : Nat) : Bool := s.ms.retired.any (fun e => decide (lo / 4096 ≤ e.1) && decide (e.1 < (lo + n) / 4096))

/-- One translation entry of context n on some cores (R338; R235; R318; R329; R339). What a home W4 has of CXL memory is not known here, so an
entry with PLACE = 3 may name any address of it that one may have (log entry 16); no slice of another W4 can be reached (R235). -/
def State.entryOk (s : State) (n nflip : Nat) (cores : List Nat) (e : LttEntry) : Bool :=
  let len := 2 ^ e.size
  let mem := memoryIn (if e.place = 3 then Config.cxlMax else cxlSize) e.pbase
  let sram := e.place == 0 && isSram e.pbase
  decide (16 ≤ e.size) && decide (e.size ≤ 40) && decide (e.place ≤ 3) && decide (e.vbase % len = 0) && decide (e.pbase % len = 0) &&
    (if e.place = 3 then inOneMemoryOf Config.cxlMax e.pbase len else inOneMemory e.pbase len) &&
    (match e.place, mem with
      | 0, some (.hbm _) => true
      | 0, _ => sram
      | 1, some (.lpddr _) => true
      | 2, some .cxl => true
      | 3, some (.slice _) => false
      | 3, _ => true
      | _, _ => false) &&
    (e.place == 3 || e.rw4 == 0) &&
    (!sram || (decide (e.size ≤ 20) && (cores.contains (sliceCore e.pbase) || s.grantedRange n e.pbase len))) &&
    decide (e.comp ≤ 4) && (codecMethod e.comp || e.mb == 0) && (!codecMethod e.comp || (e.place == 0 && isHbm e.pbase)) &&
    (e.comp == 0 || !sram) && (!e.rowop || (e.place == 0 && isHbm e.pbase && e.comp == 0)) && decide (e.flip ≤ nflip) &&
    !(e.ft && (e.place == 3 || e.rowop || e.flip != 0))

/-- No two of some ranges meet. -/
def disjointRanges : List (Nat × Nat) → Bool
  | [] => true
  | a :: r => r.all (fun b => !meets a.1 a.2 b.1 b.2) && disjointRanges r

/-- The entries of a flip region, its lowest base and its size (R288). -/
def regionOf (ltt : List LttEntry) (id : Nat) : List LttEntry × Nat × Nat :=
  let es := ltt.filter (fun e => e.flip == id)
  match es with
  | [] => (es, 0, 0)
  | e :: r =>
    let p0 := r.foldl (fun m e => min m e.pbase) e.pbase
    (es, p0, (es.foldl (fun m e => max m (e.pbase + 2 ^ e.size)) 0) - p0)

/-- A flip entry (R288). Frame 1 in stage SRAM lies in a slice of the context's own cores (R235). -/
def flipOk (cores : List Nat) (ltt : List LttEntry) (id : Nat) (f : Flip) : Bool :=
  let (es, _, len) := regionOf ltt id
  es.isEmpty || (decide (f.base1 % 2 ^ (es.foldl (fun m e => max m e.size) 0) = 0) && inOneMemory f.base1 len &&
    (!isSram f.base1 || cores.contains (sliceCore f.base1)) && ltt.all (fun e => e.place == 3 || !meets f.base1 len e.pbase (2 ^ e.size)))

/-- The HBM ranges of some entries and of frame 1 of their flip regions, each with ROWOP (R329). -/
def rowRanges (ltt : List LttEntry) (flips : List Flip) : List (Nat × Nat × Bool) :=
  let mine := ltt.filter (fun e => e.place == 0 && isHbm e.pbase)
  mine.map (fun e => (e.pbase, 2 ^ e.size, e.rowop)) ++
    (flips.zip (upFrom 1 flips.length)).flatMap (fun f =>
      let (_, p0, _) := regionOf ltt f.2
      (mine.filter (fun e => e.flip == f.2)).map (fun e => (f.1.base1 + (e.pbase - p0), 2 ^ e.size, e.rowop)))

/-- The flip entries of a placed context, by id. -/
def Ctx.flipList (x : Ctx) : List Flip :=
  (upFrom 1 (x.flips.foldl (fun m f => max m f.1) 0)).map (fun i => (Tbl.get none x.flips i).getD ⟨0, false, none⟩)

/-- The ranges of a placed context. -/
def Ctx.rowRanges (x : Ctx) : List (Nat × Nat × Bool) := Sys2Proof.Machine.rowRanges (x.ltt.filterMap (·.2)) x.flipList

/-- What the entries of a table of context n must keep among themselves, and with the tables placed (R338, R329, R288). -/
def State.tableOk (s : State) (n : Nat) (cores : List Nat) (ltt : List LttEntry) (flips : List Flip) : Bool :=
  let mine := rowRanges ltt flips
  let all_ := mine ++ (s.others n).flatMap (fun o => o.2.rowRanges)
  disjointRanges (ltt.map (fun e => (e.vbase, 2 ^ e.size))) &&
    (flips.zip (upFrom 1 flips.length)).all (fun f => flipOk cores ltt f.2 f.1) &&
    mine.all (fun a => all_.all (fun b => a.2.2 == b.2.2 || !meets a.1 a.2.1 b.1 b.2.1))

/-- Does a table map a retired page (24 R389)? -/
def State.mapsRetired (s : State) (ltt : List LttEntry) (flips : List Flip) : Bool :=
  ltt.any (fun e => s.hasRetired (e.pbase + (if e.place = 3 then 2 ^ 52 * (1 + e.rw4) else 0)) (2 ^ e.size)) ||
    (flips.zip (upFrom 1 flips.length)).any (fun f => let (es, _, len) := regionOf ltt f.2; !es.isEmpty && s.hasRetired f.1.base1 len)

/-! ### The other sections -/

/-- The SRAM allocation table (R236): each entry in one translated stage-SRAM range, none meeting another. -/
def sramOk (ltt : List LttEntry) (sram : List SramAlloc) : Bool :=
  sram.all (fun a => a.swz != 7 && a.len != 0 && decide (a.len ≤ 384) && !(a.skew && a.swz != 0) && decide (a.base % 4096 = 0) &&
    ltt.any (fun e => e.place == 0 && isSram e.pbase && decide (e.vbase ≤ a.base) && decide (a.base + 4096 * a.len ≤ e.vbase + 2 ^ e.size))) &&
    disjointRanges (sram.map (fun a => (a.base, 4096 * a.len)))

/-- A ring descriptor of context n (R240). -/
def State.ringOk (s : State) (n : Nat) (sram : List SramAlloc) (r : Ring) : Bool :=
  decide (r.base % 128 = 0) && decide (r.logsl ≤ 12) &&
    sram.any (fun a => decide (a.base ≤ r.base) && decide (r.base + 2 ^ r.logsl * r.slotb ≤ a.base + 4096 * a.len)) &&
    !(r.chan && (bitAt r.orole 0 || r.gv)) && (r.gv || (r.gq == 0 && r.gctx == 0 && r.grole == 0)) &&
    (!r.gv || (r.gctx != n && r.grole != 0 &&
      ((s.ctx r.gctx).st == .empty || (Tbl.get none (s.ctx r.gctx).rings r.gq).isNone)))

/-- Is a context one whose cores no other context may have (25 R402)? -/
def CtxState.live : CtxState → Bool
  | .loaded | .curtain | .running => true
  | _ => false

/-- A core that a placement may name (01 R14; 25 R398, R402). -/
def State.coreOk (s : State) (n c : Nat) : Bool :=
  (match (s.wrec c).st with | .healthy | .derated | .drained => true | _ => false) && !NatSet.has s.mod.off c &&
    (match s.holder c with | some y => y == n || !(s.ctx y).st.live | none => true)

/-! ### Reservations (12 R249, 16 R292) -/

/-- Bytes that some ranges cover, each counted once: the ranges in ascending order. -/
def unionFrom (at_ : Nat) : List (Nat × Nat) → Nat
  | [] => 0
  | (a, n) :: r => let lo := max at_ a; (a + n - lo) + unionFrom (max at_ (a + n)) r

/-- Insert a range by its base. -/
def insertRange (a : Nat × Nat) : List (Nat × Nat) → List (Nat × Nat)
  | [] => [a]
  | b :: r => if a.1 ≤ b.1 then a :: b :: r else b :: insertRange a r

/-- Bytes that some ranges cover. -/
def covered_ (rs : List (Nat × Nat)) : Nat := unionFrom 0 (rs.foldl (fun l a => insertRange a l) [])

/-- The ranges that a table maps on this W4: its entries and frame 1 of its flip regions. -/
def mappedRanges (ltt : List LttEntry) (flips : List Flip) : List (Nat × Nat) :=
  (ltt.filter (fun e => e.place != 3 && !e.ft)).map (fun e => (e.pbase, 2 ^ e.size)) ++
    (flips.zip (upFrom 1 flips.length)).map (fun f => (f.1.base1, (regionOf ltt f.2).2.2))

/-- The part of a range inside [lo, hi). -/
def clip (lo hi : Nat) (a : Nat × Nat) : Nat × Nat := (max lo a.1, min hi (a.1 + a.2) - max lo a.1)

/-- A die's first and last HBM, second-tier and stage-SRAM address (R13, R328, R235), SRAM as its core's numbers. -/
def dieHbm (d : Nat) : Nat × Nat := (d * 4 * 0x1000000000, (d + 1) * 4 * 0x1000000000)
def dieLpddr (d : Nat) : Nat × Nat := ((d + 1) * 0x10000000000, (d + 2) * 0x10000000000)

/-- Stage SRAM of a die in service: the slices of its enabled sites (01 R14). -/
def State.sramInService (s : State) (d : Nat) : Nat :=
  (((upFrom 0 Config.cores).filter (fun c => coreDie c == d && !NatSet.has s.mod.off c &&
    (match (s.wrec c).st with | .retired | .spare => false | _ => true))).length) * sliceLen

/-- What a die still has for the stash (R273, R292; log entry 16): the store comes from its stage SRAM, the backings from its HBM and its
second tier, none of which any table maps. -/
def State.reserveOk (s : State) (n : Nat) (im : Image) (d : Nat) : Bool :=
  let os := s.others n
  let maps := mappedRanges im.ltt im.flips ++ os.flatMap (fun o => mappedRanges (o.2.ltt.filterMap (·.2)) o.2.flipList)
  let sum : List Nat → (Ctx → List Nat) → Nat := fun mine f => mine.getD d 0 + (os.map (fun o => (f o.2).getD d 0)).sum
  let used := fun (r : Nat × Nat) => covered_ ((maps.filter (fun a => meets a.1 a.2 r.1 (r.2 - r.1))).map (clip r.1 r.2))
  let sram := covered_ (maps.filter (fun a => isSram a.1 && coreDie (sliceCore a.1) == d))
  let store : Nat := sum im.sts (fun x => x.sts) * 2 ^ 16
  let backing : Nat := sum im.hbk (fun x => x.hbk) * 2 ^ 20 + used (dieHbm d)
  let tier : Nat := sum im.tbk (fun x => x.tbk) * 2 ^ 20 + used (dieLpddr d) + (if d = 1 then used (cxlBase, cxlBase + cxlSize) else 0)
  decide (sum im.pinq (fun x => x.pinq) ≤ 393216) && decide (store + sram ≤ s.sramInService d) && decide (backing ≤ 256 * 2 ^ 30) &&
    decide (tier ≤ 2 ^ 40 + (if d = 1 then cxlSize else 0))

/-- Every rule of an image (R273). -/
def State.imageOk (s : State) (n : Nat) (im : Image) : Bool :=
  let cores := im.cores.map (·.1)
  isHbm im.ptab && im.ltt.all (s.entryOk n im.flips.length cores) && s.tableOk n cores im.ltt im.flips &&
    !s.mapsRetired im.ltt im.flips && sramOk im.ltt im.sram && (im.rings.filterMap id).all (s.ringOk n im.sram) &&
    cores.all (s.coreOk n) && decide cores.Nodup && im.cores.all (fun e => decide (e.2.2 < sliceLen)) &&
    (List.range 2).all (s.reserveOk n im)

/-! ### Spares (01 R14; 25 R398, R400) -/

/-- Cores of a die. -/
def dieCores (d : Nat) : List Nat := (upFrom 0 Config.cores).filter (fun c => coreDie c == d)

/-- The next placement enables a spare for every retired core of a die that has none yet; REPL is raised with the last one (R398, R400). -/
def State.enableSpares (s : State) : State :=
  (List.range 2).foldl (fun s d =>
    let retired := (dieCores d).filter (fun c => (s.wrec c).st == .retired && !NatSet.has s.mod.replaced c)
    let go := ((dieSpares d).filter (fun c => (s.wrec c).st == .spare)).take retired.length
    let s := go.foldl (fun s c => s.setWrec c { s.wrec c with st := .healthy }) s
    let s := (retired.take go.length).foldl (fun (s : State) c => { s with mod := { s.mod with replaced := NatSet.mark s.mod.replaced c true } }) s
    if go.isEmpty ∨ s.sparesLeft d ≠ 0 then s else { s with mod := { s.mod with repl := true } }) s

/-! ### Carrying a placement out (R233, R234, R273) -/

/-- Take a range of keys out of a memory: it reads as unlisted memory, its lines empty and clean. -/
def MemSys.wipe (m : MemSys) (lo hi : Nat) : MemSys :=
  let out := fun (k : Nat) => !(decide (lo ≤ k) && decide (k < hi))
  { m with
    mem := m.mem.filter (fun e => out e.1), poison := m.poison.clearRange lo hi, full := m.full.clearRange lo hi,
    fullBy := m.fullBy.filter (fun e => out e.1), fullSee := m.fullSee.filter (fun e => out e.1),
    l2 := m.l2.filter (fun e => out (32 * e.1)),
    pendW := m.pendW.filter (fun w => out w.place.key), hist := m.hist.filter (fun h => out h.place.key) }

/-- The near slice of a core as placement leaves it: every byte zero, every line empty (R233). -/
def MemSys.zeroSlice (m : MemSys) (c : Nat) : MemSys :=
  let lo := sramBase + c * sliceStep
  let m := m.wipe lo (lo + sliceLen)
  if Config.memDefault = 0 then m else m.setRawBytes lo (List.replicate sliceLen 0)

/-- The contents of a slice go to another core's (R234). -/
def MemSys.moveSlice (m : MemSys) (c d : Nat) : MemSys :=
  let lo := sramBase + c * sliceStep
  let hi := lo + sliceLen
  let sh := fun (k : Nat) => k - lo + (sramBase + d * sliceStep)
  let inR := fun (k : Nat) => decide (lo ≤ k) && decide (k < hi)
  let m1 := m.zeroSlice d
  { (m1.wipe lo hi) with
    mem := (m.mem.filter (fun e => inR e.1)).foldl (fun t e => Tbl.set Config.memDefault t (sh e.1) e.2) (m1.wipe lo hi).mem
    poison := (m.poison.filter (fun e => inR e.1)).foldl (fun t e => NatSet.mark t (sh e.1) true) (m1.wipe lo hi).poison
    full := (m.full.filter (fun e => inR e.1)).foldl (fun t e => NatSet.mark t (sh e.1) true) (m1.wipe lo hi).full
    fullBy := (m.fullBy.filter (fun e => inR e.1)).foldl (fun t e => Tbl.set [] t (sh e.1) e.2) (m1.wipe lo hi).fullBy
    fullSee := (m.fullSee.filter (fun e => inR e.1)).foldl (fun t e => Tbl.set 0 t (sh e.1) e.2) (m1.wipe lo hi).fullSee
    pendW := m1.pendW.map (fun w => if inR w.place.key then { w with place := { w.place with key := sh w.place.key } } else w)
    hist := m1.hist.map (fun h => if inR h.place.key then { h with place := { h.place with key := sh h.place.key } } else h) }

/-- A core that a placement gives to context n (R132, R233, R402): nothing of an earlier holder is left. -/
def Core.place (c : Core) (n lbv lbs : Nat) : Core := { c.released with holder := some n, lbv := lbv, lbs := lbs }

/-- A core that a saved context held goes to another (R402): its saved state stays with the saved context. -/
def State.park (s : State) (n c : Nat) : State :=
  match s.holder c with
  | some y =>
    if y ≠ n ∧ (s.ctx y).st = .saved then s.modCtx y (fun x => { x with saved := Tbl.set Core.reset x.saved c (s.core c) }) else s
  | none => s

/-- Pairs (core, its successor) of a placement that a retiring core made necessary (R234): the cores that leave the context and those that come into
it, each in the order of its core list. -/
def State.successors (s : State) (n : Nat) (im : Image) : List (Nat × Nat) :=
  let old := (s.ctx n).coreList
  let new := im.cores.map (·.1)
  if (s.ctx n).st = .loaded ∧ old.length = new.length ∧ old.any (fun c => (s.wrec c).st == .retiring) then
    (old.filter (fun c => !new.contains c)).zip (new.filter (fun c => !old.contains c))
  else []

/-- Does a placement carry on what its context holds: one that replaces a core that is retiring (R234)? -/
def State.carries (s : State) (n : Nat) (im : Image) : Bool := (s.successors n im).any (fun e => (s.wrec e.1).st == .retiring)

/-- The cores and slices of a fresh placement. -/
def State.freshCores (s : State) (n : Nat) (im : Image) : State :=
  let s := (s.ctx n).coreList.foldl (fun s c => if s.holder c = some n then s.modCore c Core.released else s) s
  im.cores.foldl (fun s e =>
    let s := s.park n e.1
    { s.setCore e.1 ((s.core e.1).place n e.2.1 e.2.2) with ms := s.ms.zeroSlice e.1 }) s

/-- What a core takes over from the core that it replaces (R234; 01 R15): the control state of the context. Its clock and its cycles are its own (25
R402); its registers of the vector lanes, its accumulators, their poison and WM, and its issue policy are as placement leaves them (06 R132, 07 R150,
10 R218). -/
def Core.succeed (new old : Core) : Core :=
  { old with
    cycle := new.cycle, used := new.used, frac := new.frac, derated := new.derated, clkBusy := new.clkBusy, vec := {}
    mtx := { handles := old.mtx.handles, kc := old.mtx.kc, tabs := old.mtx.tabs } }

/-- The cores and slices of a placement that carries the items of its retired cores on (R234); a core that takes the place of one that is not
retiring is placed afresh. The issue policy is GTO after every placement (10 R218). -/
def State.carriedCores (s : State) (n : Nat) (im : Image) : State :=
  let s := (s.successors n im).foldl (fun s p =>
    let old := s.core p.1
    let s := s.park n p.2
    if (s.wrec p.1).st = .retiring then
      let s := s.setCore p.2 ((s.core p.2).succeed old)
      { s.modCore p.1 Core.released with ms := s.ms.moveSlice p.1 p.2 }
    else
      let s := (s.setCore p.2 ((s.core p.2).place n 0 0)).modCore p.1 Core.released
      { s with ms := s.ms.zeroSlice p.2 }) s
  im.cores.foldl (fun s e => s.modCore e.1 (fun c => { c with lbv := e.2.1, lbs := e.2.2, vec := { c.vec with rr := false } })) s

/-- The counts, marks and waiters of a carried ring stay (R234). -/
def carryRing (old : Tbl (Option Ring)) (q : Nat) (r : Ring) : Ring :=
  match Tbl.get none old q with
  | some o => { o with base := r.base, logsl := r.logsl, slotb := r.slotb, orole := r.orole, chan := r.chan, gv := r.gv, grole := r.grole,
                       gctx := r.gctx, gq := r.gq }
  | none => r

/-- Number the entries of a list from lo up. -/
def tableFrom {α : Type} (lo : Nat) (l : List α) : Tbl (Option α) := (upFrom lo l.length).zip (l.map some)

/-- The context's part of a placement (R233, R272, R273). -/
def Ctx.placeImage (x : Ctx) (gen : Nat) (im : Image) (carry : Bool) : Ctx :=
  let rings := (upFrom 0 im.rings.length).zip im.rings |>.filter (fun e => e.2.isSome)
  let y : Ctx := { x with
    st := .loaded, gen := gen, ptab := im.ptab, pinq := im.pinq, sts := im.sts, hbk := im.hbk, tbk := im.tbk,
    ltt := tableFrom 0 im.ltt, sram := im.sram, flips := tableFrom 1 im.flips, coreList := im.cores.map (·.1), stages := [], launch := none,
    rings := if carry then rings.map (fun e => (e.1, e.2.map (carryRing x.rings e.1))) else rings,
    withdrawn := [], probes := [], dbgHalted := [], preempting := false, saved := [],
    wacc := if x.st = .empty then 0 else x.wacc, charge := if x.st = .empty then [] else x.charge }
  if carry then y else { y with sets := [], shared := [], stash := [], crsl := [], crslHeld := [], lostRanks := [] }

/-- A grant makes its ring the grantee's again (R242). -/
def State.regrant (s : State) (im : Image) : State :=
  (im.rings.filterMap id).foldl (fun s r =>
    if r.gv then s.modCtx r.gctx (fun x => { x with withdrawn := NatSet.mark x.withdrawn r.gq false }) else s) s

/-- A context's cycles on a core are no more its own: its charges begin anew (25 R402). -/
def Core.disown (n : Nat) (c : Core) : Core :=
  { c with used := Tbl.modify 0 (Tbl.set 0 c.used (n + 1) 0) 0 (· + Tbl.get 0 c.used (n + 1)) }

/-- Place context n from an image (R273). -/
def State.placeImage (s : State) (n gen : Nat) (im : Image) : State :=
  let s := if (s.ctx n).st = .empty then (upFrom 0 Config.cores).foldl (fun s c => s.modCore c (Core.disown n)) s else s
  let carry := s.carries n im
  let s := if carry then s.carriedCores n im else s.freshCores n im
  let s := { s with ms := { s.ms with pins := s.ms.pins.filter (fun p => p.ctx != n) } }
  ((s.modCtx n (fun x => x.placeImage gen im carry)).regrant im).retireFree

/-- LOAD-LTT (R272, R273): the state after it, or the code of its rejection; an image that is rejected leaves the earlier placement. -/
def State.loadLtt (s : State) (n : Nat) (v : Nat) : Except Nat State :=
  let pa := slice v 115 70 * 64
  if slice v 55 32 ≠ 0 ∨ slice v 69 64 ≠ 0 ∨ slice v 127 116 ≠ 0 ∨ slice v 511 128 ≠ 0 then .error 3
  else if (s.ctx n).st ≠ .empty ∧ (s.ctx n).st ≠ .loaded then .error 5
  else if (memoryOf pa).isNone then .error 6
  else
    let s1 := s.retireFree.enableSpares
    match s1.readImage pa with
    | some im => if s1.imageOk n im then .ok (s1.placeImage n (slice v 31 0) im) else .error 6
    | none => .error 6

/-! ### Changing the table (20 R341) -/

/-- The staged entry of LTTD0-LTTD3. -/
def Ctx.staged (x : Ctx) : Nat := (List.range 4).foldl (fun n i => n + (Tbl.get 0 x.lttd i).toNat * 2 ^ (64 * i)) 0

/-- Does a PROBE of the context wait? -/
def Ctx.probeWaits (x : Ctx) : Bool := !x.probes.isEmpty

/-- LTTCMD's write of the staged entry: the table after it, none when it is refused: the entry passes R338 against the others. -/
def State.lttWrite (s : State) (n idx : Nat) : Option (Tbl (Option LttEntry)) :=
  let x := s.ctx n
  let stateOk := x.st == .loaded || x.st == .saved || (x.st == .running && x.probeWaits)
  let free := match Tbl.get none x.ltt idx with | some e => e.ft | none => true
  match lttEntryOf x.staged with
  | some e =>
    let t := Tbl.put idx (some e) x.ltt
    if stateOk && free && s.entryOk n x.flipList.length x.coreList e && s.tableOk n x.coreList (t.filterMap (·.2)) x.flipList then some t else none
  | none => none

end Sys2Proof.Machine
end

