-- ==== Sys2Proof/Machine/Ringmaster.lean ====
section
/-!
DEFINITION. Sys2Proof/Machine/Ringmaster.lean: the ringmaster: counters and TQUERY (15 R280, 04 R101), rounds (15 R281-R284, 25 R401),
retirement with the commit (15 R285, R286, R288; 13 R261).
-/
namespace Sys2Proof.Machine

/-! ### Counters -/

/-- WIN (R280): the window of the stage's producer channel. -/
def State.windowOf (s : State) (x : Nat) (st : Stage) : Nat :=
  if st.dch = 0x1FF then 4096
  else match s.ring x st.dch with
    | some r => if r.win.joined then r.win.w else 0
    | none => 0

/-- The ready tasks (R279), by phase and arrival. -/
def State.ready (s : State) (x : Nat) (st : Stage) : List (Nat × Arrival) :=
  (List.range 3).flatMap (fun p => ((st.queues.getD p []).filter (fun a =>
    st.waits != some (p, a) &&
      (p != 0 || (!st.inflight.any (fun e => e.1 == a.tag) && decide (st.inflight.length < 64) && decide (0 < s.windowOf x st))))).map
    (fun a => (p, a)))

/-- The version slots in use (R286). -/
def Stage.used (st : Stage) : List Nat := (st.cur :: st.inflight.map (·.2)).eraseDups

/-- The oldest of some tasks. -/
def oldest : List (Nat × Arrival) → Option (Nat × Arrival)
  | [] => none
  | a :: as => match oldest as with
    | some b => if b.2.ord < a.2.ord then some b else some a
    | none => some a

/-- The task of lowest tag; the older of two. -/
def lowestTag : List (Nat × Arrival) → Option (Nat × Arrival)
  | [] => none
  | a :: as => match lowestTag as with
    | some b => if b.2.tag < a.2.tag then some b else some a
    | none => some a

/-- AGE (R280). -/
def ageOf (now : Nat) (rs : List (Nat × Arrival)) : Nat :=
  match oldest rs with
  | some a => min ((now - a.2.time) / 1024) (2 ^ 20 - 1)
  | none => 0

/-- A counter (R280). -/
def State.counter (s : State) (x n : Nat) (st : Stage) (sel : Nat) : Nat :=
  if sel ≤ 2 then (st.queues.getD sel []).length
  else if sel = 3 then st.inflight.length
  else if sel = 4 then ceilDiv ((s.ctx x).residentBytes n) (2 ^ 20)
  else if sel = 5 then st.nver - st.used.length
  else if sel = 6 then s.windowOf x st
  else if sel = 7 then st.last
  else ageOf s.now (s.ready x st)

/-- TQUERY (04 R101): the value travels from the ringmaster. -/
def execTquery (d a : BitVec 5) (s : State) : Out :=
  seqWord s [a] (fun c co =>
    let v := (co.reg a).toNat
    if co.pois a then s.poisonTrap c
    else
      match s.stage (s.ctxOf c) (slice v 10 8) with
      | some st =>
        if slice v 63 11 ≠ 0 ∨ slice v 7 4 ≠ 0 ∨ 9 ≤ slice v 3 0 then s.trap c 3 (co.reg a)
        else
          let r := s.counter (s.ctxOf c) (slice v 10 8) st (slice v 3 0)
          s.setCore c ((co.await d (some (BitVec.ofNat 64 r, false)) false).advance 4)
      | none => s.trap c 3 (co.reg a))

/-! ### The playbill -/

/-- A comparison of a row (R281). -/
def holdsOp (op v val : Nat) : Bool :=
  match op with
  | 0 => true | 1 => v == val | 2 => v != val | 3 => decide (v < val) | 4 => decide (v ≤ val) | 5 => decide (val < v)
  | _ => decide (val ≤ v)

/-- What a round chose (R282): a rerun task, or an arrival with the crew size asked for. -/
inductive Chosen where
  | rerun (t : Task)
  | fresh (phase : Nat) (a : Arrival) (crew : Nat)
  deriving DecidableEq, Repr

/-- The rows of a playbill in order (R281, R282). -/
def chooseRow (counter : Nat → Nat) (rs : List (Nat × Arrival)) : List (BitVec 64) → Option Chosen
  | [] => none
  | row :: rows =>
    let r := row.toNat
    if bitAt r 63 && holdsOp (slice r 50 48) (counter (slice r 54 51)) (slice r 47 28) &&
        holdsOp (slice r 23 21) (counter (slice r 27 24)) (slice r 20 1) then
      let mine := rs.filter (fun a => a.1 == slice r 62 61)
      match (if bitAt r 55 then lowestTag mine else oldest mine) with
      | some a => some (.fresh a.1 a.2 (slice r 60 57 + 1))
      | none => if bitAt r 56 then none else chooseRow counter rs rows
    else chooseRow counter rs rows

/-- The choice of a round (R282). -/
def State.choose (s : State) (x n : Nat) (st : Stage) : Option Chosen :=
  match st.tasks.find? (·.waiting) with
  | some t => some (.rerun t)
  | none =>
    let rs := s.ready x st
    match (if st.agelim ≠ 0 ∧ st.agelim ≤ ageOf s.now rs then oldest rs else none) with
    | some a => some (.fresh a.1 a.2 (st.dcrew + 1))
    | none => chooseRow (s.counter x n st) rs st.rows

/-! ### Crews -/

/-- A core's accumulated wear (25 R394). -/
def Wrec.wear (w : Wrec) : Nat := max w.wbt w.wem
/-- The cores a stage may use (R283). -/
def State.eligible (s : State) (st : Stage) : List Nat := st.cores.filter (fun c => (s.wrec c).st.eligible)

/-- A core's clock may change now (25 R399): its sequencer runs no task, and no saved context has one there. -/
def State.clockFree (s : State) (c : Nat) : Bool :=
  (s.core c).share.isNone && ((s.core c).idle || (s.core c).run != .on) &&
    s.ctxs.all (fun e => (Tbl.get Core.reset e.2.saved c).share.isNone)

/-- Does a core's clock change as soon as it may (25 R398, R399)? -/
def State.clockDue (s : State) (c : Nat) : Bool :=
  (s.wrec c).slow && !(s.core c).derated && !(s.core c).clkBusy && s.clockFree c

/-- Is an eligible core free (R283)? One whose clock changes, or is due to, is not (25 R399). -/
def State.isFree (s : State) (c : Nat) : Bool := (s.core c).idle && !(s.core c).clkBusy && !s.clockDue c && !(s.core c).debug

/-- Take cores one at a time (R284): the lowest-numbered within 50 WU of the lowest wear still free. -/
def State.pick (s : State) : Nat → List Nat → List Nat
  | 0, _ => []
  | f + 1, free =>
    match free with
    | [] => []
    | c0 :: rest =>
      let w := rest.foldl (fun m c => min m (s.wrec c).wear) (s.wrec c0).wear
      let band := free.filter (fun c => decide ((s.wrec c).wear ≤ w + 50 * wearUnit))
      let c := band.foldl min (band.headD c0)
      c :: s.pick f (free.filter (· != c))

/-- The crew of a rerun that keeps its cores (R290): a core that may no longer serve is replaced in its rank, or missing where the stage has no
other core left for it (log entry 88). -/
def keepCrew (ok : Nat → Bool) : List Nat → List Nat → List Nat
  | [], _ => []
  | c :: cs, spare =>
    if ok c then c :: keepCrew ok cs spare
    else match spare with
      | d :: ds => d :: keepCrew ok cs ds
      | [] => keepCrew ok cs []

/-- The crew that a choice gets now, if enough cores are free (R282, R290). -/
def State.crewFor (s : State) (st : Stage) (ch : Chosen) : Option (List Nat) :=
  let elig := s.eligible st
  let free := elig.filter s.isFree
  let size := match ch with | .rerun t => t.crew.length | .fresh _ _ n => n
  let c := min size elig.length
  match ch with
  | .rerun t =>
    if t.same then
      let kept := t.crew.filter elig.contains
      let spare := s.pick (c - kept.length) (free.filter (fun n => !t.crew.contains n))
      if kept.all free.contains ∧ kept.length + spare.length = c ∧ 0 < c then some (keepCrew elig.contains t.crew spare) else none
    else if 0 < c ∧ c ≤ free.length then some (s.pick c free) else none
  | _ => if 0 < c ∧ c ≤ free.length then some (s.pick c free) else none

/-- dispatch (R284): the stage's part. -/
def Stage.dispatch (st : Stage) (n : Nat) (ch : Chosen) (crew : List Nat) : Stage × Task :=
  match ch with
  | .rerun t =>
    let t := { t with crew := crew, waiting := false, ended := [], same := false }
    ({ st.modTask t.id (fun _ => t) with last := t.phase }, t)
  | .fresh p a _ =>
    let st := st.setQueues ((List.range 3).map (fun i => if i = p then (st.queues.getD i []).erase a else st.queues.getD i []))
    let st := if p = 0 then { st with inflight := st.inflight ++ [(a.tag, st.cur)], fdisp := st.fdisp + 1 } else st
    let ver := match st.inflight.find? (fun e => e.1 == a.tag) with | some e => e.2 | none => st.cur
    let t : Task := { id := ⟨n, st.nextTask⟩, phase := p, tag := a.tag, ver := ver, crew := crew, ended := [], aborts := 0, mism := 0,
                      waiting := false, same := false }
    ({ st with tasks := st.tasks ++ [t], nextTask := st.nextTask + 1, last := p }, t)

/-- A crew core's share begins: its TNEXT is answered (R284). -/
def Core.assign (c : Core) (id : TaskId) (rank : Nat) : Core :=
  { c with
    share := some { task := id, rank := rank, nextPc := c.pc, pushed := [], held := [], slots := [], takes := [] }
    wait := c.wait.map (fun w => { w with released := true }) }

/-- dispatch(t, c) (R284), in one step of the ringmaster. -/
def State.dispatch (s : State) (x n : Nat) (st : Stage) (ch : Chosen) (crew : List Nat) : State :=
  let (st, t) := st.dispatch n ch crew
  let s := (s.setStage x n { st with waits := none }).putSem (crew.headD 0) st.csem 0 [] 0
  (crew.zip (List.range crew.length)).foldl (fun s e => s.modCore e.1 (fun co => co.assign t.id e.2)) s

/-- One round for a stage (R282); a choice that finds too few cores waits, and the next round decides afresh. -/
def State.round (s : State) (x n : Nat) : State :=
  match s.stage x n with
  | none => s
  | some st =>
    let st := { st with waits := none }
    let s := s.setStage x n st
    match s.choose x n st with
    | none => s
    | some ch =>
      match s.crewFor st ch with
      | some crew => s.dispatch x n st ch crew
      | none => s.setStage x n { st with waits := match ch with | .fresh p a _ => some (p, a) | .rerun _ => none }

/-- The score of a stage (R283). -/
def State.score (s : State) (x n : Nat) : Nat :=
  match s.stage x n with
  | some st => (s.ready x { st with waits := none }).length * st.wt
  | none => 0

/-- Insert a stage by score, ties to the lower number. -/
def insertStage (score : Nat → Nat) (n : Nat) : List Nat → List Nat
  | [] => [n]
  | m :: ms => if score m < score n then n :: m :: ms else m :: insertStage score n ms

/-- Has every crew core of a task reported (R285)? -/
def Task.reported (t : Task) : Bool := !t.waiting && t.crew.all (fun c => t.ended.any (fun e => e.1 == c))

/-- Does a task of the context retire now? The report of its last crew core is its retirement (R285), before which no round stands. -/
def State.retireDue (s : State) (n : Nat) : Bool := ((s.ctx n).stages.filterMap (·.2)).any (fun st => st.tasks.any Task.reported)

/-- RINGMASTER_ROUND (R282, R283): the rounds of the declared stages, in score order, in one step; a change of stage `stage` starts it. -/
def execRingmasterRound (ctx stage : Nat) (s : State) : Out :=
  eventStep s (fun s =>
    if (s.ctx ctx).st = .running ∧ (s.ctx ctx).preempting = false ∧ (s.stage ctx stage).isSome ∧ s.retireDue ctx = false then
      let order := ((s.ctx ctx).stages.map (·.1)).foldl (fun l n => insertStage (s.score ctx) n l) []
      order.foldl (fun s n => s.round ctx n) s
    else s)

/-! ### Retirement -/

/-- The held effects of the share of a rank, in execution order. -/
def Task.fxOf (t : Task) (r : Nat) : List HeldFx := ((t.ended.filter (fun e => e.2.rank == r)).map (fun e => e.2.fx)).flatten

/-- The held effects of a task, by crew rank and in execution order. -/
def Task.heldFx (t : Task) : List HeldFx := ((List.range t.crew.length).map t.fxOf).flatten

/-- Insert a held effect by its number. -/
def insertFx (f : Nat × HeldFx) : List (Nat × HeldFx) → List (Nat × HeldFx)
  | [] => [f]
  | g :: r => if f.1 < g.1 then f :: g :: r else g :: insertFx f r

/-- The held effects of a task in execution order, whichever crew core's (16 R294). -/
def Task.heldInOrder (t : Task) : List HeldFx :=
  (((t.ended.map (fun e => e.2.held)).flatten).foldl (fun l f => insertFx f l) []).map (·.2)

/-- Held adds of one share, one for each semaphore in ascending order, summed (04 R86; R261). -/
def addsOf (held : List HeldFx) : List ((Nat × Nat) × BitVec 32) :=
  let adds := held.filterMap (fun f => match f with | .add k m v => some ((k, m), v) | _ => none)
  let key := fun (p : Nat × Nat) => p.1 * 512 + p.2
  let t := adds.foldl (fun (t : Tbl (BitVec 32)) e => Tbl.put (key e.1) ((Tbl.find (key e.1) t).getD 0 + e.2) t) []
  t.map (fun e => ((e.1 / 512, e.1 % 512), e.2))

/-- Every region that a task has marked flips its selector (R288). -/
def Ctx.flip (x : Ctx) (id : TaskId) : Ctx :=
  { x with flips := x.flips.map (fun f => (f.1, f.2.map (fun r => if r.mark = some id then { r with live := !r.live, mark := none } else r))) }

/-- A held ring operation at its commit (04 R89). -/
def State.commitRing (s : State) (x : Nat) : HeldFx → State
  | .fill q n => (match s.findRing x q with
    | some (on, oq, _) => (match s.ring on oq with
      | some r => s.putRing on oq { r with filled := NatSet.mark r.filled n true, heldM := NatSet.mark r.heldM n false }
      | none => s)
    | none => s)
  | .free q n => (match s.findRing x q with
    | some (on, oq, _) => (match s.ring on oq with
      | some r => s.putRing on oq { r with done := NatSet.mark r.done n true, heldM := NatSet.mark r.heldM n false }
      | none => s)
    | none => s)
  | _ => s

/-- A held put, drop or publish at its commit (08 R199, R206; 16 R303). -/
def State.commitRest (s : State) (x : Nat) : HeldFx → State
  | .put (.stash _ die) stage tag slot n bytes poison => s.putStash x die stage tag slot n bytes poison
  | .drop (.stash _ die) stage tag slot => s.modCtx x (fun c => c.dropStash die stage tag slot)
  | .publish q seq tag =>
    (match s.ring x q with | some r => s.send (.chPublish r.chEnd.peer q seq tag false) | none => s)
  | _ => s

/-- The commands that a task's crew pushed, as their counters passed them (04 R99). -/
def State.pushedUids (s : State) (t : Task) : List Nat :=
  (t.ended.map (fun e => (e.2.pushed.map (fun p => (((s.queue p.1).retired.filter (fun r => r.1 == p.2)).map (·.2)).flatten)).flatten)).flatten

/-- The places of the global order that a commit stores to, in its order (13 R261): lines that it acquires, semaphores, rings. -/
def State.commitPlaces (s : State) (x : Nat) (t : Task) : List StampAt :=
  (((s.ms.pendW.filter (fun w => (s.pushedUids t).contains w.uid)).map (fun w => lineOf w.place.key)).eraseDups.map StampAt.line) ++
    ((List.range t.crew.length).map (fun r => (addsOf (t.fxOf r)).map (fun e => StampAt.sem e.1.1 e.1.2))).flatten ++
    t.heldFx.filterMap (fun f => match f with
      | .fill q _ | .free q _ => (s.findRing x q).map (fun e => StampAt.ring e.1 e.2.1)
      | _ => none)

/-- Ordinary stores that a task's crew made before TEND, all of which its commit acquires (13 R261). -/
def Task.lastStore (t : Task) : Nat := t.ended.foldl (fun m e => max m e.2.stores) 0

/-- The commit of a task (13 R261): its commands' writes and its crew's stores are acquired, then flips, adds, ring marks take consecutive points;
puts and publishes follow. -/
def State.commitTask (s : State) (x : Nat) (t : Task) : State :=
  let at_ := (t.crew.map (fun c => s.stamps.pts (.seq c))).foldl max 0
  let s := { s with stamps := s.stamps.storeAll at_ (s.commitPlaces x t) }
  let s := s.performMet none ((s.ms.pendW.filter (fun w => (s.pushedUids t).contains w.uid)).map (fun w => (w.place.key, w.data.length)))
  let s := { s with ms := s.ms.acquire (s.pushedUids t) }
  let s := s.modCtx x (fun c => c.flip t.id)
  let s := (List.range t.crew.length).foldl (fun s r =>
    (addsOf (t.fxOf r)).foldl (fun s e =>
      s.putSem e.1.1 e.1.2 (((s.core e.1.1).sem e.1.2).val + e.2) (s.pushedUids t) t.lastStore) s) s
  let s := t.heldFx.foldl (fun s f => s.commitRing x f) s
  t.heldInOrder.foldl (fun s f => s.commitRest x f) s

/-- A due advance (R286): CUR becomes the first free slot after it; with none free, it stays due. -/
def Stage.advance (st : Stage) : Stage :=
  if st.due then
    match ((List.range st.nver).map (fun i => (st.cur + 1 + i) % st.nver)).find? (fun v => !st.used.contains v) with
    | some v => { st with cur := v, due := false }
    | none => st
  else st

/-- The last phase that a stage declares. -/
def Stage.lastPhase (st : Stage) : Nat := if st.declares 2 then 2 else if st.declares 1 then 1 else 0

/-- Steps 2-4 of a retirement (R285, R286). -/
def Stage.retire (st : Stage) (t : Task) (now mbn : Nat) : Stage :=
  let st := { st with tasks := st.tasks.filter (fun u => u.id != t.id),
                      retiredN := (List.range 3).map (fun p => st.retiredN.getD p 0 + if p = t.phase then 1 else 0) }
  let st := if t.phase = 0 ∧ st.declares 1 ∧ st.bsrc = 0x100 then st.arrive 1 t.tag now
    else if t.phase = 1 ∧ st.declares 2 then st.arrive 2 t.tag now else st
  let st := if t.phase = st.lastPhase then { st with inflight := st.inflight.filter (fun e => e.1 != t.tag) }.advance else st
  if t.phase = 2 then
    let st := { st with wcount := st.wcount + 1 }
    (if st.vper ≠ 0 ∧ st.wcount % st.vper = 0 ∧ st.fdisp < mbn then { st with due := true } else st).advance
  else st

/-- The stash names of a tag of a stage become absent at its last phase (16 R294). -/
def Ctx.dropTag (x : Ctx) (stage : Nat) (tag : BitVec 16) : Ctx :=
  { x with stash := x.stash.filter (fun e => !(e.stage == stage && e.tag == tag.toNat)) }

/-- TASK_RETIRE (R285): once the last crew core has reported. -/
def execTaskRetire (ctx stage task : Nat) (s : State) : Out :=
  eventStep s (fun s =>
    match s.stage ctx stage, s.task ctx ⟨stage, task⟩ with
    | some st, some t =>
      if t.reported ∧ (s.ctx ctx).st = .running then
        let mbn := match (s.ctx ctx).launch with | some l => l.mbn | none => 0
        let s := if st.commit then s.commitTask ctx t else s.modCtx ctx (fun c => c.flip t.id)
        let s := match s.stage ctx stage with
          | some st => s.setStage ctx stage (st.retire t s.now mbn)
          | none => s
        let s := if t.phase = st.lastPhase then s.modCtx ctx (fun c => c.dropTag stage t.tag) else s
        s.endLaunch ctx
      else s
    | _, _ => s)

end Sys2Proof.Machine
end

