-- ==== Sys2Proof/Machine/Curtain.lean ====
section
/-!
DEFINITION. Sys2Proof/Machine/Curtain.lean: declaring a stage (15 R274, R275, R281; 16 R292), LAUNCH with the W4 list (R276), the curtain
(R277) and what its rise starts (R278; 16 R300, R302).
-/
namespace Sys2Proof.Machine

/-! ### Declaring a stage -/

/-- A block of a compressed range that the W4 reads through a context's table is expanded and checked, and one that fails is poisoned (18 R322). -/
def State.expandAt (s : State) (n va : Nat) : State :=
  match (s.ctx n).place false va with
  | some p => { s with ms := s.ms.checkBlock p }
  | none => s

/-- What reading `len` bytes of set-up does to the blocks that hold its two ends; it is shorter than a block. -/
def State.expandSetup (s : State) (n va len : Nat) : State := (s.expandAt n va).expandAt n (va + (len - 1))

/-- Bytes of code or set-up that the W4 reads through a context's table (R275, R276): none when a byte is not translated or lies in a range
with FT, POIS or PLACE = 3, as every page that the W4 has retired does (20 R340); and none when its line is poisoned or its block fails (DESIGN
CHOICE, log entry 95). -/
def State.tableBytes (s : State) (n va len : Nat) : Option (List Byte) :=
  let s := s.expandSetup n va len
  allSome ((upFrom va len).map (fun a =>
    match (s.ctx n).lookup a, (s.ctx n).place false a with
    | some e, some p => if e.ft ∨ e.place = 3 ∨ s.ms.poisoned p then none else some (s.ms.peek p)
    | _, _ => none))

/-- A counter selector and its comparison in a playbill row (R281). -/
def comparisonOk (c op val : Nat) : Bool := decide (op ≤ 6) && decide (c ≤ 8) && (op != 0 || (c == 0 && val == 0))

/-- A playbill row (R281). -/
def rowOk (phases r : Nat) : Bool :=
  if bitAt r 63 then
    !bitAt r 0 && decide (slice r 62 61 ≤ 2) && bitAt phases (slice r 62 61) && comparisonOk (slice r 54 51) (slice r 50 48) (slice r 47 28) &&
      comparisonOk (slice r 27 24) (slice r 23 21) (slice r 20 1)
  else r == 0

/-- The core list of a stage block: bytes up to the first 0xFF (R275). -/
def blockCores (blk : List Byte) : List Nat := ((blk.drop 144).takeWhile (fun b => b != 0xFF)).map (·.toNat)

/-- The stage block's rules (R275). -/
def State.blockOk (s : State) (n phases : Nat) (blk : List Byte) : Bool :=
  let cores := blockCores blk
  ((chunks 8 16 (blk.take 128)).map leNat).all (rowOk phases) && leNat ((blk.drop 140).take 4) == 0 && !cores.isEmpty &&
    cores.all (fun c => coordOk c && (s.ctx n).coreList.contains (coreOfCoord c)) && decide cores.Nodup

/-- A ring that is a channel end of context n: a consumer end, or a producer end (R240, R300). -/
def State.channelEnd (s : State) (n q : Nat) (consumer : Bool) : Bool :=
  match s.ring n q with
  | some r => r.chan && bitAt r.orole 1 == consumer
  | none => false

/-- The fields of DECLARE-STAGE that do not depend on its block (R274). -/
def State.declareOk (s : State) (n v : Nat) : Bool :=
  let phases := slice v 50 48
  let fsrc := slice v 383 375
  let bsrc := slice v 374 366
  let dch := slice v 365 357
  let entries := [slice v 119 64, slice v 183 128, slice v 247 192]
  let mine := ([fsrc, bsrc] : List Nat).filter (· < 0x100)
  let others := ((s.ctx n).stages.filter (fun e => e.1 != slice v 55 53)).filterMap (·.2)
  bitAt phases 0 && (!bitAt phases 2 || bitAt phases 1) && decide (1 ≤ slice v 47 44) && decide (slice v 47 44 ≤ 8) &&
    decide (slice v 7 5 < slice v 47 44) && decide (1 ≤ slice v 39 32) && decide (slice v 311 256 % 256 = 0) &&
    (List.range 3).all (fun p => (entries.getD p 0) % 4 == 0 && bitAt phases p == ((entries.getD p 0) != 0)) &&
    decide (fsrc ≤ 0x100) && (decide (bsrc ≤ 0x100) || bsrc == 0x1FF) && ((bsrc == 0x1FF) == !bitAt phases 1) &&
    (decide (dch < 0x100) || dch == 0x1FF) && mine.all (fun q => s.channelEnd n q true) && (dch == 0x1FF || s.channelEnd n dch false) &&
    others.all (fun st => !mine.contains st.fsrc && !mine.contains st.bsrc)

/-- The quotas of the stages of one home die stay within the context's store there (16 R292). -/
def State.quotaOk (s : State) (n v : Nat) (blk : List Byte) : Bool :=
  match blockCores blk with
  | c :: _ =>
    let die := coreDie (coreOfCoord c)
    let mine := ((s.ctx n).stages.filter (fun e => e.1 != slice v 55 53)).filterMap (·.2)
    decide (((mine.filter (fun st => coreDie (st.cores.headD 0) == die)).map (·.quota)).sum + slice v 407 384 ≤ (s.ctx n).sts.getD die 0)
  | [] => true

/-- A stage as its declaration leaves it (R274, R275). -/
def declared (v : Nat) (blk : List Byte) : Stage :=
  { commit := bitAt v 52, rr := bitAt v 51, phases := slice v 50 48, nver := slice v 47 44, vper := slice v 43 40, wt := slice v 39 32,
    dcrew := slice v 31 28, agelim := slice v 27 8, minc := slice v 471 464, csem := slice v 456 448, cls := slice v 447 446,
    quota := slice v 407 384, fsrc := slice v 383 375, bsrc := slice v 374 366, dch := slice v 365 357,
    entries := [slice v 119 64, slice v 183 128, slice v 247 192],
    rows := (chunks 8 16 (blk.take 128)).map (fun b => BitVec.ofNat 64 (leNat b)),
    items := (chunks 4 3 ((blk.drop 128).take 12)).map leNat,
    cores := (blockCores blk).map coreOfCoord, queues := [[], [], []], arrived := 0, waits := none, inflight := [], last := 3,
    cur := slice v 7 5, wcount := 0, due := false, fdisp := 0, retiredN := [0, 0, 0], tasks := [], nextTask := 0 }

/-- DECLARE-STAGE (R272, R274, R275). -/
def State.declareStage (s : State) (n v : Nat) : Except Nat State :=
  let blk := s.tableBytes n (slice v 311 256) 256
  if slice v 511 472 ≠ 0 ∨ slice v 463 457 ≠ 0 ∨ slice v 445 408 ≠ 0 ∨ slice v 356 312 ≠ 0 ∨ slice v 255 248 ≠ 0 ∨ slice v 191 184 ≠ 0 ∨
      slice v 127 120 ≠ 0 ∨ slice v 4 0 ≠ 0 then .error 3
  else if s.declareOk n v = false then .error 4
  else
    match blk with
    | none => if (s.ctx n).st = .loaded then .error 6 else .error 5
    | some blk =>
      if s.quotaOk n v blk = false then .error 4
      else if (s.ctx n).st ≠ .loaded then .error 5
      else if s.blockOk n (slice v 50 48) blk then .ok (s.setStage n (slice v 55 53) (declared v blk))
      else .error 6

/-! ### Launch -/

/-- Coordinates of a W4 list entry (R276). -/
def w4Coord (e : BitVec 32) : Nat := e.toNat % 2 ^ 24

/-- The W4 list of a launch: entry 0 names this W4 and no W4 appears twice (R276); of one W4, itself. -/
def State.w4List (s : State) (n v : Nat) : Option (List (BitVec 32)) :=
  let k := slice v 23 16 + 1
  if k = 1 then some [BitVec.ofNat 32 (n * 2 ^ 28 + s.mod.self)]
  else
    match s.tableBytes n (slice v 247 192) (4 * k) with
    | none => none
    | some bs =>
      let es := (chunks 4 k bs).map (fun b => BitVec.ofNat 32 (leNat b))
      let ok : Bool := es.all (fun e => slice e.toNat 27 24 == 0) && (es.map w4Coord).head? == some s.mod.self && decide (es.map w4Coord).Nodup
      if ok then some es else none

/-- Is this W4 the root of a launch (R277)? -/
def State.isRoot (s : State) (l : Launch) : Bool := (l.w4s.map w4Coord).head? == some s.mod.self

/-- The W4s to which a W4 of a list forwards the messages of a curtain (R277): a tree in the list's order, in which entry i forwards to entries
6i + 1 to 6i + 6 (DESIGN CHOICE, log entry 46). -/
def forwards (w4s : List (BitVec 32)) (self : Nat) : List (BitVec 32) :=
  match w4s.findIdx? (fun e => w4Coord e == self) with
  | some i => (w4s.drop (6 * i + 1)).take 6
  | none => []

/-- The record and the registers of a rejected packet (R270). -/
def State.rejectPacket (s : State) (n code : Nat) : State :=
  let head := (s.ctx n).lrhead
  (s.modCtx n (fun x => { x with err := code, erroff := head, stop := true })).record n
    ⟨4, BitVec.ofNat 64 code, BitVec.ofNat 64 head, 0, 0⟩

/-! ### The ring (R269, R270) -/

/-- Does the ring leave HBM (R269)? -/
def Ctx.ringOutside (x : Ctx) : Bool := decide (8 * 0x1000000000 < x.lrbase + x.lrsize)

/-- Does the front end read packets at all (R269, R270)? A W4 has 16 contexts (01 R23). -/
def State.ringReads (s : State) (n : Nat) : Bool :=
  let x := s.ctx n
  s.mod.ready && decide (n < Config.contexts) && x.lrsize != 0 && !x.ringOutside && !x.stop && x.lrtail != x.lrhead

/-- Is the packet at LRHEAD still being carried out: a PREEMPT, or a LAUNCH at the root of its curtain (R270)? -/
def State.carrying (s : State) (n : Nat) : Bool :=
  let x := s.ctx n
  x.preempting || (x.st == .curtain && (match x.launch with | some l => s.isRoot l | none => false))

/-- Does the front end read packets now? -/
def State.ringOpen (s : State) (n : Nat) : Bool := s.ringReads n && !s.carrying n

/-- The packet at an offset of the ring, once all of it has been written (R270). -/
def State.packetFrom (s : State) (n at_ : Nat) : Option Nat :=
  let x := s.ctx n
  let before := (at_ + x.lrsize - x.lrhead) % x.lrsize
  if at_ + 64 ≤ x.lrsize ∧ before + 64 ≤ (x.lrtail + x.lrsize - x.lrhead) % x.lrsize then some (leNat (s.physBytes (x.lrbase + at_) 64)) else none

/-- The packet at LRHEAD. -/
def State.packetAt (s : State) (n : Nat) : Option Nat := if s.ringOpen n then s.packetFrom n (s.ctx n).lrhead else none

/-- PACKET_REJECT on reading: a packet that straddles the end of the ring, or of an unknown kind (R270, R271). -/
def State.scanRing (s : State) (n : Nat) : State :=
  let x := s.ctx n
  if s.ringOpen n ∧ x.lrsize < x.lrhead + 64 then s.rejectPacket n 1
  else match s.packetAt n with
    | some v => if 1 ≤ slice v 63 56 ∧ slice v 63 56 ≤ 6 then s else s.rejectPacket n 2
    | none => s

/-- A packet has been carried out (R270): the head goes on, and the front end reads the next one. -/
def State.headOn (s : State) (n : Nat) : State :=
  (s.modCtx n (fun x => { x with lrhead := if x.lrsize = 0 then x.lrhead else (x.lrhead + 64) % x.lrsize })).scanRing n

/-! ### The curtain falls (R277) -/

/-- A context whose curtain has fallen is LOADED again; nothing of it has started. -/
def State.lower (s : State) (n : Nat) : State := s.modCtx n (fun x => { x with st := .loaded, launch := none })

/-- The curtain falls at the root (R277): its packet is rejected, and every W4 of the list hears of it. -/
def State.fallAtRoot (s : State) (n code w4 : Nat) : State :=
  match (s.ctx n).launch with
  | some l =>
    let s := (s.lower n).modCtx n (fun x => { x with lrhead := l.offset })
    let s := (s.rejectPacket n code).record n ⟨5, BitVec.ofNat 64 code, 0, 0, BitVec.ofNat 64 w4⟩
    (forwards l.w4s s.mod.self).foldl (fun s e => s.send (.fall e code w4 l.w4s)) s
  | none => s

/-- The packet of a launch on its way to the W4s of its list (R277). -/
def State.forwardLaunch (s : State) (gen : BitVec 32) (start : BitVec 56) (tag0 mbnm1 : BitVec 16) (w4s : List (BitVec 32)) : State :=
  (forwards w4s s.mod.self).foldl (fun s e => s.send (.launch e gen start tag0 mbnm1 w4s)) s

/-- LAUNCH (R272, R276, R277): the curtain goes up at the root and the packet goes to the W4s of the list. A generation that is not the
context's own is a curtain fault of the root. -/
def State.launchPacket (s : State) (n v : Nat) : Except Nat State :=
  let mbn := slice v 55 40 + 1
  if slice v 511 248 ≠ 0 ∨ slice v 191 184 ≠ 0 ∨ slice v 79 64 ≠ 0 ∨ slice v 15 0 ≠ 0 then .error 3
  else if slice v 183 128 % 4 ≠ 0 ∨ slice v 95 80 = 0 ∨ 65535 < slice v 39 24 + (mbn - 1) ∨ (slice v 23 16 ≠ 0 ∧ slice v 247 192 % 64 ≠ 0) then
    .error 4
  else if (s.ctx n).st ≠ .loaded ∨ ((s.ctx n).stages.filterMap (·.2)).isEmpty then .error 5
  else
    match s.w4List n v with
    | none => .error 6
    | some es =>
      let l : Launch := { start := slice v 183 128, mbn := mbn, tag0 := slice v 39 24, cto := slice v 95 80, gen := slice v 127 96, w4s := es,
                          arrived := [s.mod.self], began := s.now, offset := (s.ctx n).lrhead }
      let s := s.modCtx n (fun x => { x with st := .curtain, launch := some l })
      let s := s.forwardLaunch (BitVec.ofNat 32 l.gen) (BitVec.ofNat 56 l.start) (BitVec.ofNat 16 l.tag0) (BitVec.ofNat 16 (mbn - 1)) es
      if l.gen ≠ (s.ctx n).gen then .ok (s.fallAtRoot n 7 s.mod.self) else .ok s

/-! ### The curtain -/

/-- Does a context hold an end of a channel that cannot join (16 R300)? A producer end needs one consumer end in the launch, and no channel has two
producer ends or two consumer ends. -/
def Ctx.joinFault (x : Ctx) (joins : List ChannelJoin) : Bool :=
  x.rings.any (fun e => match e.2 with
    | some r =>
      let count := fun (b : Bool) => (joins.filter (fun j => j.ring == e.1 && j.consumer == b)).length + (bitAt r.orole 1 == b).toNat
      r.chan && (decide (1 < count true) || decide (1 < count false) || (count false == 1 && count true == 0))
    | none => false)

/-- CURTAIN_MESSAGE (R277): a W4 of the list forwards the packet, and enters CURTAIN and reports arrival, or reports a curtain fault: of its state,
its generation, or a channel end that does not join (16 R300; DEDUCED, log entry 46). -/
def execCurtainMessage (ctx : Nat) (gen : BitVec 32) (start : BitVec 56) (tag0 mbnm1 : BitVec 16) (list : CurtainList) (s : State) : Out :=
  eventStep s (fun s =>
    match list.w4s, s.mod.ready with
    | root :: _, true =>
      let x := s.ctx ctx
      let s := s.forwardLaunch gen start tag0 mbnm1 list.w4s
      if ctx < Config.contexts ∧ x.st = .loaded ∧ x.gen = gen.toNat ∧ x.joinFault list.joins = false then
        let l : Launch := { start := start.toNat, mbn := mbnm1.toNat + 1, tag0 := tag0.toNat, cto := 0, gen := gen.toNat, w4s := list.w4s,
                            arrived := [], began := s.now, joins := list.joins }
        (s.modCtx ctx (fun x => { x with st := .curtain, launch := some l })).send (.report root false)
      else s.send (.report root true)
    | _, _ => s)

/-- CURTAIN_REPORT (R277; 16 R300), at the root before the rise: an arrival, or a fault that makes the curtain fall. -/
def execCurtainReport (ctx w4 : Nat) (fault : Bool) (s : State) : Out :=
  eventStep s (fun s =>
    match (s.ctx ctx).launch with
    | some l =>
      if s.isRoot l = false ∨ (s.ctx ctx).st ≠ .curtain then s
      else if fault then s.fallAtRoot ctx 7 w4
      else s.modCtx ctx (fun x => { x with launch := some { l with arrived := (l.arrived ++ [w4]).eraseDups } })
    | none => s)

/-- A channel end joins its other end (16 R302): the producer's window and send count come from the consumer's counts. -/
def Ring.join (r : Ring) (j : ChannelJoin) : Ring :=
  let r := { r with chEnd := { r.chEnd with peer := j.w4 } }
  if bitAt r.orole 1 then r
  else { r with win := { joined := true, w := r.slots - (j.claimed - j.freed).toNat, sent := j.claimed.toNat, freed := j.freed.toNat } }

/-- Every channel end of a context joins the end of the other kind. -/
def Ctx.joinAll (x : Ctx) (joins : List ChannelJoin) : Ctx :=
  { x with rings := x.rings.map (fun e => (e.1, e.2.map (fun r => match joins.find? (fun j => j.ring == e.1 && j.consumer != bitAt r.orole 1) with
      | some j => if r.chan then r.join j else r
      | none => r))) }

/-- A stage at the rise (R278): everything starts afresh, and a stage that LAUNCH feeds receives the tags. -/
def Stage.rise (st : Stage) (l : Launch) (now : Nat) : Stage :=
  let st := { st with queues := [[], [], []], looks := [], arrived := 0, waits := none, inflight := [], last := 3, wcount := 0, due := false, fdisp := 0,
                      retiredN := [0, 0, 0], tasks := [] }
  if st.fsrc = 0x100 then (upFrom l.tag0 l.mbn).foldl (fun st t => st.arrive 0 (BitVec.ofNat 16 t) now) st else st

/-- A sequencer at the rise (R278). Handler mode is clear, so a queue that a trap had stopped runs; the commands that it pushes see every ordinary
store so far, up to number `fence` (log entry 90). -/
def Core.rise (c : Core) (start fence : Nat) : Core :=
  { (if c.handler then c.restartAll else c) with
    run := .on, regs := [], rpois := [], pc := BitVec.ofNat 56 start, handler := false, wait := none, stall := none, debug := false, share := none
    checkQ := [], outst := [], heldFaults := [], discards := [], endStrand := false, mism := 0, fence := fence
    ckpt := some { regs := [], rpois := [], pc := BitVec.ofNat 56 start, await := [] } }

/-- The context enters RUNNING (R277, R278). -/
def State.rise (s : State) (n : Nat) (l : Launch) (joins : List ChannelJoin) : State :=
  let s := s.modCtx n (fun x => { (x.joinAll joins) with
    st := .running, dbgHalted := [], probes := [], preempting := false, lostRanks := [],
    stages := x.stages.map (fun e => (e.1, e.2.map (fun st => st.rise l s.now))) })
  (s.ctx n).coreList.foldl (fun s c =>
    ((s.leaveAll n (.seq c)).modCore c (fun co => co.rise l.start s.seqNo)).reachPts (.seq c) s.stamps.latest) s

/-- CURTAIN_RISE (R277, R278; 16 R300): at the root once every W4 has arrived; a channel end of the root that does not join is a curtain fault. The rise
is forwarded as the packet was. -/
def execCurtainRise (ctx : Nat) (joins : List ChannelJoin) (s : State) : Out :=
  eventStep s (fun s =>
    match (s.ctx ctx).launch with
    | some l =>
      let on := fun (s : State) => (forwards l.w4s s.mod.self).foldl (fun s e => s.send (.rise e)) s
      if (s.ctx ctx).st ≠ .curtain then s
      else if s.isRoot l then
        if l.w4s.all (fun e => l.arrived.contains (w4Coord e)) = false then s
        else if (s.ctx ctx).joinFault joins then s.fallAtRoot ctx 7 s.mod.self
        else on ((s.rise ctx l joins).headOn ctx)
      else on (s.rise ctx l l.joins)
    | none => s)

/-- CURTAIN_FALL (R277), at a W4 that is not the root of the list: it forwards the fall, a context that stands in this curtain is LOADED again, and
its owner hears of it; another launch of the context goes on. -/
def execCurtainFall (ctx : Nat) (err : BitVec 8) (fallen : CurtainFallen) (s : State) : Out :=
  eventStep s (fun s =>
    if s.mod.ready = false ∨ Config.contexts ≤ ctx ∨ (fallen.w4s.map w4Coord).head? = some s.mod.self then s
    else
      let s := (forwards fallen.w4s s.mod.self).foldl (fun s e => s.send (.fall e err.toNat fallen.w4.toNat fallen.w4s)) s
      let s := if (s.ctx ctx).st = .curtain ∧ (s.ctx ctx).launch.map (·.w4s) = some fallen.w4s then s.lower ctx else s
      s.record ctx ⟨5, err.zeroExtend 64, 0, 0, fallen.w4.zeroExtend 64⟩)

/-- CURTAIN_TIMEOUT (R277): CTO milliseconds of 3,300,000 cycles have passed at the root. -/
def execCurtainTimeout (ctx : Nat) (s : State) : Out :=
  eventStep s (fun s =>
    match (s.ctx ctx).launch with
    | some l => if (s.ctx ctx).st = .curtain ∧ s.isRoot l ∧ l.began + l.cto * 3300000 ≤ s.now then s.fallAtRoot ctx 8 s.mod.self else s
    | none => s)

end Sys2Proof.Machine
end

