-- ==== Sys2Proof/Machine/Dou.lean ====
section
/-!
DEFINITION. Sys2Proof/Machine/Dou.lean: the operations inside DRAM: DCOPY, DFILL, DAND, DOR, DXOR, DNOT on rows of 1 KiB (08 R204, 20 R330-R334)
and the gather-sum DGSUM (08 R205, 20 R335). Every path of R331 gives the same bytes.
-/
namespace Sys2Proof.Machine

/-- A line or part of one that a DOU touches: its entry and its place. -/
def State.rowPiece (s : State) (x : Nat) (shadow : Bool) (va : Nat) : Except StepErr (LttEntry × Place) :=
  match (s.ctx x).lookup va, (s.ctx x).place shadow va with
  | some e, some p => if s.ms.channelPaused p.key then .error .paused else .ok (e, p)
  | _, _ => .error (.fatal va)

/-- Check every piece of n bytes (R330, R335): translated, else a fatal context error; not poisoned and as `ok` says, else a command
fault. -/
def State.rowCheck (s : State) (x : Nat) (shadow : Bool) (ok : LttEntry → Place → Bool) (va n : Nat) : Except StepErr Unit :=
  (piecesOf va n).foldlM (fun _ pc => do
    let (e, p) ← s.rowPiece x shadow pc.1
    demand (ok e p && !s.ms.poisoned p)) ()

/-- A row of a ROWOP range (R330). -/
def rowMode (e : LttEntry) (_ : Place) : Bool := e.rowop
/-- Memory that holds patterns, lists and tables: HBM, uncompressed (R330, R335). -/
def plainHbm (_ : LttEntry) (p : Place) : Bool := isHbm p.key && p.comp == 0

/-- The lines of a range of virtual addresses, as intervals of keys. -/
def State.lineKeys (s : State) (x : Nat) (shadow : Bool) (va n : Nat) : List (Nat × Nat) :=
  (piecesOf va n).filterMap (fun pc => ((s.ctx x).place shadow pc.1).map (fun p => (lineOf p.key, lineLen p.key)))

/-- The DOU's duty to the caches under COH (R334): clean what it reads. -/
def State.douClean (s : State) (k : Cmd) (x va n : Nat) : State :=
  if k.coh then { s with ms := s.ms.cleanRanges (s.lineKeys x false va n) } else s

/-- … and invalidate what it writes, as INVAL does (04 R106); a pinned line is waited for (12 R250). What the DOU writes reaches the L2 with
its place in the global order (13 R259). -/
def State.douInval (s : State) (k : Cmd) (x va n : Nat) : Except StepErr State :=
  if k.coh then
    let ks := s.lineKeys x k.task.isSome va n
    if s.ms.pinnedIn ks then .error (.wait s) else .ok (s.invalidate ks)
  else .ok s

/-- A DOU's read of n bytes. -/
def State.douRead (s : State) (k : Cmd) (x va n : Nat) : Except StepErr (List Byte × State) :=
  (piecesOf va n).foldlM (fun (acc : List Byte × State) pc => do
    let (_, p) ← acc.2.rowPiece x false pc.1
    let (bs, f) := (k.reads acc.2.ms).readRow k.uid k.acq k.see k.coh p pc.2 acc.2.fresh
    .ok (acc.1 ++ bs, { acc.2 with fresh := f })) ([], s)

/-- A row reads its own sources before it writes (R330): of what the command writes, the present step's write of that row does not come before. -/
def State.rowCmd (s : State) (k : Cmd) (x va : Nat) : Cmd :=
  { k with ahead := k.ahead.filter (fun e => e.1 != 0 || !((s.ctx x).place k.task.isSome va).any (fun p => p.key / 1024 == e.2.place.key / 1024)) }

/-- A DOU's write of a row to DRAM, to the shadow frame inside a task (15 R288). -/
def State.douWrite (s : State) (k : Cmd) (x va : Nat) (bs : List Byte) : Except StepErr State :=
  (piecesOf va bs.length).foldlM (fun (s : State) pc => do
    let (e, p) ← s.rowPiece x k.task.isSome pc.1
    let marked := match k.task with
      | some t => if e.flip = 0 then some (s.ctx x) else (s.ctx x).markFlip e.flip t
      | none => some (s.ctx x)
    match marked with
    | none => .error .fault
    | some x' =>
      let data := ((bs.drop (pc.1 - va)).take pc.2)
      let (data, f) := s.ms.writtenTwice k.uid p data s.fresh
      .ok { s.setCtx x x' with ms := s.ms.writeRow k.uid k.pusher k.coh p data, fresh := f }) s

/-- An operand address of rows. -/
def Cmd.rowAt (k : Cmd) (st : Nat) : Except StepErr Nat := k.at_ st 1024

/-! ### Where rows lie (R329), and the path of a row (R331) -/

/-- The stack, the bank of the stack, the subarray of the bank and the row of the subarray of a row-mode address (R329). -/
def rowStack (pa : Nat) : Nat := slice pa 38 36
def rowBank (pa : Nat) : Nat := slice (slice pa 35 16) 8 0
def rowSubarray (pa : Nat) : Nat := slice (slice pa 35 16) 19 12
def rowInSubarray (pa : Nat) : Nat := 64 * slice (slice pa 35 16) 11 9 + slice pa 15 10

/-- Do two rows share a bank, and a subarray? -/
def sameBank (a b : Nat) : Bool := rowStack a == rowStack b && rowBank a == rowBank b
def sameSubarray (a b : Nat) : Bool := sameBank a b && rowSubarray a == rowSubarray b

/-- The place of the row at an address, by its key; none where it is not translated. -/
def State.rowKey (s : State) (x : Nat) (shadow : Bool) (va : Nat) : Option Nat := ((s.ctx x).place shadow va).map (·.key)

/-- The rows of one row of a step: those that it reads, and the one that it writes. -/
def State.rowsOf (s : State) (k : Cmd) (x : Nat) (as : List Nat) (b r : Nat) : List Nat × Option Nat :=
  (as.filterMap (fun a => s.rowKey x false (a + 1024 * r)), s.rowKey x k.task.isSome (b + 1024 * r))

/-- Does a row of a step stay in the array (R331): every row of it lies on the DOU's stack, in one bank for a copy, in one subarray otherwise? -/
def inArray (copies : Bool) (inst : Nat) (rows : List Nat × Option Nat) : Bool :=
  match rows.2 with
  | some b => rowStack b == inst && rows.1.all (fun a => if copies then sameBank a b else sameSubarray a b)
  | none => false

/-- The stack of a DOU's queue. -/
def douStack : QId → Nat | .dou _ d => d | _ => 0

/-- The rows, by key, among some whose uncorrectable error no read has found. -/
def MemSys.badRows (m : MemSys) (rows : List Nat) : List Nat := rows.filter (fun r => NatSet.has m.rowErr (r / 1024))

/-- A read through the correcting code finds the errors of some rows (R332; 24 R387): their lines are marked poisoned. -/
def MemSys.findErrors (m : MemSys) (rows : List Nat) : MemSys :=
  { m with rowErr := rows.foldl (fun t r => NatSet.mark t (r / 1024) false) m.rowErr }.markPoison ((rows.map (fun r => linesOf r 1024)).flatten) true

/-- The correcting read of the source rows of an operation in the array (R332): an uncorrectable error marks the row's lines poisoned, and the
step faults. -/
def State.rowRead (s : State) (k : Cmd) (rows : List Nat) : Except StepErr Unit :=
  let bad := s.ms.badRows rows
  if bad.isEmpty then .ok () else .error (.after { s with ms := s.ms.findErrors bad } k .fault)

/-- What a row of a step leaves of errors that no read had found before (R332; log entry 84): a copy in the array carries the code bits of its
source; every other row has fresh ones. On the fallback path the read finds a source's error, and the destination takes its poison (08 R195).
`errs` are the rows with errors as the step began. -/
def State.rowErrors (errs : MemSys) (copies : Bool) (inst : Nat) (acc : State × Cmd) (rows : List Nat × Option Nat) : State × Cmd :=
  let (s, k) := acc
  let bad := errs.badRows rows.1
  let carried := copies && inArray copies inst rows && !bad.isEmpty
  let ms := { s.ms with rowErr := rows.2.toList.foldl (fun t b => NatSet.mark t (b / 1024) carried) s.ms.rowErr }
  if bad.isEmpty || carried then ({ s with ms := ms }, k)
  else ({ s with ms := (ms.findErrors bad).markPoison ((rows.2.toList.map (fun b => linesOf b 1024)).flatten) true }, k.flag { poison := true })

/-- A step on n rows (R204, R330): every operand row is checked before any row changes; each row reads its sources before it writes. `copies`:
DCOPY, which reads no row in the array through the correcting code (R332). -/
def rowsE (copies : Bool) (srcs : List (BitVec 2)) (sb : BitVec 2) (n : BitVec 12) (f : List (List Byte) → List Byte) : EngOp := fun q k s => do
  let x := s.cmdCtx q
  let len := 1024 * count12 n
  let as ← srcs.mapM (fun st => k.rowAt st.toNat)
  let b ← k.rowAt sb.toNat
  as.forM (fun a => s.rowCheck x false rowMode a len)
  s.rowCheck x k.task.isSome rowMode b len
  let rows := (upFrom 0 (count12 n)).map (fun r => s.rowsOf k x as b r)
  if copies then .ok () else s.rowRead k ((rows.filter (inArray copies (douStack q))).map (·.1)).flatten
  let s := as.foldl (fun s a => s.douClean k x a len) s
  let s ← s.douInval k x b len
  let s ← (upFrom 0 (count12 n)).foldlM (fun (s : State) r => do
    let (ins, s) ← as.foldlM (fun (acc : List (List Byte) × State) a => do
      let (bs, s) ← acc.2.douRead (acc.2.rowCmd k x (b + 1024 * r)) x (a + 1024 * r) 1024
      .ok (acc.1 ++ [bs], s)) ([], s)
    s.douWrite k x (b + 1024 * r) (f ins)) s
  .ok (rows.foldl (State.rowErrors s.ms copies (douStack q)) (s, k))

/-- Two rows byte by byte. -/
def rowOp (f : Byte → Byte → Byte) (ins : List (List Byte)) : List Byte := (ins.getD 0 []).zipWith f (ins.getD 1 [])

/-- DFILL (R204, R330): the pattern must be 8-byte aligned, in uncompressed HBM and free of poison. -/
def dfillE (sa sb : BitVec 2) (n : BitVec 12) : EngOp := fun q k s => do
  let x := s.cmdCtx q
  let len := 1024 * count12 n
  let a ← k.at_ sa.toNat 8
  let b ← k.rowAt sb.toNat
  s.rowCheck x false plainHbm a 8
  s.rowCheck x k.task.isSome rowMode b len
  let s := s.douClean k x a 8
  let s ← s.douInval k x b len
  let (pat, s) ← s.douRead k x a 8
  let s ← (upFrom 0 (count12 n)).foldlM (fun (s : State) r =>
    s.douWrite k x (b + 1024 * r) (List.replicate 128 pat).flatten) s
  .ok (((upFrom 0 (count12 n)).map (fun r => s.rowsOf k x [] b r)).foldl (State.rowErrors s.ms false (douStack q)) (s, k))

/-! ### DGSUM -/

/-- An index list (R205): the elements per row, and the rows of each bag; none where a field is out of range. The list has been read up to
`bytes`. -/
def bagsOf (maxE bags : Nat) (header : Nat) (counts : List Nat) : Option (Nat × List Nat) :=
  if header / 2 ^ 10 ≠ 0 ∨ header = 0 ∨ maxE < header then none
  else if (counts.take bags).all (fun c => decide (1 ≤ c) && decide (c ≤ 64)) && (counts.drop bags).all (· == 0) then some (header, counts.take bags)
  else none

/-- Elements of a row as f32 (R205). -/
def rowElems (bf16 : Bool) (bs : List Byte) : List Nat :=
  if bf16 then (chunks 2 (bs.length / 2) bs).map (fun c => leNat c * 2 ^ 16) else (chunks 4 (bs.length / 4) bs).map leNat

/-- Add the rows of a bag in list order, rounding after every addition (R205). A NaN of a bag of one row becomes the canonical NaN (03 R62). -/
def sumRows : List (List Nat) → List (Nat × Flags)
  | [] => []
  | r :: rs =>
    rs.foldl (fun acc row => acc.zipWith (fun (a : Nat × Flags) b =>
      let (v, f) := f32AddRne a.1 b
      (v, a.2.or f)) row) (r.map (fun e => quietNan FFmt.f32 e e))

/-- Cut a list of rows into bags. -/
def splitBags {α : Type} : List Nat → List α → List (List α)
  | [], _ => []
  | c :: cs, rs => rs.take c :: splitBags cs (rs.drop c)

/-- A checked read of the DOU: uncompressed HBM, free of poison (R335), clean under COH (R334). -/
def State.gatherRead (s : State) (k : Cmd) (x va n : Nat) : Except StepErr (List Byte × State) := do
  s.rowCheck x false plainHbm va n
  (s.douClean k x va n).douRead k x va n

/-- A row that DGSUM names, of 1 KiB, has no poisoned line and lies in uncompressed HBM (R335), as far as it is translated. -/
def State.tableRow (s : State) (x va : Nat) : Except StepErr Unit :=
  (piecesOf va 1024).foldlM (fun _ pc => match s.rowPiece x false pc.1 with
    | .ok (e, p) => demand (plainHbm e p && !s.ms.poisoned p)
    | .error e => if e.waitsChannel then .error e else .ok ()) ()

/-- DGSUM (R205, R335): the list and every row are checked before any bag lands. -/
def dgsumE (sa sb sc : BitVec 2) (f1 : BitVec 4) (n : BitVec 12) : EngOp := fun q k s => do
  let x := s.cmdCtx q
  let bags := n.toNat
  let bf16 := f1.toNat == 2
  let w := if bf16 then 2 else 4
  let a ← asAddr (k.here sa.toNat)
  let (head, s) ← s.gatherRead k x a 8
  let cntBytes := (4 * bags + 7) / 8 * 8
  let (cnts, s) ← s.gatherRead k x (a + 8) cntBytes
  match bagsOf (if bf16 then 512 else 256) bags (leNat head) ((chunks 4 (cntBytes / 4) cnts).map leNat) with
  | none => .error .fault
  | some (e, counts) =>
    let total := counts.foldl (· + ·) 0
    let (idx, s) ← s.gatherRead k x (a + 8 + cntBytes) (4 * total)
    let b ← asAddr (k.here sb.toNat)
    (piecesOf b (4 * e * bags)).foldlM (fun _ pc => do
      let (_, p) ← s.rowPiece x k.task.isSome pc.1
      demand (isSram p.key)) ()
    let (rows, s) ← ((chunks 4 total idx).map leNat).foldlM (fun (acc : List (List Nat) × State) (j : Nat) => do
      let va ← asAddr (k.here sc.toNat + ((1024 * j : Nat) : Int))
      let (bs, s) ← acc.2.gatherRead k x va (w * e)
      s.tableRow x va
      .ok (acc.1 ++ [rowElems bf16 bs], s)) ([], s)
    let sums := ((splitBags counts rows).map sumRows).flatten
    let k := k.flag (sums.foldl (fun f r => f.or r.2) {})
    s.engWrite k x b (clean ((sums.map (fun r => leBytes r.1 4)).flatten))

/-- The step words of a DOU. -/
def douOp : Instr → Option EngOp
  | .dcopy sa sb n => some (rowsE true [sa] sb n (fun ins => ins.getD 0 []))
  | .dfill sa sb n => some (dfillE sa sb n)
  | .dand sa sb sc n => some (rowsE false [sa, sc] sb n (rowOp (· &&& ·)))
  | .dor sa sb sc n => some (rowsE false [sa, sc] sb n (rowOp (· ||| ·)))
  | .dxor sa sb sc n => some (rowsE false [sa, sc] sb n (rowOp (· ^^^ ·)))
  | .dnot sa sb n => some (rowsE false [sa] sb n (fun ins => (ins.getD 0 []).map (fun b => ~~~b)))
  | .dgsum sa sb sc f1 n => some (dgsumE sa sb sc f1 n)
  | _ => none

def execDcopy (sa sb : BitVec 2) (n : BitVec 12) (s : State) : Out := stepWord isDou (rowsE true [sa] sb n (fun ins => ins.getD 0 [])) s
def execDfill (sa sb : BitVec 2) (n : BitVec 12) (s : State) : Out := stepWord isDou (dfillE sa sb n) s
def execDand (sa sb sc : BitVec 2) (n : BitVec 12) (s : State) : Out := stepWord isDou (rowsE false [sa, sc] sb n (rowOp (· &&& ·))) s
def execDor (sa sb sc : BitVec 2) (n : BitVec 12) (s : State) : Out := stepWord isDou (rowsE false [sa, sc] sb n (rowOp (· ||| ·))) s
def execDxor (sa sb sc : BitVec 2) (n : BitVec 12) (s : State) : Out := stepWord isDou (rowsE false [sa, sc] sb n (rowOp (· ^^^ ·))) s
def execDnot (sa sb : BitVec 2) (n : BitVec 12) (s : State) : Out :=
  stepWord isDou (rowsE false [sa] sb n (fun ins => (ins.getD 0 []).map (fun b => ~~~b))) s
def execDgsum (sa sb sc : BitVec 2) (f1 : BitVec 4) (n : BitVec 12) (s : State) : Out := stepWord isDou (dgsumE sa sb sc f1 n) s

end Sys2Proof.Machine
end

