-- ==== Sys2Proof/Machine/Fetch.lean ====
section
/-!
DEFINITION. Sys2Proof/Machine/Fetch.lean: fetching an instruction's bytes: a sequencer word, a bundle word, the words of a step-word
body (02 R38, R49, R57; 04 R83; 24 R388).
-/
namespace Sys2Proof.Machine

/-- What a fetch finds: n bytes with the state after the read, no memory at the address, a poisoned line, or a channel that pauses for a lane
repair, for which it waits (22 R368). -/
inductive Fetched where
  | bytes (v : Nat) (s : State)
  | absent
  | poisoned (pages : List Nat)
  | later

/-- Read n bytes of code of context x at va in the live frame (15 R288). -/
def State.fetch (s : State) (x va n : Nat) : Fetched :=
  match (s.ctx x).place false va with
  | none => .absent
  | some p =>
    if s.ms.pausedIn p n then .later
    else
    let (bs, s1) := s.readPlace .device p n
    if s1.ms.anyPoisoned p n then .poisoned (s1.ms.poisonedLines p n) else .bytes (leNat bs) s1

/-- A sequencer's fetch goes on with the word, or loses the context: class 12 for an address outside the table (R83), class 10 for a
poisoned line (24 R388). -/
def State.withSeqWord (s : State) (c va : Nat) (k : Nat → State → Out) : Out :=
  match s.fetch (s.ctxOf c) va 4 with
  | .bytes w s1 => k w s1
  | .later => .next s
  | .absent => .next (s.fatal c va)
  | .poisoned pages =>
    .next (s.loseContext (s.ctxOf c) 10 (BitVec.ofNat 64 va) (coreField c (s.core c).pc) pages s.mod.self)

end Sys2Proof.Machine
end

