-- ==== Sys2Proof/Machine/VecBlock.lean ====
section
/-!
DEFINITION. Sys2Proof/Machine/VecBlock.lean: BAMAX, BSCALE, QNT and DQNT (05 R123-R128).
-/
namespace Sys2Proof.Machine

/-- The conditions of R123: C is 1, 2 or 4; every lane active; p0; the same word in every member; one FMT, RND and SAT. -/
def VCx.blockOk (w : VCx) (p : BitVec 4) : Bool :=
  (w.st.c == 1 || w.st.c == 2 || w.st.c == 4) && p == 0 && w.whole &&
    w.st.members.all (fun m => vshLanes m.vsh == 32 && m.vsh.toNat % 2 ^ 8 == w.m.vsh.toNat % 2 ^ 8)

/-- The elements of one register over the strand: 32C × e. -/
def VCx.rowElems (w : VCx) (width : Nat) : Nat := 32 * w.st.c * perSlot width
/-- Element E of a span (R123): its register, lane and position. -/
def VCx.spanElem (w : VCx) (reg : LReg) (width e : Nat) : Nat :=
  let row := w.rowElems width
  w.elem (shiftReg reg (e / row)) width (e % row % perSlot width) (e % row / perSlot width)
/-- Element number of position k of a lane in a span: k counts register by register. -/
def VCx.elemNo (w : VCx) (width l k : Nat) : Nat :=
  k / perSlot width * w.rowElems width + l * perSlot width + k % perSlot width
/-- Elements n that a block word handles, and its blocks (R124). -/
def VCx.blockElems (w : VCx) (width : Nat) : Nat := max 256 (w.rowElems width)

/-- Is a register of block b of a span poisoned in a lane that holds one of its elements? -/
def VCx.blockPois (w : VCx) (reg : LReg) (width n b : Nat) : Bool :=
  (List.range (n / w.rowElems width)).any (fun i =>
    (upFrom 0 (32 * w.st.c)).any (fun l =>
      w.elemNo width l (i * perSlot width) / 256 == b && w.rp (shiftReg reg i) l))

/-- Write the values of the blocks to lanes 0 up of one register (R123): a scale or an amax. -/
def State.writeScales (s : State) (w : VCx) (reg : LReg) (vals : List (Nat × Bool)) (fl : Flags) : State :=
  let v := (vals.mapIdx (fun b x => (b, x))).foldl (fun (v : VecUnit) e => v.setLane w.st (reg e.1) e.1 (BitVec.ofNat 32 e.2.1) e.2.2)
    (s.core w.core).vec
  s.modCore w.core (fun co => ({ co with vec := { co.vec with regs := v.regs, rpois := v.rpois } }).modStrand w.st.uid
    (fun t => { t with status := addFlags t.status { fl with poison := fl.poison || vals.any (·.2) } }))

/-- Under SR the amax that BAMAX writes to lane b advances that lane's rounding state once (R113: BAMAX is none of the words that round nothing;
DESIGN CHOICE, log entry 81). -/
def State.advanceRounding (s : State) (w : VCx) (n : Nat) : State :=
  s.modCore w.core (fun co => co.modStrand w.st.uid (fun t => { t with
    sr := (upFrom 0 (n / 256)).foldl (fun sr l => Tbl.set 0 sr l (BitVec.ofNat 32 (srAdvance (Tbl.get 0 sr l).toNat))) t.sr }))

/-- The plain formats of BAMAX and BSCALE. -/
def plainFormat (f : Nat) : Option FFmt := if f = 1 ∨ f = 2 ∨ f = 3 then fpFormat f else none

def bamaxV (p : BitVec 4) (d a : VReg) : VOp := fun w s => do
  let f ← have_ (plainFormat w.fmt)
  need (w.blockOk p)
  let n := w.blockElems f.width
  let ra ← w.reg a (n / w.rowElems f.width)
  let rd ← w.reg d 1
  let rs := (List.range (n / 256)).map (fun b =>
    (blockMax ((upFrom (256 * b) 256).map (fun e => f.value (w.spanElem ra f.width e))), w.blockPois ra f.width n b))
  let s := s.writeScales w rd (rs.map (fun r => (r.1.1, r.2))) (rs.foldl (fun fl r => fl.or r.1.2) {})
  vdone (if w.mode == .sr then s.advanceRounding w n else s)

def bscaleV (p : BitVec 4) (d a b : VReg) : VOp := fun w s => do
  let f ← have_ (plainFormat w.fmt)
  need (w.blockOk p)
  let n := w.blockElems f.width
  let regs := n / w.rowElems f.width
  let ra ← w.reg a regs
  let rd ← w.reg d regs
  let rb ← w.reg b 1
  let blk := fun l k => w.elemNo f.width l k / 256
  let el := fun l k u =>
    dequant f w.mode w.sat u (f.value (w.elem ra f.width k l)) ((w.rl rb (blk l k)).toNat % 2 ^ 24)
  -- every register that the lane reads for the word counts (R112): its own of the span, and the scales of its blocks
  let bad := fun l => w.poisIn ra regs l || (List.range regs).any (fun i => w.rp rb (blk l (i * perSlot f.width)))
  let pois := fun l (_ : Nat) => bad l
  vdone (w.write 0 ⟨rd, f.width, regs⟩ pois (fun _ => w.mode == .sr) el s)

/-- QNT (R127): scales first, then the codes under them; both from the old values. -/
def qntV (p : BitVec 4) (d a : VReg) (fmt : BitVec 4) : VOp := fun w s => do
  let fe ← have_ (blockElem fmt.toNat)
  need (w.fmt == 1)
  need (w.blockOk p)
  let wc := fe.width
  let n := w.blockElems wc
  let src := n / w.rowElems 32
  let codes := n / w.rowElems wc
  let ra ← w.reg a src
  let rd ← w.reg d (codes + 1)
  let val := fun e => FFmt.f32.value (w.spanElem ra 32 e)
  let blocks := (List.range (n / 256)).map (fun b =>
    (blockScale fe ((upFrom (256 * b) 256).map val), w.blockPois ra 32 n b))
  let scale := fun b => match blocks[b]? with | some x => x.1.1 | none => 0
  let bad := fun b => match blocks[b]? with | some x => x.2 | none => false
  let el := fun l k u => let e := w.elemNo wc l k; quant fe w.mode u (scale (e / 256)) (val e)
  let s1 := w.write 0 ⟨rd, wc, codes⟩ (fun l i => bad (w.elemNo wc l (i * perSlot wc) / 256)) (fun _ => w.mode == .sr) el s
  vdone (s1.writeScales w (shiftReg rd codes) (blocks.map (fun x => (x.1.1, x.2)))
    { inv := blocks.any (fun x => x.1.2) })

/-- DQNT (R128). -/
def dqntV (p : BitVec 4) (d a : VReg) (fmt : BitVec 4) : VOp := fun w s => do
  let fe ← have_ (blockElem fmt.toNat)
  need (w.fmt == 1)
  need (w.blockOk p)
  let wc := fe.width
  let n := w.blockElems wc
  let dst := n / w.rowElems 32
  let codes := n / w.rowElems wc
  let ra ← w.reg a (codes + 1)
  let rd ← w.reg d dst
  let el := fun l k u =>
    let e := w.elemNo 32 l k
    dequant .f32 w.mode w.sat u (fe.value (w.spanElem ra wc e)) ((w.rl (shiftReg ra codes) (e / 256)).toNat % 2 ^ 24)
  let pois := fun l i =>
    let b := w.elemNo 32 l i / 256
    w.blockPois ra wc n b || w.rp (shiftReg ra codes) b
  vdone (w.write 0 ⟨rd, 32, dst⟩ pois (fun _ => w.mode == .sr) el s)

def execBamax (p : BitVec 4) (d a : VReg) (s : State) : Out := vecWord (bamaxV p d a) s
def execBscale (p : BitVec 4) (d a b : VReg) (s : State) : Out := vecWord (bscaleV p d a b) s
def execQnt (p : BitVec 4) (d a : VReg) (fmt : BitVec 4) (s : State) : Out := vecWord (qntV p d a fmt) s
def execDqnt (p : BitVec 4) (d a : VReg) (fmt : BitVec 4) (s : State) : Out := vecWord (dqntV p d a fmt) s

end Sys2Proof.Machine
end

