-- ==== Sys2Proof/Machine/VecCtl.lean ====
section
/-!
DEFINITION. Sys2Proof/Machine/VecCtl.lean: branches, waits, yields and exits of strands (06 R143-R148) and VSETSH (05 R109).
-/
namespace Sys2Proof.Machine

/-- The branching bundle's address plus 16 × the offset (R143); prefixes stand before that bundle. -/
def VCx.target {n : Nat} (w : VCx) (off : BitVec n) : BitVec 56 :=
  w.m.pc + BitVec.ofNat 56 (w.ulen - 16) + 16 * off.signExtend 56

/-- VBR (R143): its scope is the cluster's lanes, or every member's when all execute the same word. -/
def vbrV (p : BitVec 4) (cond : BitVec 2) (off : BitVec 18) : VOp := fun w s =>
  let ls := w.lanes.filter w.active
  if ls.any (fun l => w.st.predPois p.toNat l) then .error (.poison [])
  else
    let width := fun l => match w.st.members[l / 32]? with | some m => fmtWidth (vshFmt m.vsh) | none => 32
    let bits := (ls.map (fun l => (List.range (perSlot (width l))).map (fun j => bitAt (w.st.pred p.toNat l) j))).flatten
    let taken := match cond.toNat with | 0 => bits.any id | 1 => bits.all id | _ => !bits.any id
    .ok (s, if taken then .goto (w.target off) else .advance)

def vjmpV (off : BitVec 18) : VOp := fun w s => .ok (s, .goto (w.target off))

/-- VTSTW (R143): the flags of every word issued before are final in this model when the word issues; in a synced bundle those of the words
issued before the bundle. -/
def vtstwV (bit : BitVec 6) (off : BitVec 12) : VOp := fun w s =>
  .ok (s, if w.st.status.getLsbD bit.toNat then .goto (w.target off) else .advance)

/-- VYIELD (R148). -/
def vyieldV : VOp := fun _ s => .ok (s, .yield)
/-- VNOP. -/
def vnopV : VOp := fun _ s => vdone s
/-- VEXIT (R145): the cluster waits at the exit join. -/
def vexitV : VOp := fun _ s => .ok (s, .wait .exit)

/-- VWAIT (R147): a test of the own file, which acquires the writes of every command whose SADD reached the semaphore (13 R257); else
the cluster waits in arrival order with the other waiters. -/
def vwaitV (m : BitVec 9) (xb : BitVec 3) : VOp := fun w s => do
  let v := (← w.index xb).setWidth 32
  let sm := w.co.sem m.toNat
  let me := Agent.cluster w.core w.st.uid w.rank
  let joint := w.synced && w.st.c != 1
  let next := w.m.pc + BitVec.ofNat 56 w.ulen
  -- the test stands after the cluster's stores in the global order (13 R252)
  if s.unplaced me then .error .stall
  else
  let s := s.stampLoad me (.sem w.core m.toNat)
  if v ≤ sm.val then
    let s := s.observes me sm.rel
    -- the members of a synced bundle go on together
    if joint then .ok (s, .wait (.sem w.core m.toNat true true next)) else vdone s
  else
    let s := s.modCore w.core (fun co =>
      co.setSem m.toNat { co.sem m.toNat with waiters := (co.sem m.toNat).waiters ++ [(.cluster w.core w.st.uid w.rank, v)] })
    .ok (s, .wait (.sem w.core m.toNat false joint next))

/-- VSETSH (05 R109): the operand writes the issuing cluster's copy; bit 7 is NSAT and bit 13 asks for a reseed. -/
def setVsh (op : BitVec 24) : VOp := fun w s => do
  need (vshRnd op ≤ 4)
  let o := op.toNat
  let seed := if bitAt o 13 then slice o 23 14 else slice w.m.vsh.toNat 23 14
  let vsh := BitVec.ofNat 24 (seed * 2 ^ 14 + slice o 12 8 * 2 ^ 8 + (!bitAt o 7).toNat * 2 ^ 7 + slice o 6 0)
  vdone (s.modCore w.core (fun co => co.modStrand w.st.uid (fun t =>
    let t := t.modMember w.rank (fun m => { m with vsh := vsh })
    if bitAt o 13 then
      { t with sr := (upFrom (32 * w.rank) 32).foldl (fun sr l => Tbl.set 0 sr l (BitVec.ofNat 32 (srSeed seed l))) t.sr }
    else t)))

def vsetshImmV (imm : BitVec 24) : VOp := setVsh imm
def vsetshXV (xa : BitVec 3) : VOp := fun w s => do
  let x ← w.index xa
  need (x.toNat < 2 ^ 24)
  setVsh (x.setWidth 24) w s

def execVbr (p : BitVec 4) (cond : BitVec 2) (off : BitVec 18) (s : State) : Out := vecWord (vbrV p cond off) s
def execVjmp (off : BitVec 18) (s : State) : Out := vecWord (vjmpV off) s
def execVtstw (bit : BitVec 6) (off : BitVec 12) (s : State) : Out := vecWord (vtstwV bit off) s
def execVyield (s : State) : Out := vecWord vyieldV s
def execVnop (s : State) : Out := vecWord vnopV s
def execVexit (s : State) : Out := vecWord vexitV s
def execVwait (m : BitVec 9) (xb : BitVec 3) (s : State) : Out := vecWord (vwaitV m xb) s
def execVsetshImm (imm : BitVec 24) (s : State) : Out := vecWord (vsetshImmV imm) s
def execVsetshX (xa : BitVec 3) (s : State) : Out := vecWord (vsetshXV xa) s

end Sys2Proof.Machine
end

