-- ==== Sys2Proof/Machine/VecData.lean ====
section
/-!
DEFINITION. Sys2Proof/Machine/VecData.lean: moves, permutes, broadcasts, reductions and predicates (06 R133-R136, R141).
-/
namespace Sys2Proof.Machine

/-! ### Moves (R133) -/

/-- MOV copies bits; under FMT 0 it copies a pair. No flag is set. -/
def movV (p : BitVec 4) (d a : VReg) : VOp := fun w s => do
  let width := fmtWidth w.fmt
  let n := slotRegs width
  let rd ← w.reg d n
  let ra ← w.reg a n
  vdone (w.writeAs false p.toNat ⟨rd, width, 1⟩ (fun l _ => w.poisIn ra n l) (fun _ => false)
    (fun l k _ => (w.elem ra width k l, {})) s)

/-- MOVI writes one register, under f64 too: bit 0 governs it then. -/
def moviV (p : BitVec 4) (d : VReg) (imm : BitVec 32) : VOp := fun w s => do
  let rd ← w.reg d 1
  if w.fmt = 0 then vdone (w.writeWord p.toNat rd (fun _ => imm) (fun _ => false) s)
  else
    let width := fmtWidth w.fmt
    vdone (w.writeAs false p.toNat ⟨rd, width, 1⟩ (fun _ _ => false) (fun _ => false)
      (fun _ k _ => (imm.toNat / 2 ^ (width * k) % 2 ^ width, {})) s)

def movxV (p : BitVec 4) (d a : VReg) : VOp := fun w s => do
  let rd ← w.reg d 1
  let ra ← w.reg a 1
  vdone (w.writeWord p.toNat rd (fun l => w.rl ra l + BitVec.ofNat 32 l) (fun l => w.rp ra l) s)

/-- VGETX writes two registers; a poisoned index register poisons them (R112). -/
def vgetxV (p : BitVec 4) (d : VReg) (xa : BitVec 3) : VOp := fun w s => do
  let rd ← w.reg d 2
  let x := w.m.xr xa.toNat
  let bad := fun (_ : Nat) => w.m.xp xa.toNat
  let s1 := w.writeWord p.toNat rd (fun _ => x.setWidth 32) bad s
  vdone ({ w with co := s1.core w.core }.writeWord p.toNat (shiftReg rd 1) (fun _ => (x >>> 32).setWidth 32) bad s1)

/-- VSETX reads lane 0 of the issuing cluster; acting on its poisoned predicate consumes poison (24 R388). -/
def vsetxV (p : BitVec 4) (xd : BitVec 3) (a : VReg) : VOp := fun w s => do
  let ra ← w.reg a 2
  let l := 32 * w.rank
  if w.st.predPois p.toNat l then .error (.poison [])
  else if bitAt (w.st.pred p.toNat l) 0 then
    let v := w.rl (shiftReg ra 1) l ++ w.rl ra l
    vdone (s.modCore w.core (fun co => co.modStrand w.st.uid (fun t => t.modMember w.rank (fun m => m.setX xd.toNat v (w.poisIn ra 2 l)))))
  else vdone s

/-! ### Permutes and broadcasts (R134, R135) -/

/-- Lane l of cluster rank r as a strand lane. -/
def VCx.own (w : VCx) (i : Nat) : Nat := 32 * w.rank + i

def permV (p : BitVec 4) (d a b : VReg) : VOp := fun w s => do
  let rd ← w.reg d 1
  let ra ← w.reg a 1
  let rb ← w.reg b 1
  let src := fun l => w.own ((w.rl rb l).toNat % 32)
  vdone (w.writeWord p.toNat rd (fun l => w.rl ra (src l))
    (fun l => w.rp ra (src l) || w.rp rb l) s)

def bcastV (p : BitVec 4) (d a : VReg) (lane : BitVec 5) : VOp := fun w s => do
  let rd ← w.reg d 1
  let ra ← w.reg a 1
  let src := w.own lane.toNat
  vdone (w.writeWord p.toNat rd (fun _ => w.rl ra src) (fun _ => w.rp ra src) s)

/-- LSHIFT takes its amount, −32 to 31, from lane 0 of b. -/
def lshiftV (p : BitVec 4) (d a b : VReg) : VOp := fun w s => do
  let rd ← w.reg d 1
  let ra ← w.reg a 1
  let rb ← w.reg b 1
  let sh := ((w.rl rb (w.own 0)).setWidth 6).toInt
  let src := fun l => let i := ((l % 32 : Nat) : Int) - sh; if 0 ≤ i ∧ i ≤ 31 then some (w.own i.toNat) else none
  vdone (w.writeWord p.toNat rd (fun l => match src l with | some i => w.rl ra i | none => 0)
    (fun l => w.rp rb (w.own 0) || (match src l with | some i => w.rp ra i | none => false)) s)

/-- XPERM permutes across the strand (R135). -/
def xpermV (p : BitVec 4) (d a b : VReg) : VOp := fun w s => do
  need w.whole
  let rd ← w.reg d 1
  let ra ← w.reg a 1
  let rb ← w.reg b 1
  let n := 32 * w.st.c
  -- with one cluster it acts as PERM does
  let src := fun l => let i := (w.rl rb l).toNat % (if w.st.c = 1 then 32 else 128); if i < n then some i else none
  vdone (w.writeWord p.toNat rd (fun l => match src l with | some i => w.rl ra i | none => 0)
    (fun l => w.rp rb l || (match src l with | some i => w.rp ra i | none => false)) s)

/-! ### Reductions (R136; 03 R72) -/

/-- One level of the tree: pairs combine, a missing member passes the other up. -/
def treeLevel (g : Nat → Nat → Nat × Flags) : List (Option Nat) → List (Option Nat) × Flags
  | x :: y :: rest =>
    let (r, fl) := treeLevel g rest
    match x, y with
    | some a, some b => let (z, f) := g a b; (some z :: r, fl.or f)
    | some a, none => (some a :: r, fl)
    | none, b => (b :: r, fl)
  | xs => (xs, {})

/-- The fixed pairwise tree: the one value that remains, and the flags of all its combinations, of REDMAX too, whose inner combination of two NaNs
sets NANP though a number may win later (DESIGN CHOICE, log entry 98). The fuel is at least the number of levels. -/
def treeReduce (g : Nat → Nat → Nat × Flags) : Nat → List (Option Nat) → Option Nat × Flags
  | 0, xs => (xs.headD none, {})
  | n + 1, xs =>
    match xs with
    | [] => (none, {})
    | [x] => (x, {})
    | _ => let (ys, fl) := treeLevel g xs; let (z, f) := treeReduce g n ys; (z, fl.or f)

/-- The combination of REDSUM and SCAN, or of REDMAX, in a format (R136), with the flags of each: NANP wherever two NaNs meet in REDMAX (DESIGN
CHOICE, log entry 98). -/
def VCx.combine (w : VCx) (max : Bool) : Option (Nat → Nat → Nat × Flags) :=
  match fpFormat w.fmt, intFormat w.fmt with
  | some f, _ =>
    some (fun a b => if max then fMinMax f true a b
      else (fvAdd (w.mode == .rdn) (f.value a) (f.value b)).finish f w.mode w.sat 0)
  | none, some (k, sg) =>
    some (fun a b =>
      let x := intVal k sg a
      let y := intVal k sg b
      (intBits k (if max then (if x < y then y else x) else x + y), {}))
  | none, none => none

/-- Does element E of the strand take part: its lane active and its predicate bit set? -/
def VCx.takesPart (w : VCx) (p width e : Nat) : Bool :=
  let l := e / perSlot width
  w.active l && bitAt (w.st.pred p l) (e % perSlot width)

/-- REDSUM, REDMAX, SCAN: one result for every element, or element k's own over the elements up to k. -/
def reduceOp (p : BitVec 4) (d a : VReg) (max scan : Bool) : VOp := fun w s => do
  need (max || w.rnd != 4)
  let g ← have_ (w.combine max)
  need (w.whole && w.st.members.all (fun m => vshFmt m.vsh == w.fmt && vshRnd m.vsh == w.rnd))
  let width := fmtWidth w.fmt
  let rd ← w.reg d (slotRegs width)
  let ra ← w.reg a (slotRegs width)
  let e := perSlot width
  let n := 32 * w.st.c * e
  let part := w.takesPart p.toNat width
  let vals := (List.range n).map (fun k => if part k then some (w.elem ra width (k % e) (k / e)) else none)
  let upTo := fun k => treeReduce g n (vals.mapIdx (fun i v => if i ≤ k then v else none))
  let whole := treeReduce g n vals
  let bad := fun k => (List.range n).any (fun i => i ≤ k && part i && w.poisIn ra (slotRegs width) (i / e))
  let el := fun l k (_ : Nat) =>
    let r := if scan then upTo (l * e + k) else whole
    match fpFormat w.fmt with
    -- a lone NaN becomes the canonical NaN and sets NANP (DESIGN CHOICE, log entry 81)
    | some f => let (x, fl) := quietNan f (r.1.getD 0) (r.1.getD 0); (x, r.2.or fl)
    | none => (r.1.getD 0, r.2)
  -- an element's register is poisoned when one of its written elements combines a poisoned one
  let pois := fun l (_ : Nat) => (List.range e).any (fun k => part (l * e + k) && bad (if scan then l * e + k else n))
  vdone (w.write p.toNat ⟨rd, width, 1⟩ pois (fun _ => false) el s)

def redsumV (p : BitVec 4) (d a : VReg) : VOp := reduceOp p d a false false
def redmaxV (p : BitVec 4) (d a : VReg) : VOp := reduceOp p d a true false
def scanV (p : BitVec 4) (d a : VReg) : VOp := reduceOp p d a false true

/-! ### Predicates (R141) -/

def psetV (p pd : BitVec 4) (imm : BitVec 8) : VOp := fun w s =>
  vdone (w.writePred p.toNat pd.toNat 255 0 (fun _ => false) (fun _ => imm.toNat) s)

def predOp (p pd pa pb : BitVec 4) (g : Nat → Nat → Nat) : VOp := fun w s =>
  vdone (w.writePred p.toNat pd.toNat 255 0 (fun l => w.st.predPois pa.toNat l || w.st.predPois pb.toNat l)
    (fun l => g (w.st.pred pa.toNat l) (w.st.pred pb.toNat l)) s)

def pandV (p pd pa pb : BitVec 4) : VOp := predOp p pd pa pb (· &&& ·)
def porV (p pd pa pb : BitVec 4) : VOp := predOp p pd pa pb (· ||| ·)
def pxorV (p pd pa pb : BitVec 4) : VOp := predOp p pd pa pb (· ^^^ ·)
def pnotV (p pd pa : BitVec 4) : VOp := predOp p pd pa pa (fun x _ => 255 - x)

/-- Set bits j < e of a predicate over the active lanes of the issuing cluster. -/
def VCx.countPred (w : VCx) (pa : BitVec 4) : Nat :=
  ((upFrom (32 * w.rank) 32).map (fun l => if w.active l then
    ((List.range (perSlot (fmtWidth w.fmt))).filter (fun j => bitAt (w.st.pred pa.toNat l) j)).length else 0)).sum

/-- PANY and PCNT write one value to every active lane that bit 0 of P governs, poisoned when a lane that was read is. -/
def predCount (p : BitVec 4) (d : VReg) (pa : BitVec 4) (g : Nat → Nat) : VOp := fun w s => do
  let rd ← w.reg d 1
  let bad := (upFrom (32 * w.rank) 32).any (fun l => w.active l && w.st.predPois pa.toNat l)
  vdone (w.writeWord p.toNat rd (fun _ => BitVec.ofNat 32 (g (w.countPred pa))) (fun _ => bad) s)

def panyV (p : BitVec 4) (d : VReg) (pa : BitVec 4) : VOp := predCount p d pa (fun n => min n 1)
def pcntV (p : BitVec 4) (d : VReg) (pa : BitVec 4) : VOp := predCount p d pa (fun n => n)

def execMov (p : BitVec 4) (d a : VReg) (s : State) : Out := vecWord (movV p d a) s
def execMovi (p : BitVec 4) (d : VReg) (imm : BitVec 32) (s : State) : Out := vecWord (moviV p d imm) s
def execMovx (p : BitVec 4) (d a : VReg) (s : State) : Out := vecWord (movxV p d a) s
def execVgetx (p : BitVec 4) (d : VReg) (xa : BitVec 3) (s : State) : Out := vecWord (vgetxV p d xa) s
def execVsetx (p : BitVec 4) (xd : BitVec 3) (a : VReg) (s : State) : Out := vecWord (vsetxV p xd a) s
def execPerm (p : BitVec 4) (d a b : VReg) (s : State) : Out := vecWord (permV p d a b) s
def execXperm (p : BitVec 4) (d a b : VReg) (s : State) : Out := vecWord (xpermV p d a b) s
def execBcast (p : BitVec 4) (d a : VReg) (lane : BitVec 5) (s : State) : Out := vecWord (bcastV p d a lane) s
def execLshift (p : BitVec 4) (d a b : VReg) (s : State) : Out := vecWord (lshiftV p d a b) s
def execRedsum (p : BitVec 4) (d a : VReg) (s : State) : Out := vecWord (redsumV p d a) s
def execRedmax (p : BitVec 4) (d a : VReg) (s : State) : Out := vecWord (redmaxV p d a) s
def execScan (p : BitVec 4) (d a : VReg) (s : State) : Out := vecWord (scanV p d a) s
def execPset (p : BitVec 4) (pd : BitVec 4) (imm : BitVec 8) (s : State) : Out := vecWord (psetV p pd imm) s
def execPand (p : BitVec 4) (pd pa pb : BitVec 4) (s : State) : Out := vecWord (pandV p pd pa pb) s
def execPor (p : BitVec 4) (pd pa pb : BitVec 4) (s : State) : Out := vecWord (porV p pd pa pb) s
def execPxor (p : BitVec 4) (pd pa pb : BitVec 4) (s : State) : Out := vecWord (pxorV p pd pa pb) s
def execPnot (p : BitVec 4) (pd pa : BitVec 4) (s : State) : Out := vecWord (pnotV p pd pa) s
def execPany (p : BitVec 4) (d : VReg) (pa : BitVec 4) (s : State) : Out := vecWord (panyV p d pa) s
def execPcnt (p : BitVec 4) (d : VReg) (pa : BitVec 4) (s : State) : Out := vecWord (pcntV p d pa) s

end Sys2Proof.Machine
end

