-- ==== Sys2Proof/Machine/VecMem.lean ====
section
/-!
DEFINITION. Sys2Proof/Machine/VecMem.lean: loads and stores of strands, with the full/empty forms (06 R137-R140; 12 R238, R239).
-/
namespace Sys2Proof.Machine

/-- The command of a strand. -/
def Core.command (co : Core) (uid : Nat) : Option Cmd := (Tbl.get ({} : Queue) co.queues 0).cmds.find? (fun k => k.uid == uid)
/-- The task of a strand (15 R288). -/
def VCx.task (w : VCx) : Option TaskId := (w.co.command w.st.uid).bind (·.task)

/-- The lanes of the cluster that access memory: active, bit 0 of the governing predicate set. Acting on a poisoned predicate consumes
poison (24 R388). -/
def VCx.accessing (w : VCx) (p : Nat) : Except VTrap (List Nat) :=
  let ls := w.lanes.filter w.active
  if ls.any (fun l => w.st.predPois p l) then .error (.poison [])
  else .ok (ls.filter (fun l => bitAt (w.st.pred p l) 0))

/-- One lane's access: the lane, its address, its place. -/
structure LaneAcc where
  lane : Nat
  va : Nat
  place : Place

/-- The checks of R138 in order, for every accessing lane; `shadow` chooses the frame, `lines` asks for full/empty bits. -/
def VCx.checkLanes (w : VCx) (s : State) (shadow lines : Bool) (addr : Nat → BitVec 64) (ls : List Nat) :
    Except VTrap (List LaneAcc) :=
  let x := s.ctx (s.ctxOf w.core)
  let accs := ls.map (fun l => (l, (addr l).toNat, x.place shadow (addr l).toNat))
  match accs.find? (fun a => a.2.2.isNone) with
  | some a => .error (.fatal a.2.1)
  | none =>
    match accs.find? (fun a => a.2.1 % 4 != 0) with
    | some a => .error (.align a.2.1)
    | none =>
      let rs := accs.filterMap (fun a => a.2.2.map (fun p => LaneAcc.mk a.1 a.2.1 p))
      match (if lines then rs.find? (fun a => !isSram a.place.key) else none) with
      | some a => .error (.prog a.va)
      | none => .ok rs

/-- The lines that accesses touch (R140). -/
def touchedLines (rs : List LaneAcc) : List Nat := (rs.map (fun a => lineOf a.place.key)).eraseDups

/-- The lines of a waiting word, in arrival order: a member or a matrix step waits with its ticket (R140, 07 R162). A stopped queue
waits for nothing (04 R404). -/
def State.fullWaits (s : State) : List (Nat × List Nat) :=
  (s.cores.map (fun e =>
    (e.2.vec.strands.map (fun t => t.members.filterMap (fun m => match m.wait with
      | .full ls k _ => some (k, ls) | _ => none))).flatten ++
    (((e.2.queues.filter (fun q => !q.2.stop && !q.2.pre)).map (fun q => q.2.cmds.filterMap (fun k => k.want.map (fun w => (w.2, w.1))))).flatten))).flatten

/-- Are the lines full, and does no earlier waiter stand before them (R140, 10 R223)? -/
def State.linesReady (s : State) (ls : List Nat) (ticket : Option Nat) : Bool :=
  ls.all (fun l => s.ms.isFull l) &&
    s.fullWaits.all (fun w => !(match ticket with | some t => decide (w.1 < t) | none => true) || !w.2.any ls.contains)

/-- The agent of a vector word. -/
def VCx.agent (w : VCx) : Agent := .cluster w.core w.st.uid w.rank

/-- Load the lanes at one point (R138, R139): the register's result is pending until the data return, with the bytes and their lines' poison
(10 R217). -/
def State.loadLanes (s : State) (w : VCx) (rd : LReg) (rs : List LaneAcc) : State :=
  let (bs, s) := s.readMany w.agent w.st.acq (rs.map (fun a => (a.place, 4)))
  let vals := (rs.zip bs).map (fun e =>
    (w.st.regKey (rd e.1.lane) e.1.lane, BitVec.ofNat 32 (leNat e.2), s.ms.poisoned e.1.place))
  if vals.isEmpty then s
  else ({ s with uid := s.uid + 1 } : State).modCore w.core (fun co => { co with vec := { co.vec with
    pend := co.vec.pend ++ [⟨s.uid + 1, w.st.uid, w.rank, rd (32 * w.rank), vals⟩] } })

/-- The full/empty work of a load (R140): acquire the writes that filled its lines; .fe empties them in the same step. -/
def State.takeLines (s : State) (a : Agent) (mode : LoadMode) (ls : List Nat) : State :=
  match mode with
  | .plain => s
  | m =>
    let s := ls.foldl (fun (s : State) l => s.acquireLines a (Tbl.get [] s.ms.fullBy l) [l]) s
    if m = .fe then { s with ms := ls.foldl (fun (ms : MemSys) l => ms.setFull l false []) s.ms } else s

/-- Has the cluster of a word a store under way that will mark one of the lines full? What empties a line stands after it (R140). -/
def VCx.filling (w : VCx) (ls : List Nat) : Bool :=
  (Tbl.get [] w.co.vec.stores w.m.cluster).any (fun p => p.sf && p.lines.any ls.contains)

/-- Does an access of the word wait for a store of its cluster that has no place in the global order yet (13 R252; log entry 6), or for a lane
repair (22 R368)? A load that the pending stores cover does not (R139). -/
def VCx.behind (w : VCx) (s : State) (rs : List LaneAcc) : Bool :=
  (s.unplaced w.agent || rs.any (fun a => s.ms.pausedIn a.place 4)) && !rs.all (fun a => s.coveredBy w.agent a.place 4)

/-- A load word: its index registers, its lane addresses and the lanes whose offsets are poisoned (R137, R138). `base` is the address that a
modifier wants at a multiple of 128. -/
def loadLanesOp (p : BitVec 4) (mode : LoadMode) (d : VReg) (addr : VCx → Except VTrap (Nat → BitVec 64))
    (offPois : VCx → Nat → Bool) (base : VCx → Option (BitVec 64)) (ticket : Option Nat) : VOp := fun w s => do
  let rd ← w.reg d 1
  let f ← addr w
  let ls ← w.accessing p.toNat
  if ls.any (offPois w) then .error (.poison [])
  else
    let rs ← w.checkLanes s false false f ls
    if mode ≠ .plain then
      match base w with
      | some b => if b.toNat % 128 ≠ 0 ∧ rs ≠ [] then .error (.align ((rs.map (·.va)).headD b.toNat)) else .ok ()
      | none => .ok ()
      let _ ← w.checkLanes s false true f ls
    let lines := touchedLines rs
    if (mode = .fe && w.filling lines) || w.behind s rs then .error .stall
    else if mode = .plain || s.linesReady lines ticket then vdone ((s.takeLines w.agent mode lines).loadLanes w rd rs)
    else
      let n := s.uid + 1
      .ok ({ s with uid := n }, .wait (.full lines (ticket.getD n) (w.synced && w.st.c != 1)))

/-- The lane addresses of the three forms (R137). -/
def vldAddr (xa : BitVec 3) (disp : BitVec 30) (w : VCx) : Except VTrap (Nat → BitVec 64) := do
  let b ← w.index xa
  .ok (fun l => b + 128 * disp.signExtend 64 + BitVec.ofNat 64 (4 * l))
def vldsAddr (xa xb : BitVec 3) (w : VCx) : Except VTrap (Nat → BitVec 64) := do
  let b ← w.index xa
  let st ← w.index xb
  .ok (fun l => b + BitVec.ofNat 64 l * st)
def vldxAddr (xa : BitVec 3) (b : VReg) (w : VCx) : Except VTrap (Nat → BitVec 64) := do
  let rb ← w.reg b 1
  let x ← w.index xa
  .ok (fun l => x + (w.rl rb l).signExtend 64)
/-- Poisoned offset lanes of VLDX and VSTX. -/
def offsetPois (b : VReg) (w : VCx) (l : Nat) : Bool :=
  match w.reg b 1 with | .ok rb => w.rp rb l | .error _ => false

def noPois (_ : VCx) (_ : Nat) : Bool := false
def vldBase (xa : BitVec 3) (disp : BitVec 30) (w : VCx) : Option (BitVec 64) := some (w.m.xr xa.toNat + 128 * disp.signExtend 64)
def noBase (_ : VCx) : Option (BitVec 64) := none

def vldV (p : BitVec 4) (mode : LoadMode) (d : VReg) (xa : BitVec 3) (disp : BitVec 30) (ticket : Option Nat) : VOp :=
  loadLanesOp p mode d (vldAddr xa disp) noPois (vldBase xa disp) ticket
def vldsV (p : BitVec 4) (mode : LoadMode) (d : VReg) (xa xb : BitVec 3) (ticket : Option Nat) : VOp :=
  loadLanesOp p mode d (vldsAddr xa xb) noPois noBase ticket
def vldxV (p : BitVec 4) (mode : LoadMode) (d : VReg) (xa : BitVec 3) (b : VReg) (ticket : Option Nat) : VOp :=
  loadLanesOp p mode d (vldxAddr xa b) (offsetPois b) noBase ticket

/-- A store word (R138-R140): every accessing lane stores its register to the shadow frame inside a task; a lane's later store of one word
stands over an earlier one. At most 8 stores of a cluster are pending. -/
def storeLanesOp (p : BitVec 4) (mode : StoreMode) (d : VReg) (addr : VCx → Except VTrap (Nat → BitVec 64))
    (offPois : VCx → Nat → Bool) (base : VCx → Option (BitVec 64)) : VOp := fun w s => do
  let rd ← w.reg d 1
  let pend := Tbl.get [] w.co.vec.stores w.m.cluster
  if Config.storeDepth ≤ pend.length then .error .stall
  else
    let f ← addr w
    let ls ← w.accessing p.toNat
    if ls.any (fun l => offPois w l || w.rp rd l) then .error (.poison [])
    else
      let shadow := w.task.isSome
      let rs ← w.checkLanes s shadow false f ls
      if mode = .sf then
        match base w with
        | some b => if b.toNat % 128 ≠ 0 ∧ rs ≠ [] then .error (.align ((rs.map (·.va)).headD b.toNat)) else .ok ()
        | none => .ok ()
        let _ ← w.checkLanes s shadow true f ls
      -- a flip region marked by another task refuses the word (15 R288)
      let xn := s.ctxOf w.core
      let x ← rs.foldl (fun (acc : Except VTrap Ctx) a => do
        let x ← acc
        match w.task with
        | some t => match (if x.flipOf a.va = 0 then some x else x.markFlip (x.flipOf a.va) t) with
          | some x' => .ok x'
          | none => .error (.prog a.va)
        | none => .ok x) (.ok (s.ctx xn))
      let s := s.setCtx xn x
      let writes := rs.map (fun a => (a.place, leBytes (w.rl rd a.lane).toNat 4))
      -- they stand after the engine writes that the command acquired (08 R190)
      let units := (rs.map (fun a => unitsOf a.place.key 4)).flatten
      let s := s.acquireWhere w.agent (fun e => w.st.acq.contains e.uid && units.contains (e.place.key / 8))
      let st : PendingStore :=
        ⟨touchedLines rs, rs.any (fun a => isRemote a.place.key), mode == .sf, w.st.uid, w.rank, 0, writes, false, false⟩
      if rs.isEmpty then vdone s else vdone (s.addStore (.cluster w.core w.m.cluster) st)

def vstV (p : BitVec 4) (mode : StoreMode) (d : VReg) (xa : BitVec 3) (disp : BitVec 30) : VOp :=
  storeLanesOp p mode d (vldAddr xa disp) noPois (vldBase xa disp)
def vstsV (p : BitVec 4) (mode : StoreMode) (d : VReg) (xa xb : BitVec 3) : VOp :=
  storeLanesOp p mode d (vldsAddr xa xb) noPois noBase
def vstxV (p : BitVec 4) (mode : StoreMode) (d : VReg) (xa : BitVec 3) (b : VReg) : VOp :=
  storeLanesOp p mode d (vldxAddr xa b) (offsetPois b) noBase

/-- VSTM (R137, R140): the cluster's line becomes empty. The line is the shadow frame's inside a task, as for every store. -/
def vstmV (p : BitVec 4) (xa : BitVec 3) (disp : BitVec 6) : VOp := fun w s => do
  let b ← w.index xa
  let l := 32 * w.rank
  if w.st.predPois p.toNat l then .error (.poison [])
  else if bitAt (w.st.pred p.toNat l) 0 then
    let va := b + 128 * disp.signExtend 64 + BitVec.ofNat 64 (128 * w.rank)
    match (s.ctx (s.ctxOf w.core)).place w.task.isSome va.toNat with
    | none => .error (.fatal va.toNat)
    | some pl =>
      if isSram pl.key = false then .error (.prog va.toNat)
      else if w.filling [lineOf pl.key] || s.unplaced w.agent then .error .stall
      else vdone { s with ms := s.ms.setFull (lineOf pl.key) false [] }
  else vdone s

/-- LOAD_DATA_RETURN: the data of a load come back: the register of the sequencer takes its value and poison (04 R76, R78), that of a member of
a strand what its lanes loaded (10 R217). -/
def execLoadDataReturn (dst : LoadDst) (s : State) : Out :=
  eventStep s (fun s => match dst with
    | .seq c d => s.modCore c (fun co => co.arrive d true)
    | .cluster c uid r reg => s.modCore c (fun co => co.landLoads (fun l => l.strand == uid && l.rank == r && l.reg == reg)))

def execVld (p : BitVec 4) (mode : LoadMode) (d : VReg) (xa : BitVec 3) (disp : BitVec 30) (s : State) : Out :=
  vecWord (vldV p mode d xa disp none) s
def execVst (p : BitVec 4) (mode : StoreMode) (d : VReg) (xa : BitVec 3) (disp : BitVec 30) (s : State) : Out :=
  vecWord (vstV p mode d xa disp) s
def execVlds (p : BitVec 4) (mode : LoadMode) (d : VReg) (xa xb : BitVec 3) (s : State) : Out := vecWord (vldsV p mode d xa xb none) s
def execVsts (p : BitVec 4) (mode : StoreMode) (d : VReg) (xa xb : BitVec 3) (s : State) : Out := vecWord (vstsV p mode d xa xb) s
def execVldx (p : BitVec 4) (mode : LoadMode) (d : VReg) (xa : BitVec 3) (b : VReg) (s : State) : Out :=
  vecWord (vldxV p mode d xa b none) s
def execVstx (p : BitVec 4) (mode : StoreMode) (d : VReg) (xa : BitVec 3) (b : VReg) (s : State) : Out := vecWord (vstxV p mode d xa b) s
def execVstm (p : BitVec 4) (xa : BitVec 3) (disp : BitVec 6) (s : State) : Out := vecWord (vstmV p xa disp) s

end Sys2Proof.Machine
end

