-- ==== Sys2Proof/Machine/VecUnit.lean ====
section
/-!
DEFINITION. Sys2Proof/Machine/VecUnit.lean: bundles and their prefixes (02 R50-R53), synced bundles (06 R144), and what releases a waiting
member cluster (06 R140, R147; 10 R219, R222).
-/
namespace Sys2Proof.Machine

/-- The meaning of a vector word by its instruction; `t` is the ticket of a full/empty wait under way. -/
def vecOp (t : Option Nat) : Instr → Option VOp
  | .fadd p d a b => some (faddV p d a b)
  | .fsub p d a b => some (fsubV p d a b)
  | .fmul p d a b => some (fmulV p d a b)
  | .fma p d a b => some (fmaV p d a b)
  | .fms p d a b => some (fmsV p d a b)
  | .fnma p d a b => some (fnmaV p d a b)
  | .fmin p d a b => some (fminV p d a b)
  | .fmax p d a b => some (fmaxV p d a b)
  | .fabs p d a => some (fabsV p d a)
  | .fneg p d a => some (fnegV p d a)
  | .fcmpSet1 p cc pd a b => some (fcmpSet1V p cc pd a b)
  | .fcmpSet2 p cc pd a b => some (fcmpSet2V p cc pd a b)
  | .frcp p d a => some (frcpV p d a)
  | .frsq p d a => some (frsqV p d a)
  | .fsqrt p d a => some (fsqrtV p d a)
  | .fdiv p d a b => some (fdivV p d a b)
  | .fexp2 p d a => some (fexp2V p d a)
  | .flog2 p d a => some (flog2V p d a)
  | .fclass p d a => some (fclassV p d a)
  | .iadd p d a b => some (iaddV p d a b)
  | .iadds p d a b => some (iaddsV p d a b)
  | .isub p d a b => some (isubV p d a b)
  | .imul p d a b => some (imulV p d a b)
  | .imulh p d a b => some (imulhV p d a b)
  | .imad p d a b => some (imadV p d a b)
  | .imin p d a b => some (iminV p d a b)
  | .imax p d a b => some (imaxV p d a b)
  | .iabs p d a => some (iabsV p d a)
  | .iand p d a b => some (iandV p d a b)
  | .ior p d a b => some (iorV p d a b)
  | .ixor p d a b => some (ixorV p d a b)
  | .inot p d a => some (inotV p d a)
  | .ishl p d a b => some (ishlV p d a b)
  | .ishr p d a b => some (ishrV p d a b)
  | .isar p d a b => some (isarV p d a b)
  | .icmpSet1 p cc pd a b => some (icmpSet1V p cc pd a b)
  | .icmpSet2 p cc pd a b => some (icmpSet2V p cc pd a b)
  | .cvt p d a fmt => some (cvtV p d a fmt)
  | .cvtsr p d a fmt => some (cvtsrV p d a fmt)
  | .bamax p d a => some (bamaxV p d a)
  | .bscale p d a b => some (bscaleV p d a b)
  | .qnt p d a fmt => some (qntV p d a fmt)
  | .dqnt p d a fmt => some (dqntV p d a fmt)
  | .pack p d a fmt => some (packV p d a fmt)
  | .unpack p d a fmt => some (unpackV p d a fmt)
  | .mov p d a => some (movV p d a)
  | .movi p d imm => some (moviV p d imm)
  | .movx p d a => some (movxV p d a)
  | .vgetx p d xa => some (vgetxV p d xa)
  | .vsetx p xd a => some (vsetxV p xd a)
  | .perm p d a b => some (permV p d a b)
  | .xperm p d a b => some (xpermV p d a b)
  | .bcast p d a lane => some (bcastV p d a lane)
  | .lshift p d a b => some (lshiftV p d a b)
  | .redsum p d a => some (redsumV p d a)
  | .redmax p d a => some (redmaxV p d a)
  | .scan p d a => some (scanV p d a)
  | .vld p mode d xa disp => some (vldV p mode d xa disp t)
  | .vst p mode d xa disp => some (vstV p mode d xa disp)
  | .vlds p mode d xa xb => some (vldsV p mode d xa xb t)
  | .vsts p mode d xa xb => some (vstsV p mode d xa xb)
  | .vldx p mode d xa b => some (vldxV p mode d xa b t)
  | .vstx p mode d xa b => some (vstxV p mode d xa b)
  | .vstm p xa disp => some (vstmV p xa disp)
  | .vtstw bit off => some (vtstwV bit off)
  | .pset p pd imm => some (psetV p pd imm)
  | .pand p pd pa pb => some (pandV p pd pa pb)
  | .por p pd pa pb => some (porV p pd pa pb)
  | .pxor p pd pa pb => some (pxorV p pd pa pb)
  | .pnot p pd pa => some (pnotV p pd pa)
  | .pany p d pa => some (panyV p d pa)
  | .pcnt p d pa => some (pcntV p d pa)
  | .vbr p cond off => some (vbrV p cond off)
  | .vjmp off => some (vjmpV off)
  | .vyield => some (vyieldV)
  | .vexit => some (vexitV)
  | .vwait m xb => some (vwaitV m xb)
  | .vsetshImm imm => some (vsetshImmV imm)
  | .vsetshX xa => some (vsetshXV xa)
  | .vnop => some (vnopV)
  | _ => none

/-! ### Bundles -/

/-- Word k of a bundle (R50). -/
def bundleWord (b k : Nat) : Nat := b / 2 ^ (32 * k) % 2 ^ 32
/-- Has a word the opcode of a prefix (R51)? -/
def isPrefix (w : Nat) : Bool := w / 2 ^ 24 % 128 == 0x7F
/-- The kind bit of a prefix, or the sync bit of a word. -/
def topBit (w : Nat) : Bool := bitAt w 31

/-- A bundle with its prefix bundles. -/
structure VUnit where
  pfx : List Nat
  bundle : Nat
  deriving DecidableEq, Repr

def VUnit.len (u : VUnit) : Nat := 16 * (u.pfx.length + 1)
/-- The sync bit (R50): equal in the four words. -/
def VUnit.sync (u : VUnit) : Bool := topBit (bundleWord u.bundle 0)

/-- The prefixes that stand before cluster k's word; none where one of them is malformed (R51, R52). A null prefix adds nothing. -/
def prefixesOf (k : Nat) : List Nat → Option (Option HighFields × Option (BitVec 24))
  | [] => some (none, none)
  | b :: bs =>
    match prefixesOf k bs, decodeVec none none (bundleWord b k) with
    | some (pr, pi), some (.vpfxr e dh ah bh) =>
      if e then some (some ⟨dh, ah, bh⟩, pi) else if dh = 0 ∧ ah = 0 ∧ bh = 0 then some (pr, pi) else none
    | some (pr, _), some (.vpfxi imm) => some (pr, some imm)
    | _, _ => none

/-- The instruction of cluster k's word with its prefixes. -/
def VUnit.instr (u : VUnit) (k : Nat) : Option Instr :=
  (prefixesOf k u.pfx).bind (fun p => (decodeVec p.1 p.2 (bundleWord u.bundle k)).filter Instr.wf)

/-- The 16 bytes at an address of a strand's code. A body fetch of its command is an engine access (13 R256): it sees the stores that the command
must see, and the engine writes that it has acquired. -/
def State.fetchBundle (s : State) (c uid va : Nat) : Fetched :=
  match (s.core c).command uid with
  | none => s.fetch (s.ctxOf c) va 16
  | some k =>
    match s.engRead k (s.ctxOf c) va 16 with
    | .ok (bs, s1) =>
      if anyBad bs then .poisoned (s.poisonKeys (s.ctxOf c) va bs)
      else .bytes (leNat (pbytes bs)) s1
    | .error e => if e.waitsChannel then .later else .absent

/-- What a cluster finds at its slot PC. -/
inductive UnitFetch where
  | unit (u : VUnit) (s : State)
  | bad (e : VTrap)

/-- Read a unit at an address: prefix bundles, whose four words all have OP 0x7F and whose kinds differ from those before, then a bundle
whose S bits are equal (R50, R51). At most two prefix bundles stand before one bundle. A bundle whose S bits differ traps at its own address
(R50); two prefix bundles of one kind, and a mixed bundle after a prefix bundle, trap at the first prefix bundle (DESIGN CHOICE, log entry 78). -/
def State.unitAt (s : State) (c uid va : Nat) (pfx : List Nat) : Nat → UnitFetch
  | 0 => .bad .illegal
  | fuel + 1 =>
    match s.fetchBundle c uid va with
    | .absent => .bad (.fatal va)
    | .poisoned pages => .bad (.poison pages)
    | .later => .bad .stall
    | .bytes b s1 =>
      let ws := (List.range 4).map (bundleWord b)
      if ws.any isPrefix then
        if ws.all isPrefix && pfx.all (fun p => (List.range 4).all (fun k => topBit (bundleWord p k) != topBit (bundleWord b k))) then
          s1.unitAt c uid (va + 16) (pfx ++ [b]) fuel
        else .bad .illegal
      else if ws.all (fun w => topBit w == topBit (ws.headD 0)) then .unit ⟨pfx, b⟩ s1
      else .bad (.badSync (BitVec.ofNat 56 va))

/-- The unit at a member's slot PC; a slot PC that leaves the table is a fatal context error, a poisoned line consumes poison (24 R388). -/
def State.unitOf (s : State) (c uid : Nat) (pc : BitVec 56) : Except VTrap (VUnit × State) :=
  match s.unitAt c uid pc.toNat [] 3 with
  | .unit u s1 => .ok (u, s1)
  | .bad e => .error e

/-- Run cluster words: the word of one member, or the same word of all (R123, R135, R136, R143). -/
def VCx.run (w : VCx) (t : Option Nat) (i : Option Instr) (s : State) : Except VTrap (State × VStep) :=
  match i.bind (vecOp t) with
  | some op => op w s
  | none => .error .illegal

/-- The words that act over every member cluster when all of them issue the same (R123, R135, R136, R143). -/
def crossWord : Instr → Bool
  | .bamax _ _ _ | .bscale _ _ _ _ | .qnt _ _ _ _ | .dqnt _ _ _ _ | .xperm _ _ _ _ | .redsum _ _ _ | .redmax _ _ _ | .scan _ _ _ => true
  | .vbr _ _ _ => true
  | _ => false

/-! ### A member's turn -/

/-- Is the unit a synced bundle that the members of a strand wait at (R144)? One whose member words are all VEXIT is an exit, not a bundle to wait
at. -/
def VUnit.joins (u : VUnit) (t : Strand) : Bool :=
  u.sync && t.c != 1 && !t.members.all (fun m => u.instr m.cluster == some .vexit)

/-- A member whose slot PC reaches a synced bundle waits there (R144). That is no issue. -/
def State.arrive (s : State) (c uid r : Nat) : State :=
  match s.vcx c uid r 16 false false with
  | none => s
  | some w =>
    if w.co.vecLive && w.st.runs && w.m.wait == .run then
      match s.unitOf c uid w.m.pc with
      | .ok (u, s1) =>
        if u.joins w.st then
          (s1.modCore c (fun co => co.modStrand uid (fun t => t.modMember r (fun m => { m with wait := .join m.pc })))).checkSync c uid r
        else s
      | .error _ => s
    else s

/-- The members of a synced bundle whose VWAIT is released go on together, once none of its members waits or has to execute again (R147). A member
whose own word is no VWAIT went on when that word issued (DESIGN CHOICE, log entry 56). -/
def Strand.completeJoint (t : Strand) : Strand :=
  if t.members.any (fun m => match m.wait with | .sem _ _ false true _ => true | .full _ _ true => true | .again => true | _ => false) then t
  else { t with members := t.members.map (fun m => match m.wait with
    | .sem _ _ true true next => { m with wait := .run, pc := next }
    | _ => m) }

def State.completeJoint (s : State) (c uid : Nat) : State := s.modCore c (fun co => co.modStrand uid Strand.completeJoint)

/-- The unit at a member's slot PC issues alone; none where it does not: the member waits, it stands at a synced bundle, or its word stalls (10
R216). A member whose wait in a synced bundle was ended executes its word again (04 R404). -/
def State.tryUnit (s : State) (c uid r : Nat) : Option State :=
  match s.vcx c uid r 16 false false with
  | none => none
  | some w =>
    if w.co.vecLive && w.st.runs && w.m.free then
      match s.unitOf c uid w.m.pc with
      | .error .stall => none
      | .error e => some (s.vecTrap c uid r e)
      | .ok (u, s1) =>
        let again := w.m.wait == .again
        if u.joins w.st && !again then none
        else
          match s1.vcx c uid r u.len false again with
          | none => none
          | some w1 =>
            match w1.run none (u.instr w1.m.cluster) s1 with
            | .error .stall => none
            | x => some (if again then (s1.vecFinish w1 x).completeJoint c uid else s1.vecFinish w1 x)
    else none

/-- The unit at a member's slot PC issues, or the member waits at a synced bundle (R144). -/
def State.issueUnit (s : State) (c uid r : Nat) : State := (s.tryUnit c uid r).getD (s.arrive c uid r)

/-- VPFXR and VPFXI (R51-R53): a prefix issues with the bundle it prefixes. -/
def prefixWord (s : State) : Out :=
  match s.who with
  | .cluster c uid r => .next (s.issueUnit c uid r)
  | _ => .fault .wrongAgent

/-- A prefix that the memory at the slot PC does not hold, given as an instruction of its own, is illegal: R51 wants four of them. -/
def prefixExec (own : Nat) (s : State) : Out :=
  match s.who with
  | .cluster c uid r =>
    match s.vcx c uid r 16 false false with
    | some w =>
      if w.co.vecLive && w.st.runs && w.m.wait == .run then
        match s.fetchBundle c uid w.m.pc.toNat with
        | .later => .next s
        | .bytes b _ =>
          if bundleWord b w.m.cluster = own then prefixWord s else .next (s.vecTrap c uid r .illegal)
        | .absent => .next (s.vecTrap c uid r (.fatal w.m.pc.toNat))
        | .poisoned pages => .next (s.vecTrap c uid r (.poison pages))
      else .next s
    | none => .next s
  | _ => .fault .wrongAgent

def execVpfxr (e : Bool) (dh ah bh : BitVec 4) (s : State) : Out :=
  prefixExec (2 ^ 31 + 0x7F * 2 ^ 24 + e.toNat * 2 ^ 23 + dh.toNat * 2 ^ 8 + ah.toNat * 2 ^ 4 + bh.toNat) s
def execVpfxi (imm : BitVec 24) (s : State) : Out := prefixExec (0x7F * 2 ^ 24 + imm.toNat) s

/-! ### Synced bundles -/

/-- The words of the members named, in ascending rank, so that their accesses take consecutive points (R139, R144); VTSTW reads the status of the
words before the bundle (R143). When one traps or stalls, none of them issues (02 R56). Answers which of them wait for full lines. -/
def State.runMembers (s : State) (c uid : Nat) (u : VUnit) (status : BitVec 64) :
    List Nat → Except (Nat × VTrap) (State × List Nat)
  | [] => .ok (s, [])
  | r :: rs =>
    match s.vcx c uid r u.len false true with
    | none => .ok (s, [])
    | some w =>
      let ticket := match w.m.wait with | .full _ k _ => some k | _ => none
      match { w with st := { w.st with status := status } }.run ticket (u.instr w.m.cluster) s with
      | .error e => .error (r, e)
      | .ok (s1, v) =>
        match (s1.memberStep w v).runMembers c uid u status rs with
        | .error e => .error e
        | .ok (s2, ws) => .ok (s2, match v with | .wait (.full _ _ _) => r :: ws | _ => ws)

/-- The lines that a load word touches (R140); none for any other word. -/
def VCx.loadLines (w : VCx) (s : State) (i : Instr) : List Nat :=
  let lines := fun (p : BitVec 4) (addr : VCx → Except VTrap (Nat → BitVec 64)) =>
    match (do let f ← addr w; let ls ← w.accessing p.toNat; w.checkLanes s false false f ls : Except VTrap (List LaneAcc)) with
    | .ok rs => touchedLines rs
    | .error _ => []
  match i with
  | .vld p _ _ xa disp => lines p (vldAddr xa disp)
  | .vlds p _ _ xa xb => lines p (vldsAddr xa xb)
  | .vldx p _ _ xa b => lines p (vldxAddr xa b)
  | _ => []

/-- The lines that a word waits for before it has its effect (R140). -/
def VCx.awaited (w : VCx) (s : State) (i : Option Instr) : List Nat :=
  match i with
  | some (.vld p mode d xa disp) => if mode = .plain then [] else w.loadLines s (.vld p mode d xa disp)
  | some (.vlds p mode d xa xb) => if mode = .plain then [] else w.loadLines s (.vlds p mode d xa xb)
  | some (.vldx p mode d xa b) => if mode = .plain then [] else w.loadLines s (.vldx p mode d xa b)
  | _ => []

/-- A synced bundle begins to wait for full lines: its accesses take consecutive points (R139), so none of its words has an effect before all of
their lines are full. Every member waits under one ticket, in its place among the waiters of each of its lines (R140); a VWAIT begins its own wait
(R147; DEDUCED, log entry 56). -/
def State.beginWaits (s : State) (c uid ticket : Nat) (u : VUnit) (ranks : List Nat) : State :=
  ranks.foldl (fun s r => match s.vcx c uid r u.len false true with
    | some w =>
      match u.instr w.m.cluster with
      | some (.vwait m xb) => (match vwaitV m xb w s with | .ok (s1, v) => s1.memberStep w v | .error _ => s)
      | i => s.memberStep w (.wait (.full (w.awaited s i) ticket true))
    | none => s) s

/-- The scheduled latency of a load word (10 R222): that of a near slice (06 R149). -/
def VCx.loadCycles (w : VCx) (s : State) (i : Instr) : Nat :=
  match i with
  | .vlds _ _ _ _ _ | .vldx _ _ _ _ _ => 9 + (w.loadLines s i).length
  | _ => 10

/-- The loads that a synced bundle has made since `s0` are due when the virtual cycle counter has counted their latencies (10 R222). -/
def State.scheduleLoads (s s0 : State) (c uid : Nat) (u : VUnit) : State :=
  let new := (s.core c).vec.pend.drop (s0.core c).vec.pend.length
  s.modCore c (fun co => { co with vec := { co.vec with
    syncLoads := co.vec.syncLoads ++ new.filterMap (fun l =>
      match s0.vcx c uid l.rank u.len false true with
      | some w => (u.instr w.m.cluster).map (fun i => ⟨uid, l.id, (s0.core c).vec.vcc + w.loadCycles s0 i⟩)
      | none => none) } })

/-- Are data of a load of a synced bundle not usable yet (10 R222)? -/
def VecUnit.late (v : VecUnit) (l : SyncLoad) : Bool := v.pend.any (fun p => p.id == l.load)
/-- Is the virtual cycle counter paused (10 R222)? -/
def VecUnit.vccPaused (v : VecUnit) : Bool := v.syncLoads.any (fun l => decide (l.due ≤ v.vcc) && v.late l)
/-- n cycles pass: the counter goes on up to the first load that is late (10 R222). -/
def VecUnit.vccOn (v : VecUnit) (n : Nat) : VecUnit :=
  { v with vcc := max v.vcc ((v.syncLoads.filter v.late).foldl (fun m l => min m l.due) (v.vcc + n)) }

/-- The bundle that every member waits at (R144). -/
def Strand.joinPc (t : Strand) : Option (BitVec 56) :=
  match t.members with
  | m :: _ => if t.members.all (fun n => n.wait == .join m.pc) then some m.pc else none
  | [] => none

/-- Every member of a strand goes on from one word that they issued together. -/
def State.stepAll (s : State) (c uid len : Nat) (v : VStep) (n : Nat) : State :=
  (List.range n).foldl (fun s r => match s.vcx c uid r len true true with
    | some w => s.memberStep w v
    | none => s) s

/-- The synced bundle that every member of a strand waits at issues; none where it does not (R144; 10 R216, R222). -/
def State.tryBundle (s : State) (c uid : Nat) : Option State :=
  let co := s.core c
  match co.strand uid with
  | none => none
  | some t =>
    match t.joinPc with
    | none => none
    | some pc =>
      if co.vecLive && t.runs && !co.vec.vccPaused then
        match s.unitOf c uid pc with
        | .error .stall => none
        | .error e => some (s.vecTrap c uid 0 e)
        | .ok (u, s1) =>
          let is := t.members.map (fun m => u.instr m.cluster)
          match (if is.all (fun i => i == is.headD none) then (is.headD none).filter crossWord else none) with
          | some i =>
            match s1.vcx c uid 0 u.len true true with
            | none => none
            | some w =>
              match w.run none (some i) s1 with
              | .ok (s2, v) => some ((s2.stepAll c uid u.len v t.c).checkSync c uid 0)
              | .error .stall => none
              | .error e => some (s1.vecTrap c uid 0 e)
          | none =>
            match s1.runMembers c uid u t.status (List.range t.c) with
            | .error (_, .stall) => none
            | .error (r, e) => some (s1.vecTrap c uid r e)
            | .ok (s2, []) => some (((s2.scheduleLoads s1 c uid u).completeJoint c uid).checkSync c uid 0)
            | .ok _ => some (({ s1 with uid := s1.uid + 1 }.beginWaits c uid (s1.uid + 1) u (List.range t.c)).checkSync c uid 0)
      else none

/-- Issue the synced bundle that every member of a strand waits at. -/
def State.joinBundle (s : State) (c uid : Nat) : State := (s.tryBundle c uid).getD s

/-- The ranks of the members that wait under a ticket with the other members of a synced bundle. -/
def Strand.waiting (t : Strand) (ticket : Nat) : List Nat :=
  ((t.members.mapIdx (fun i m => (i, m.wait))).filter (fun e => match e.2 with | .full _ k true => k == ticket | _ => false)).map (·.1)

/-- The full/empty wait of a synced bundle is over (R140): once the lines of each of its words are full and no earlier word waits for them, the words
have their effects, in ascending rank. A word whose line another of them has emptied waits on. The end of a wait is no issue: it happens while the
virtual cycle counter pauses, too (10 R217, R222). -/
def State.serveBundle (s : State) (c uid ticket : Nat) (pc : BitVec 56) : State :=
  match (s.core c).strand uid with
  | none => s
  | some t =>
    if (t.waiting ticket).all (fun r => match (t.members[r]?).map (fun (m : Member) => m.wait) with | some (.full ls k _) => s.linesReady ls (some k) | _ => true) then
      match s.unitOf c uid pc with
      | .error e => s.vecTrap c uid ((t.waiting ticket).headD 0) e
      | .ok (u, s1) =>
        match s1.runMembers c uid u t.status (t.waiting ticket) with
        | .error (_, .stall) => s
        | .error (r, e) => s1.vecTrap c uid r e
        | .ok (s2, _) => ((s2.scheduleLoads s1 c uid u).completeJoint c uid).checkSync c uid 0
    else s

/-- VCC_RESUME (10 R222): the data of loads that were late are usable, and the virtual cycle counter goes on. -/
def execVccResume (core : Nat) (s : State) : Out :=
  eventStep s (fun s => s.modCore core (fun co => { co with vec := { co.vec with syncLoads := co.vec.syncLoads.filter co.vec.late } }))

/-! ### The choice in each cycle (10 R218-R223) -/

/-- Strands in ascending age. -/
def insertAge (t : Strand) : List Strand → List Strand
  | [] => [t]
  | u :: us => if t.age < u.age then t :: u :: us else u :: insertAge t us
def byAge (ts : List Strand) : List Strand := ts.foldl (fun l t => insertAge t l) []

/-- What is ready in a cycle (10 R216): the words that need no other cluster, by strand and rank, and the strands with a synced bundle. -/
structure Ready where
  alone : List (Nat × Nat)
  joins : List Nat

/-- The ready words among those that time lets issue. -/
def State.readyWords (s : State) (c : Nat) (timed : List (Nat × Nat)) : Ready where
  alone := timed.filter (fun e => (s.tryUnit c e.1 e.2).isSome)
  joins := ((s.core c).vec.strands.filter (fun t =>
    (List.range t.c).all (fun r => timed.contains (t.uid, r)) && (s.tryBundle c t.uid).isSome)).map (·.uid)

/-- Has a strand a ready word? -/
def Ready.has (k : Ready) (uid : Nat) : Bool := k.joins.contains uid || k.alone.any (fun e => e.1 == uid)

/-- A cycle as far as it is assigned (R219): the state, the clusters that are free, the strands that have issued. -/
structure Cycle where
  s : State
  free : List Nat
  done : List Nat

/-- A change of a core's vector engine while a context holds the core. -/
def State.modVec (s : State) (c : Nat) (f : VecUnit → VecUnit) : State :=
  s.modCore c (fun co => if co.holder.isSome then { co with vec := f co.vec } else co)

/-- An issue that is no choice leaves the choices of record as they were (R219). -/
def State.keepChoices (s s0 : State) (c : Nat) : State :=
  s.modVec c (fun v => { v with last := (s0.core c).vec.last, yielded := (s0.core c).vec.yielded })

/-- A synced bundle issues in every member cluster. -/
def Cycle.join (y : Cycle) (c : Nat) (t : Strand) : Cycle :=
  ⟨y.s.joinBundle c t.uid, y.free.filter (fun k => !t.members.any (fun m => m.cluster == k)), t.uid :: y.done⟩

/-- A strand's synced bundle may issue: it is ready, and its clusters are free. -/
def Cycle.mayJoin (y : Cycle) (k : Ready) (t : Strand) : Bool := k.joins.contains t.uid && t.members.all (fun m => y.free.contains m.cluster)

/-- Pass 1 (R219): a starved strand issues its synced bundle, or its word in the lowest cluster that is free. -/
def Cycle.pass1 (c : Nat) (k : Ready) (y : Cycle) (t : Strand) : Cycle :=
  if t.starve < 256 then y
  else if y.mayJoin k t then y.join c t
  else
    match ((t.members.mapIdx (fun r m => (r, m.cluster))).find? (fun e => k.alone.contains (t.uid, e.1) && y.free.contains e.2)) with
    | some (r, cl) => ⟨(y.s.issueUnit c t.uid r).keepChoices y.s c, y.free.filter (· != cl), t.uid :: y.done⟩
    | none => y

/-- Pass 2 (R219): joins of strands of several clusters. -/
def Cycle.pass2 (c : Nat) (k : Ready) (y : Cycle) (t : Strand) : Cycle := if y.mayJoin k t then y.join c t else y

/-- A ready word that may be chosen: its strand, by name and age, and the rank and the slot of the member. -/
structure Ripe where
  uid : Nat
  age : Nat
  rank : Nat
  slot : Nat

/-- What a cluster chooses (R220) among ready words, oldest first. Under RR a cluster with no previous choice begins its rotation at slot 0 (DESIGN
CHOICE, log entry 56). -/
def VecUnit.choose (v : VecUnit) (cl : Nat) (ms : List Ripe) : Option Ripe :=
  let last := Tbl.get 0 v.last cl
  let mine := fun (e : Ripe) => last == 4 * e.age + e.slot
  let others := ms.filter (fun e => !(NatSet.has v.yielded cl && mine e))
  let pool := if others.isEmpty then ms else others
  if v.rr then
    let after := if last = 0 then 3 else last % 4
    (upFrom 1 4).findSome? (fun d => pool.find? (fun e => e.slot == (after + d) % 4))
  else (pool.find? mine).orElse (fun _ => pool.head?)

/-- Pass 3 (R219): a free cluster chooses by the policy. -/
def Cycle.pass3 (c : Nat) (k : Ready) (ts : List Strand) (y : Cycle) (cl : Nat) : Cycle :=
  let ms := (ts.map (fun t => (t.members.mapIdx (fun r m => (r, m))).filterMap (fun e =>
    if e.2.cluster = cl ∧ k.alone.contains (t.uid, e.1) = true then some ⟨t.uid, t.age, e.1, e.2.slot⟩ else none))).flatten
  match (y.s.core c).vec.choose cl ms with
  | some e => { y with s := y.s.issueUnit c e.uid e.rank, done := e.uid :: y.done }
  | none => y

/-- Passes 1 and 2 and 3 over the clusters (R219). -/
def State.assign (s : State) (c : Nat) (k : Ready) : Cycle :=
  let ts := byAge (s.core c).vec.strands
  let y := ts.foldl (Cycle.pass1 c k) ⟨s, upFrom 0 4, []⟩
  let y := ts.foldl (Cycle.pass2 c k) y
  y.free.foldl (Cycle.pass3 c k ts) y

/-- One cycle of the vector engine (10 R216-R222), in which time lets the words of the members named issue: slot PCs at synced bundles wait there,
the clusters are assigned, a strand with a ready word that issued none starves by one, and the virtual cycle counter goes on. -/
def State.vecCycle (s : State) (c : Nat) (timed : List (Nat × Nat)) : State :=
  let s := timed.foldl (fun s e => s.arrive c e.1 e.2) s
  let k := s.readyWords c timed
  let y := s.assign c k
  y.s.modVec c (fun v => { (if (s.core c).vec.vccPaused then v else v.vccOn 1) with
    strands := v.strands.map (fun t => if k.has t.uid && !y.done.contains t.uid then { t with starve := t.starve + 1 } else t) })

/-- The members of the strands of a core that stand in the clusters named. -/
def Core.membersIn (co : Core) (cls : List Nat) : List (Nat × Nat) :=
  (co.vec.strands.map (fun t => (t.members.mapIdx (fun r m => (r, m.cluster))).filterMap (fun e =>
    if cls.contains e.2 then some (t.uid, e.1) else none))).flatten

/-- A cycle in which time lets the words in the clusters named issue; nothing happens where none of them is ready. -/
def State.cycleIn (s : State) (c : Nat) (cls : List Nat) : State :=
  let timed := (s.core c).membersIn cls
  let s := timed.foldl (fun s e => s.arrive c e.1 e.2) s
  let k := s.readyWords c timed
  if k.alone.isEmpty && k.joins.isEmpty then s else s.vecCycle c timed

/-- The clusters of a strand. -/
def Core.clustersOf (co : Core) (uid : Nat) : List Nat :=
  match co.strand uid with | some t => t.members.map (·.cluster) | none => []

/-- SYNC_BUNDLE_JOIN (06 R144): the bundle that every member of a strand waits at issues once, in every member cluster, in a cycle in which its
clusters choose (R219). -/
def execSyncBundleJoin (core strand : Nat) (s : State) : Out :=
  eventStep s (fun s =>
    if ((s.core core).strand strand).any (fun t => t.joinPc.isSome) then s.cycleIn core ((s.core core).clustersOf strand) else s)

/-- STARVATION_COUNT_EXPIRY (10 R219): the count of a strand has reached 256: in the cycle that follows, the starved strands issue in pass 1, oldest
first. -/
def execStarvationCountExpiry (core strand : Nat) (s : State) : Out :=
  eventStep s (fun s =>
    if ((s.core core).strand strand).any (fun t => decide (256 ≤ t.starve)) then s.cycleIn core (upFrom 0 4) else s)

/-! ### Releases -/

/-- VWAIT_RELEASE (R147): a released member goes on; the members of a synced bundle go on together, once each that waits is released. -/
def execVwaitRelease (core strand rank : Nat) (s : State) : Out :=
  eventStep s (fun s =>
    match (s.core core).strand strand with
    | some t =>
      match (t.members[rank]?).map (fun (m : Member) => m.wait) with
      | some (.sem _ _ true true _) => s.completeJoint core strand
      | some (.sem _ _ true false next) =>
        s.modCore core (fun co => co.modStrand strand (fun t => t.modMember rank (fun m => { m with wait := .run, pc := next })))
      | _ => s
    | none => s)

/-- A full/empty wait of a member is over (R140): the word runs with its ticket, and does nothing while a line is not full or another
word waited first; the words of a synced bundle have their effects together. -/
def State.releaseFull (s : State) (c uid r : Nat) : State :=
  match s.vcx c uid r 16 false false with
  | none => s
  | some w =>
    match w.m.wait with
    | .full lines ticket joint =>
      if w.co.vecLive && w.st.runs && s.linesReady lines (some ticket) then
        if joint then s.serveBundle c uid ticket w.m.pc
        else
          match s.unitOf c uid w.m.pc with
          | .error e => s.vecTrap c uid r e
          | .ok (u, s1) =>
            match s1.vcx c uid r u.len false false with
            | some w1 => s1.vecFinish w1 (w1.run (some ticket) (u.instr w1.m.cluster) s1)
            | none => s1
      else s
    | _ => s

end Sys2Proof.Machine
end

