-- ==== Sys2Proof/Machine/Strand.lean ====
section
/-!
DEFINITION. Sys2Proof/Machine/Strand.lean: how strands come into being, run their iterations and leave (06 R130, R142-R146; 10 R213-R215; 24
R381, R382), and the end of the waits of strands that an event brings (06 R140; 24 R404).
-/
namespace Sys2Proof.Machine

/-! ### Iterations -/

/-- Is p(12 + k) on at iteration i (06 R142; 24 R381 step 4, R382)? -/
def Strand.stageOn (t : Strand) (k i : Nat) : Bool :=
  decide (k < t.d) && decide (t.first + k ≤ i) && decide (i < t.n + k) &&
    !(k == 0 && (match t.mode with | .draining lo _ => decide (lo ≤ i) | _ => false))

/-- The start of an iteration in every member cluster (06 R142, 08 R186): stage predicates, x0-x2, slot PC. -/
def Strand.begin (t : Strand) (k : Cmd) (i : Nat) : Strand :=
  let t := (upFrom 0 4).foldl (fun (t : Strand) st =>
    (upFrom 0 (32 * t.c)).foldl (fun (t : Strand) l => t.setPred (12 + st) l (if t.stageOn st i then 255 else 0) false) t) t
  { t with
    iter := i
    members := t.members.map (fun m =>
      let m := (upFrom 0 3).foldl (fun (m : Member) st => m.setX st (BitVec.ofNat 64 ((k.addr st i) % (2 ^ 56 : Int)).toNat) false) m
      { m with pc := BitVec.ofNat 56 k.bodyAddr, wait := .run }) }

/-! ### Creation -/

/-- The member clusters of a command, in ascending order (10 R214). -/
def Cmd.clusters (k : Cmd) : List Nat := (List.range 4).filter (fun c => bitAt k.cl c)

/-- A cluster's slots in use (10 R213). -/
def VecUnit.slotsOf (v : VecUnit) (c : Nat) : List Nat :=
  (v.strands.map (fun t => (t.members.filter (fun m => m.cluster == c)).map (·.slot))).flatten

/-- The lowest-numbered free slot of a cluster. -/
def VecUnit.freeSlot (v : VecUnit) (c : Nat) : Option Nat := (List.range 4).find? (fun n => !(v.slotsOf c).contains n)

/-- The conditions of creation (10 R213): a free slot in every cluster, and no window overlap in a shared cluster. -/
def VecUnit.admits (v : VecUnit) (k : Cmd) : Bool :=
  k.clusters.all (fun c => (v.freeSlot c).isSome) &&
    v.strands.all (fun t => !(t.members.any (fun m => k.clusters.contains m.cluster)) ||
      decide (t.wb + t.ws ≤ k.wb) || decide (k.wb + k.ws ≤ t.wb))

/-- What a strand of c members starts with (06 R130; 05 R108; 03 R68): predicates and index registers zero and clean, every VSH copy as at reset,
the rounding states seeded from selector 0. -/
def StrandRegs.initial (c : Nat) : StrandRegs :=
  ⟨[], [], (upFrom 0 (32 * c)).foldl (fun sr l => Tbl.set 0 sr l (BitVec.ofNat 32 (srSeed 0 l))) [], List.replicate c ([], [], vshReset)⟩

/-- A new strand of a command at its iteration (06 R130, R142; 10 R213; 24 R382), younger than every other. That of a command which has drained goes
on with the state of R130 that was saved (24 R383; 06 R142; 03 R68; log entry 57). -/
def VecUnit.create (v : VecUnit) (k : Cmd) : Strand :=
  let r := k.kept.getD (StrandRegs.initial k.clusters.length)
  let ms := k.clusters.mapIdx (fun i c =>
    let m := r.members.getD i ([], [], vshReset)
    Member.mk c ((v.freeSlot c).getD 0) (BitVec.ofNat 56 k.bodyAddr) m.1 m.2.1 m.2.2 .run)
  let t : Strand :=
    { uid := k.uid, num := k.num, wb := k.wb, ws := k.ws, members := ms, preds := r.preds, ppois := r.ppois,
      sr := r.sr,
      status := k.status, iter := k.iter, set := if k.sete then some k.setg else none,
      age := v.born + 1, starve := 0,
      n := k.iterations, d := k.pipe + 1, first := k.iter, mode := .live, acq := k.acq }
  t.begin k k.iter

/-- Has a command no strand that runs or is kept? -/
def Core.lacksStrand (co : Core) (k : Cmd) : Bool :=
  match co.strand k.uid with
  | some t => t.mode == .drained
  | none => true

/-- Strand creation at stage 3 of the oldest VEC command that has none (10 R213). A drained strand's place goes to its successor, which
stays in the set that the command names. What the command has acquired its strand's loads see (08 R190), and its clusters find in the registers
(06 R132). -/
def State.createStrand (s : State) (c : Nat) : State :=
  let co := s.core c
  let qu := s.queue (.core c 0)
  match qu.cmds.find? (fun k => k.stage == 3 && co.lacksStrand k) with
  | none => s
  | some k =>
    if co.vecLive = false ∨ co.debug ∨ qu.stop ∨ qu.pre ∨ k.fault then s
    else
      let v : VecUnit := { co.vec with strands := co.vec.strands.filter (fun t => t.uid != k.uid) }
      if v.admits k then
        let t := v.create k
        let s := s.setCore c ({ co with vec := { v with strands := v.strands ++ [t], born := v.born + 1 } }.landNow (fun l => k.acq.contains l.uid))
        let s := (List.range t.c).foldl (fun s r => s.reachPts (.cluster c k.uid r) k.pts) s
        if k.sete then s.joinSet (s.ctxOf c) k.setg (.strand c k.uid) else s
      else s

/-- STRAND_CREATE (10 R213). -/
def execStrandCreate (core : Nat) (s : State) : Out := eventStep s (fun s => s.createStrand core)

/-! ### The end of an iteration -/

/-- What a strand hands on to the strand that goes on with its command (24 R383). -/
def Strand.handOn (t : Strand) : StrandRegs := ⟨t.preds, t.ppois, t.sr, t.members.map (fun m => (m.x, m.xpois, m.vsh))⟩

/-- The strand has drained to its boundary (24 R381 step 4): its command resumes at iteration `lo`, with the strand's state of R130 (R383). -/
def State.drained (s : State) (c : Nat) (t : Strand) (lo : Nat) : State :=
  let s := s.modCmd (.core c 0) t.uid (fun k => { k with iter := lo, status := t.status, part := true, kept := some t.handOn })
  s.modCore c (fun co => co.modStrand t.uid (fun t => { t with mode := .drained }))

/-- Every member has executed VEXIT in this iteration (06 R145). -/
def Strand.allExit (t : Strand) : Bool := t.members.all (fun m => m.wait == .exit)

/-- VEXIT_JOIN (06 R145): the next iteration begins, or the strand ends, or it has drained. -/
def execVexitJoin (core strand : Nat) (s : State) : Out :=
  eventStep s (fun s =>
    let co := s.core core
    match co.strand strand, co.command strand with
    | some t, some k =>
      if co.vecLive && t.runs && t.allExit then
        let last := t.n + t.d - 2
        let next := s.modCore core (fun co => co.modStrand strand (fun t => t.begin k (t.iter + 1)))
        if t.iter ≥ last then s.endStrand core t
        else match t.mode with
          | .draining lo hi => if t.iter ≥ hi then s.drained core t lo else next
          | _ => next
      else s
    | _, _ => s)

/-- STRAND_DRAIN_TIMEOUT (24 R377, R381): a strand that has not reached its boundary is kept whole. -/
def execStrandDrainTimeout (core strand : Nat) (s : State) : Out :=
  eventStep s (fun s =>
    match (s.core core).strand strand with
    | some t =>
      match t.mode with
      | .draining _ _ => s.modCore core (fun co => co.keepStrand strand)
      | _ => s
    | none => s)

/-- WAIT_INTERRUPTED (04 R404): an interrupt ends a wait. A wait whose release has taken effect completes; any other has had no effect, and
its word executes again. A command in stage 2 stays there, with nothing popped. -/
def execWaitInterrupted (w : Waiter) (s : State) : Out :=
  eventStep s (fun s => match w with
    | .seq c => s.interruptSeq c
    | .cluster c uid r =>
      let whole := match (s.core c).strand uid with | some t => t.whole | none => false
      let s := s.modCore c (fun co => co.modStrand uid (fun t => (t.stopMembers (fun i => whole || i == r)).completeJoint))
      s.modCore c (fun co => { co with sems := co.sems.map (fun e =>
        (e.1, { e.2 with waiters := e.2.waiters.filter (fun x => match x.1 with
          | .cluster d u i => !(d == c && u == uid && (whole || i == r))
          | _ => true) })) })
    | .matrix c => s.setQueue (.core c 1) { s.queue (.core c 1) with cmds := (s.queue (.core c 1)).cmds.map (fun k => { k with want := none }) }
    | .command _ _ => s)

end Sys2Proof.Machine
end

