-- ==== Sys2Proof/Machine/Preempt.lean ====
section
/-!
DEFINITION. Sys2Proof/Machine/Preempt.lean: pre-emption and resumption (24 R381-R383), kill (15 R272; 04 R92; 12 R243), debug halt (24 R384).
-/
namespace Sys2Proof.Machine

/-! ### PREEMPT (R381) -/

/-- The queues that a pre-emption stops: the per-core ones, and the stash and DOU queues of the context. -/
def sharedStopped (x : Nat) : List QId := (List.range 2).map (QId.stash x) ++ (List.range 8).map (QId.dou x)

/-- Stop or start a queue for pre-emption; started, its waiting step executes again. -/
def Queue.preempt (q : Queue) (b : Bool) : Queue :=
  { q with pre := b, cmds := if b then q.cmds else q.cmds.map (fun k => { k with want := none }) }

/-- All six queues of a core. -/
def Core.preemptQueues (c : Core) (b : Bool) : Core :=
  { c with queues := (List.range 6).foldl (fun t q => Tbl.modify {} t q (fun v => v.preempt b)) c.queues }

/-- A core at the stop (R381 steps 2-4): its sequencer stops, its queues stop, its strands drain or are kept. Under a debug halt its commands
run to completion and its strands are kept as they stand (R384). -/
def State.preemptCore (s : State) (c : Nat) : State :=
  let s := s.interruptSeq c
  let co := s.core c
  if co.debug then
    s.setCore c { co with
      run := .saved
      vec := { co.vec with strands := co.vec.strands.map (fun t => if t.mode = .live then { t with mode := .kept } else t) } }
  else s.setCore c { (co.preemptQueues true).stopStrands with run := .saved }

/-- PREEMPT is accepted: no further dispatch, every agent stops (R381 steps 1-4). -/
def State.preempt (s : State) (n : Nat) : State :=
  let s := s.modCtx n (fun x => { x with preempting := true })
  let s := (s.ctx n).coreList.foldl (fun s c => s.preemptCore c) s
  (sharedStopped n).foldl (fun s q => s.setQueue q ((s.queue q).preempt true)) s

/-- A core has nothing left to do before the save (R381, R262). -/
def State.coreSaved (s : State) (c : Nat) : Bool :=
  let co := s.core c
  co.checkQ.isEmpty && co.outst.isEmpty && co.stores.isEmpty && co.vec.stores.all (fun e => e.2.isEmpty) && co.vec.pend.isEmpty &&
    co.vec.landing.isEmpty && co.wait.isNone &&
    co.vec.strands.all Strand.stopped &&
    (if co.debug then s.drained_ c
     else (List.range 6).all (fun q => (s.queue (.core c q)).cmds.all (fun k => s.atRest c k)))

/-- Everything of the context has stopped. -/
def State.preemptDone (s : State) (n : Nat) : Bool :=
  !s.retireDue n && (s.ctx n).coreList.all s.coreSaved && (sharedStopped n).all (fun q => (s.queue q).cmds.all (fun k => s.atRest k.pusher k))

/-- The progress words of a queue's part-way commands (08 R191). -/
def State.saveProgress (s : State) (n : Nat) (q : QId) : State :=
  (s.queue q).cmds.foldl (fun s k =>
    if k.stage = 3 ∧ k.fault = false then
      (s.modCmd q k.uid (fun k => { k with part := true })).writeProgress n k (s.progress k.pusher k)
    else s) s

/-- A drained strand is evicted (R92; 10 R215): its command resumes with a new one. -/
def State.evictDrained (s : State) (c : Nat) : State :=
  ((s.core c).vec.strands.filter (fun t => t.mode == .drained)).foldl (fun s t => s.dropStrand c t.uid) s

/-- The state is saved (R381 steps 5 and 6, R383): each core keeps it until another context is placed there. -/
def State.saveContext (s : State) (n : Nat) : State :=
  let cs := (s.ctx n).coreList
  let s := (cs.flatMap (fun c => (List.range 6).map (QId.core c)) ++ sharedStopped n).foldl (fun s q => s.saveProgress n q) s
  let s := cs.foldl (fun s c => (s.evictDrained c).modCore c (fun co => co.preemptQueues true)) s
  let s := { s with ms := { s.ms with pins := s.ms.pins.filter (fun p => p.ctx != n) } }
  (s.modCtx n (fun x => { x with st := .saved, preempting := false })).record n ⟨9, 0, 0, 0, 0⟩

/-- PREEMPT_SAVED (R381 step 6). -/
def execPreemptSaved (ctx : Nat) (s : State) : Out :=
  eventStep s (fun s =>
    if (s.ctx ctx).preempting ∧ (s.ctx ctx).st = .running ∧ s.preemptDone ctx then (s.saveContext ctx).headOn ctx else s)

/-! ### RESUME (R382) -/

/-- A core of the context is free for it: no other context that is loaded or running holds it (25 R402). -/
def State.resumable (s : State) (n c : Nat) : Bool :=
  match s.holder c with
  | some y => y == n || !(s.ctx y).st.live
  | none => true

/-- A core takes its saved state back; its own clock went on. -/
def State.unpark (s : State) (n c : Nat) : State :=
  if s.holder c = some n then s
  else
    let s := s.park n c
    let old := Tbl.get Core.reset (s.ctx n).saved c
    let co := s.core c
    (s.setCore c { old with holder := some n, cycle := co.cycle, used := co.used, derated := co.derated, clkBusy := co.clkBusy }).modCtx n (fun x =>
      { x with saved := Tbl.erase c x.saved })

/-- A core goes on at its pre-emption point: the sequencer, its queues, and the strands that no trap holds stopped (R382; R379, R384). -/
def Core.resume (c : Core) : Core :=
  let c := c.preemptQueues false
  { c with
    run := if c.debug then .halted else .on
    vec := if c.handler then c.vec else { c.vec with strands := c.vec.strands.map Strand.unfault } }

/-- RESUME (R272, R382). -/
def State.resume (s : State) (n : Nat) : State :=
  let cs := (s.ctx n).coreList
  let s := cs.foldl (fun s c => s.unpark n c) s
  let s := cs.foldl (fun s c => s.modCore c Core.resume) s
  let s := (sharedStopped n).foldl (fun s q => s.setQueue q ((s.queue q).preempt false)) s
  let s := s.modCtx n (fun x => { x with st := .running })
  (cs.foldl (fun s c => s.retestAll c) s).endLaunch n

/-! ### KILL (R272) -/

/-- KILL and LRKILL: the context ends, and the owner receives one killed record. -/
def State.kill (s : State) (n : Nat) : State := (s.endContext n).record n ⟨2, 0, 0, 0, 0⟩

/-! ### Debug halt (R384) -/

/-- The cores that a DBGCTL write names: one of them, or all. -/
def Ctx.named (x : Ctx) (v : BitVec 64) : List Nat :=
  if bitAt v.toNat 2 then (if coordOk (slice v.toNat 15 8) then x.coreList.filter (· == coreOfCoord (slice v.toNat 15 8)) else [])
  else x.coreList

/-- A core halts: its sequencer at a pre-emption point, its strands at once; no command of it begins. -/
def State.haltCore (s : State) (n c : Nat) : State :=
  let s := s.interruptSeq c
  let s := (s.modCore c (fun co => { co with debug := true, run := if co.run = .on then .halted else co.run })).drainSeen c
  s.modCtx n (fun x => { x with dbgHalted := (x.dbgHalted ++ [c]).eraseDups })

/-- A core goes on from where it stopped. -/
def State.unhaltCore (s : State) (n c : Nat) : State :=
  if (s.core c).debug then
    let s := s.modCore c (fun co => { co with debug := false, run := if co.run = .halted then .on else co.run })
    (s.modCtx n (fun x => { x with dbgHalted := x.dbgHalted.filter (· != c) })).retestAll c
  else s

/-- DBGCTL_HALT (R384): bit 0, accepted only in RUNNING. -/
def execDbgctlHalt (ctx : Nat) (value : BitVec 64) (s : State) : Out :=
  eventStep s (fun s =>
    if s.mod.ready ∧ ctx < Config.contexts ∧ bitAt value.toNat 0 ∧ (s.ctx ctx).st = .running then
      (((s.ctx ctx).named value).foldl (fun s c => s.haltCore ctx c) s).endLaunch ctx
    else s)

/-- DBGCTL_RESUME (R384): bit 1. -/
def execDbgctlResume (ctx : Nat) (value : BitVec 64) (s : State) : Out :=
  eventStep s (fun s =>
    if s.mod.ready ∧ ctx < Config.contexts ∧ bitAt value.toNat 1 ∧ (s.ctx ctx).st = .running then
      ((s.ctx ctx).named value).foldl (fun s c => s.unhaltCore ctx c) s
    else s)

end Sys2Proof.Machine
end

