-- ==== Sys2Proof/Machine/FrontEnd.lean ====
section
/-!
DEFINITION. Sys2Proof/Machine/FrontEnd.lean: the launch front end: the packets of the launch ring (15 R270-R272) and the registers of a context's
block (15 R268, R269; 20 R341; 21 R344; 24 R384, R390; 25 R402).
-/
namespace Sys2Proof.Machine

/-! ### Packets (R270) -/

/-- A packet of a kind at the head is carried out or rejected (R270), once a lane repair lets it be read (22 R368); `read` is what its reading does
when it is rejected. -/
def State.packet (s : State) (n kind : Nat) (run : Nat → Except Nat State) (read : Nat → State := fun _ => s) : State :=
  match s.packetAt n with
  | some v =>
    if slice v 63 56 = kind ∧ s.ms.pausedIn (physPlace ((s.ctx n).lrbase + (s.ctx n).lrhead)) 64 = false then
      match run v with
      | .ok s' => s'
      | .error c => (read v).rejectPacket n c
    else s
  | none => s

/-- PREEMPT, RESUME and KILL: every byte but the kind's is reserved (R272). -/
def bareOk (v : Nat) : Bool := v == slice v 63 56 * 2 ^ 56

/-- LOAD_LTT (R272, R273). -/
def execLoadLtt (ctx : Nat) (s : State) : Out :=
  eventStep s (fun s => s.packet ctx 1 (fun v => (s.loadLtt ctx v).map (fun s => s.headOn ctx)))

/-- DECLARE_STAGE (R272, R274). -/
def execDeclareStage (ctx : Nat) (s : State) : Out :=
  eventStep s (fun s => s.packet ctx 2 (fun v => (s.declareStage ctx v).map (fun s => s.headOn ctx))
    (fun v => s.expandSetup ctx (slice v 311 256) 256))

/-- LAUNCH (R272, R276): LRHEAD goes on when the curtain rises. -/
def execLaunch (ctx : Nat) (s : State) : Out :=
  eventStep s (fun s => s.packet ctx 3 (s.launchPacket ctx)
    (fun v => if slice v 23 16 = 0 then s else s.expandSetup ctx (slice v 247 192) (4 * (slice v 23 16 + 1))))

/-- PREEMPT (R272, R381): LRHEAD goes on when the context has been saved. -/
def execPreempt (ctx : Nat) (s : State) : Out :=
  eventStep s (fun s => s.packet ctx 4 (fun v =>
    if bareOk v = false then .error 3 else if (s.ctx ctx).st ≠ .running then .error 5 else .ok (s.preempt ctx)))

/-- RESUME (R272, R382). A core that another context has taken meanwhile keeps it from being accepted (log entry 19). -/
def execResume (ctx : Nat) (s : State) : Out :=
  eventStep s (fun s => s.packet ctx 5 (fun v =>
    if bareOk v = false then .error 3
    else if (s.ctx ctx).st ≠ .saved ∨ (s.ctx ctx).coreList.all (s.resumable ctx) = false then .error 5
    else .ok ((s.resume ctx).headOn ctx)))

/-- A well-formed KILL that stands behind a packet still being carried out (24 R393; log entry 86): it is accepted in every state, so it does not
wait for the save, or the rise, that the packet before it brings. -/
def State.killBehind (s : State) (n : Nat) : Bool :=
  let x := s.ctx n
  s.ringReads n && s.carrying n &&
    (match s.packetFrom n ((x.lrhead + 64) % x.lrsize) with | some v => slice v 63 56 == 6 && bareOk v | none => false)

/-- KILL (R272): in every state. -/
def execKill (ctx : Nat) (s : State) : Out :=
  eventStep s (fun s =>
    if s.killBehind ctx then
      ((s.kill ctx).modCtx ctx (fun x => { x with lrhead := (x.lrhead + 64) % x.lrsize })).headOn ctx
    else s.packet ctx 6 (fun v => if bareOk v = false then .error 3 else .ok ((s.kill ctx).headOn ctx)))

/-! ### The registers of the launch ring (R268, R269) -/

/-- A register write takes effect only after bring-up (22 R369), in the block of one of the 16 contexts (R268; 01 R23). -/
def regWrite (s : State) (n : Nat) (k : State → State) : Out :=
  eventStep s (fun s => if s.mod.ready ∧ n < Config.contexts then k s else s)

/-- A write that breaks a register's rule (R269). -/
def State.badw (s : State) (n : Nat) : State := s.modCtx n (fun x => { x with badw := true })

/-- Bits 51:6 of a base register. -/
def baseBits (v : BitVec 64) : Nat := slice v.toNat 51 6 * 64

/-- LRBASE (R268): only in EMPTY; LRHEAD becomes zero. -/
def execLrbaseWrite (ctx : Nat) (value : BitVec 64) (s : State) : Out :=
  regWrite s ctx (fun s => s.modCtx ctx (fun x => if x.st = .empty then { x with lrbase := baseBits value, lrhead := 0 } else x))

/-- LRSIZE (R268, R269). -/
def execLrsizeWrite (ctx : Nat) (value : BitVec 64) (s : State) : Out :=
  regWrite s ctx (fun s =>
    let v := value.toNat
    if (s.ctx ctx).st ≠ .empty then s
    else if v < 1024 ∨ 2 ^ 20 < v ∨ v % 16 ≠ 0 then s.badw ctx
    else s.modCtx ctx (fun x => { x with lrsize := v }))

/-- LRTAIL (R268-R270): a doorbell. -/
def execLrtailWrite (ctx : Nat) (value : BitVec 64) (s : State) : Out :=
  regWrite s ctx (fun s =>
    let v := value.toNat
    if v % 16 ≠ 0 ∨ (s.ctx ctx).lrsize ≤ v then s.badw ctx
    else
      let s := s.modCtx ctx (fun x => { x with lrtail := v })
      if (s.ctx ctx).ringOutside then s.badw ctx else s.scanRing ctx)

/-- LRSTAT (R268, R270): writing 1 clears BADW and STOP; with STOP clear the packet is read again. -/
def execLrstatWrite (ctx : Nat) (value : BitVec 64) (s : State) : Out :=
  regWrite s ctx (fun s =>
    let v := value.toNat
    let go := bitAt v 3 && (s.ctx ctx).stop
    let s := s.modCtx ctx (fun x => { x with badw := x.badw && !bitAt v 4, stop := x.stop && !bitAt v 3 })
    if go then s.scanRing ctx else s)

/-- LRKILL (R268): bit 0 kills the context at once. -/
def execLrkillWrite (ctx : Nat) (value : BitVec 64) (s : State) : Out :=
  regWrite s ctx (fun s => if bitAt value.toNat 0 then s.kill ctx else s)

/-! ### Changing the table (20 R341) -/

/-- The command bits of an LTTCMD value: exactly one of write, remove and resume. A value with another bit set than R341 names, or with two of
the three, names no command and is refused (DESIGN CHOICE, log entry 97). -/
def lttCommand (v : Nat) : Option Nat :=
  if v / 2 ^ 17 ≠ 0 ∨ slice v 15 14 ≠ 0 then none
  else match bitAt v 12, bitAt v 13, bitAt v 16 with
    | true, false, false => some 12
    | false, true, false => some 13
    | false, false, true => some 16
    | _, _, _ => none

/-- LTTCMD (R341): a write of the staged entry, a removal, a resume of every waiting PROBE; anything else is refused. -/
def State.lttCmd (s : State) (n : Nat) (v : Nat) : State :=
  let refuse := fun (b : Bool) (s : State) => s.modCtx n (fun x => { x with lttRefused := b })
  match lttCommand v with
  | some 12 =>
    (match s.lttWrite n (slice v 11 0) with
      | some t => refuse false (s.modCtx n (fun x => { x with ltt := t }))
      | none => refuse true s)
  | some 13 =>
    if (s.ctx n).st = .loaded then refuse false (s.modCtx n (fun x => { x with ltt := Tbl.erase (slice v 11 0) x.ltt })) else refuse true s
  | some 16 =>
    let s := (s.ctx n).probes.foldl (fun s c => s.modCore c (fun co => match co.wait with
      | some { on := .probe _, .. } => { co with wait := none }
      | _ => co)) s
    refuse false (s.modCtx n (fun x => { x with probes := [] }))
  | _ => refuse true s

/-- An LTTCMD write is one of three events, by its command bit; a malformed one is refused by the first. -/
def lttEvent (ctx : Nat) (value : BitVec 64) (own : Option Nat → Bool) (s : State) : Out :=
  regWrite s ctx (fun s => if own (lttCommand value.toNat) then s.lttCmd ctx value.toNat else s)

/-- LTTCMD_WRITE (R341), and every malformed command. -/
def execLttcmdWrite (ctx : Nat) (value : BitVec 64) (s : State) : Out := lttEvent ctx value (fun c => c == some 12 || c == none) s
/-- LTTCMD_REMOVE (R341). -/
def execLttcmdRemove (ctx : Nat) (value : BitVec 64) (s : State) : Out := lttEvent ctx value (fun c => c == some 13) s
/-- LTTCMD_RESUME (R341). -/
def execLttcmdResume (ctx : Nat) (value : BitVec 64) (s : State) : Out := lttEvent ctx value (fun c => c == some 16) s

/-! ### The event ring (24 R390) -/

/-- Records held so far are delivered while there is room. -/
def State.deliverAll (s : State) (n : Nat) : State := s.deliver n (s.ctx n).evHeld.length

/-- EVBASE (R390, R391): EVHEAD, EVTAIL and SEQ become zero. -/
def execEvbaseWrite (ctx : Nat) (value : BitVec 64) (s : State) : Out :=
  regWrite s ctx (fun s =>
    (s.modCtx ctx (fun x => { x with evbase := baseBits value, evhead := 0, evtail := 0, evseq := 0 })).deliverAll ctx)

/-- EVSIZE (R269, R390). -/
def execEvsizeWrite (ctx : Nat) (value : BitVec 64) (s : State) : Out :=
  regWrite s ctx (fun s =>
    let v := value.toNat
    if v ≠ 0 ∧ (v < 4096 ∨ 2 ^ 20 < v ∨ v % 64 ≠ 0) then s.badw ctx
    else (s.modCtx ctx (fun x => { x with evsize := v })).deliverAll ctx)

/-- EVHEAD (R269, R390). -/
def execEvheadWrite (ctx : Nat) (value : BitVec 64) (s : State) : Out :=
  regWrite s ctx (fun s =>
    let v := value.toNat
    if v % 64 ≠ 0 ∨ (s.ctx ctx).evsize ≤ v then s.badw ctx
    else (s.modCtx ctx (fun x => { x with evhead := v })).deliverAll ctx)

/-! ### The other registers -/

/-- REGISTER_WRITE: the staged entry LTTD0-LTTD3 (20 R341), and CRCFG and CRTAB in LOADED and SAVED (21 R344, 00 R6); a write to a register that
is read only, or to an offset of the block that holds none, is ignored (00 R5). -/
def execRegisterWrite (ctx : Nat) (offset : BitVec 12) (value : BitVec 64) (s : State) : Out :=
  regWrite s ctx (fun s =>
    let o := offset.toNat
    let still := (s.ctx ctx).st == .loaded || (s.ctx ctx).st == .saved
    if 0x40 ≤ o ∧ o ≤ 0x58 ∧ o % 8 = 0 then s.modCtx ctx (fun x => { x with lttd := Tbl.set 0 x.lttd ((o - 0x40) / 8) value })
    else if o = 0x80 ∧ still then s.modCtx ctx (fun x => { x with crcfg := value &&& 0xFFFFFFF })
    else if o = 0x88 ∧ still then s.modCtx ctx (fun x => { x with crtab := value &&& 0xFFFFFFFFFFFFFF })
    else s)

/-! ### What the registers read -/

/-- STATE's code (R268). -/
def CtxState.code : CtxState → Nat
  | .empty => 0 | .loaded => 1 | .curtain => 2 | .running => 3 | .saved => 4

/-- LRSTAT (R268). -/
def Ctx.lrstat (x : Ctx) : Nat := x.erroff * 2 ^ 32 + x.err * 2 ^ 16 + x.badw.toNat * 16 + x.stop.toNat * 8 + x.st.code

/-- LTTSTAT (20 R341). -/
def Ctx.lttstat (x : Ctx) : Nat :=
  x.lttRefused.toNat + 2 * x.probeWaits.toNat + (match x.probes with | c :: _ => coordOf c * 2 ^ 16 | [] => 0)

/-- DBGSTAT (24 R384). -/
def State.dbgstat (s : State) (n : Nat) : Nat :=
  let cs := (s.ctx n).dbgHalted
  (!cs.isEmpty && cs.all (fun c => (s.core c).run == .halted || (s.core c).run == .saved)).toNat +
    2 * (!cs.isEmpty && cs.all s.drained_).toNat

/-- What a register of a context's block reads (R268; 20 R341; 21 R344; 24 R384, R390; 25 R402); write-only and absent ones read zero. -/
def State.ctxRegister (s : State) (n off : Nat) : BitVec 64 :=
  let x := s.ctx n
  if off = 0x00 then BitVec.ofNat 64 x.lrbase
  else if off = 0x08 then BitVec.ofNat 64 x.lrsize
  else if off = 0x10 then BitVec.ofNat 64 x.lrhead
  else if off = 0x18 then BitVec.ofNat 64 x.lrtail
  else if off = 0x20 then BitVec.ofNat 64 x.lrstat
  else if 0x40 ≤ off ∧ off ≤ 0x58 ∧ off % 8 = 0 then Tbl.get 0 x.lttd ((off - 0x40) / 8)
  else if off = 0x68 then BitVec.ofNat 64 x.lttstat
  else if off = 0x80 then x.crcfg
  else if off = 0x88 then x.crtab
  else if off = 0x98 then BitVec.ofNat 64 (s.dbgstat n)
  else if off = 0xA0 then BitVec.ofNat 64 x.evbase
  else if off = 0xA8 then BitVec.ofNat 64 x.evsize
  else if off = 0xB0 then BitVec.ofNat 64 x.evhead
  else if off = 0xB8 then BitVec.ofNat 64 x.evtail
  else if off = 0xC0 then BitVec.ofNat 64 (milliWu x.wacc)
  else 0

end Sys2Proof.Machine
end

