-- ==== Sys2Proof/Machine/Matrix.lean ====
section
/-!
DEFINITION. Sys2Proof/Machine/Matrix.lean: the matrix engine (07 R150-R178): tile handles, operand tiles, the steps MMA and MMABS with their
held results, commits and reruns, the accumulator words, pins (R163, 12 R248-R250) and full/empty waits (R162).
-/
namespace Sys2Proof.Machine

/-! ### Handles (R151, R153) -/

def MtxUnit.handle (m : MtxUnit) (h : Nat) : Nat := Tbl.get 0 m.handles h
def MtxUnit.cursor (m : MtxUnit) (h : Nat) : Nat := Tbl.get 0 m.kc h
def MtxUnit.mark (m : MtxUnit) (acc : Nat) : Nat := Tbl.get 96 m.wm acc

/-- A handle as a step uses it: its image with the address and the tensor base it gives now. -/
structure Tile where
  h    : Nat
  img  : Nat
  a    : Int
  b    : Int
  deriving DecidableEq, Repr

def Tile.fmt (t : Tile) : Nat := slice t.img 63 60
def Tile.fe (t : Tile) : Nat := slice t.img 57 56
def Tile.tr (t : Tile) : Bool := bitAt t.img 125
def Tile.coded (t : Tile) : Bool := bitAt t.img 126
def Tile.rs (t : Tile) : Int := (BitVec.ofNat 28 (slice t.img 191 164)).toInt
def Tile.staddr (t : Tile) : Nat := slice t.img 311 256
/-- Every reserved field of the image is zero (R151). -/
def Tile.reservedOk (t : Tile) : Bool :=
  slice t.img 511 312 == 0 && slice t.img 255 248 == 0 && slice t.img 161 128 == 0 && slice t.img 121 120 == 0

/-- The weight version that the ringmaster recorded for a command's tag (R153). -/
def State.versionOf (s : State) (x : Nat) (k : Cmd) : Option Nat :=
  match k.task with
  | some t => (match s.stage x t.stage with
    | some st => (st.inflight.find? (fun e => e.1.toNat == k.tag)).map (·.2)
    | none => none)
  | none => none

/-- Resolve a handle at iteration i (R153). -/
def State.tile (s : State) (q : QId) (k : Cmd) (i h : Nat) : Except StepErr Tile := do
  let core := match q with | .core c _ => c | _ => k.pusher
  let img := (s.core core).mtx.handle h
  let off := BitVec.ofNat 56 (slice img 55 0)
  let strm := slice img 59 58
  let a : Int := if strm < 3 then k.addr strm i + off.toInt else (off.toNat : Int)
  let b : Int := (slice img 247 192 : Nat)
  if bitAt img 127 then
    let v ← match Tbl.get 0 k.hver h with
      | 0 => if k.versioned then (match s.versionOf (s.cmdCtx q) k with | some v => .ok v | none => .error .fault) else .ok (slice img 124 122)
      | n + 1 => .ok n
    let d : Int := (slice img 119 64 * v : Nat)
    .ok ⟨h, img, a + d, b + d⟩
  else .ok ⟨h, img, a, b⟩

/-- Width in bits of the elements of a format code; block formats have that of their codes (03 R66). -/
def codeWidth (fmt : Nat) : Nat :=
  match blockElem fmt with
  | some fe => fe.width
  | none => match NumFmt.ofCode fmt with | some f => f.width | none => 8

/-- Is a format code one of the block formats? -/
def isBlock (fmt : Nat) : Bool := (blockElem fmt).isSome

/-- How a step uses a handle (R155): as the B operand of MMA, as the B operand of MMABS, or otherwise. -/
inductive TileRole where
  | bMma | bMmabs | other
  deriving DecidableEq, Repr

/-- The checks of R155 that the image and the address alone decide; `fmt` is the word's format for ASTORE. -/
def Tile.check (t : Tile) (role : TileRole) (fmt : Nat) : Bool :=
  let u : Int := (max 1 (codeWidth fmt / 8) : Nat)
  t.reservedOk && !(t.tr && fmt == 6) && (!isBlock fmt || (t.tr == (role == .bMmabs))) && (!t.coded || role == .bMma) &&
    t.fe != 3 && t.a % u == 0 && t.rs % u == 0

/-! ### Tiles in memory (R154, R155, R162, R163) -/

/-- Runs of bytes: n of them, `len` bytes each, from an address with a stride. -/
def runsAt (base rs : Int) (n len : Nat) : List (Int × Nat) := (upFrom 0 n).map (fun (i : Nat) => (base + (i : Int) * rs, len))

/-- The runs that hold a tile of R rows and C columns in elements of w bits (R154); no run where one of the two is none. -/
def Tile.runs (t : Tile) (w r c : Nat) : List (Int × Nat) :=
  if t.tr then (if r = 0 then [] else runsAt t.a t.rs c (r * w / 8)) else (if c = 0 then [] else runsAt t.a t.rs r (c * w / 8))

/-- The runs of a block tile (R154): n rows or columns of Kt codes at the cursor, and their scales. -/
def Tile.blockRuns (t : Tile) (kc n : Nat) : List (Int × Nat) × List (Int × Nat) :=
  let p : Int := if t.fmt = 15 then 128 else 256
  (runsAt (t.a + 64 * (kc : Int)) t.rs n 64, runsAt (t.a + p) t.rs n 3)

/-- The places of the pieces of some runs, in the frame chosen. -/
def State.runPlaces (s : State) (x : Nat) (shadow : Bool) (rs : List (Int × Nat)) : Except StepErr (List Place) :=
  rs.foldlM (fun acc r => do
    let a ← asAddr r.1
    (piecesOf a r.2).foldlM (fun (acc : List Place) pc =>
      match (s.ctx x).place shadow pc.1 with
      | some p => .ok (acc ++ [p])
      | none => .error (.fatal pc.1)) acc) []

/-- The lines of stage SRAM among some places, and the cacheable lines of other memory, which the L2 supplies. -/
def sramLines (ps : List Place) : List Nat := ((ps.filter (fun p => isSram p.key)).map (fun p => lineOf p.key)).eraseDups
def l2Places (ps : List Place) : List Place := ps.filter (fun p => !isSram p.key && p.cache)

/-- The checks of R155 on the memory of a tile. -/
def Tile.placesOk (t : Tile) (ps : List Place) : Bool :=
  ps.all (fun p => (t.coded || p.comp != 4) && (t.fe == 0 || isSram p.key))

/-- Read runs. -/
def State.readRuns (s : State) (k : Cmd) (x : Nat) (rs : List (Int × Nat)) : Except StepErr (List (List PByte) × State) :=
  rs.foldlM (fun (acc : List (List PByte) × State) r => do
    let a ← asAddr r.1
    let (bs, s) ← acc.2.engRead k x a r.2
    .ok (acc.1 ++ [bs], s)) ([], s)

/-- Rows and columns exchanged: n lists. -/
def transposeN {α : Type} (n : Nat) (rows : List (List α)) : List (List α) := (upFrom 0 n).map (fun i => rows.filterMap (fun r => r[i]?))

/-! ### Full/empty waits and pins -/

/-- Wait until every governed line is full, in the order of the waits; then their writes, for those lines only, are acquired (R162). -/
def feWait (q : QId) (k : Cmd) (s : State) (lines : List Nat) : StepRes :=
  if lines.isEmpty then .ok (s, k)
  else if s.linesReady lines (k.want.map (·.2)) then
    .ok (s, { k with want := none, lineAcq := k.lineAcq ++ lines.map (fun l => (l, Tbl.get [] s.ms.fullBy l, Tbl.get 0 s.ms.fullSee l)) })
  else
    let t := match k.want with | some w => w.2 | none => s.uid + 1
    .error (.wait (({ s with uid := max s.uid t } : State).putCmd q { k with want := some (lines, t) }))

/-- No set holds more than 12 of these lines (R163). -/
def fitsSets (lines : List Nat) : Bool :=
  let sets := lines.map (fun l => setOf (64 * l))
  sets.eraseDups.all (fun t => decide ((sets.filter (· == t)).length ≤ 12))

/-- Pin the lines that a step reads through the L2 (R163): too many for one set by themselves are a command fault; with the lines that
others hold they wait, and so they do beyond the context's quota. -/
def pinLines (q : QId) (k : Cmd) (s : State) (ps : List Place) : Except StepErr (State × List Nat) :=
  let x := s.cmdCtx q
  let mine := ((l2Places ps).map (fun p => p.key / 64)).eraseDups
  let ofCtx := (((s.ms.pins.filter (fun p => p.ctx == x)).map (·.line)) ++ mine).eraseDups
  let above := [0, 1].any (fun d => decide ((s.ctx x).pinq.getD d 0 < (ofCtx.filter (fun l => homeDie (64 * l) == d)).length))
  if mine.isEmpty then .ok (s, [])
  else if !fitsSets mine then .error .fault
  else if above then .error (.wait (s.putCmd q { k with quotaStall := true }))
  else if !fitsSets ((s.ms.pins.map (·.line)) ++ mine).eraseDups then .error (.wait (s.putCmd q { k with quotaStall := false }))
  else
    let ms := (l2Places ps).foldl (fun (m : MemSys) p => (m.touch p).touch { p with key := p.key / 64 * 64 + (32 - p.key % 64 / 32 * 32) }) s.ms
    .ok ({ s with ms := { ms with pins := ms.pins ++ mine.map (fun l => ⟨l, x, k.uid⟩) } }, mine)

/-- Unpin lines: one pin of each goes (R163). -/
def MemSys.unpin (m : MemSys) (uid : Nat) (lines : List Nat) : MemSys :=
  { m with pins := lines.foldl (fun ps l => match takeFirst (fun p => p.line == l && p.uid == uid) ps with | some (_, r) => r | none => ps) m.pins }

/-- Prepare the reads of a step: the memory of its tiles is checked, its governed lines are full, its lines are pinned. Answers what a
commit empties and unpins too. -/
def prepare (q : QId) (k : Cmd) (s : State) (tiles : List (Tile × List (Int × Nat))) : Except StepErr (State × Cmd × List Nat × List Nat) := do
  let x := s.cmdCtx q
  let ps ← tiles.foldlM (fun (acc : List (Tile × List Place)) t => do
    let p ← s.runPlaces x false t.2
    .ok (acc ++ [(t.1, p)])) []
  demand (ps.all (fun t => t.1.placesOk t.2))
  let governed := ((ps.filter (fun t => t.1.fe != 0)).map (fun t => sramLines t.2)).flatten.eraseDups
  let (s, k') ← feWait q k s governed
  let (s, pins) ← pinLines q k s (ps.map (·.2)).flatten
  .ok (s, { k' with quotaStall := false }, ((ps.filter (fun t => t.1.fe == 2)).map (fun t => sramLines t.2)).flatten.eraseDups, pins)

/-- Lines become empty. -/
def MemSys.emptyLines (m : MemSys) (ls : List Nat) : MemSys := ls.foldl (fun m l => m.setFull l false []) m

/-! ### Group sums (03 R71) -/

/-- The scales of an MMABS group: none under MMA, else the two scales of the row's and the column's block. -/
abbrev Scales := Option (Nat × Nat)

/-- An exact sum Σ (−1)^n m 2^e as a number and an exponent. -/
def sumFin : List FVal → Int × Int
  | [] => (0, 0)
  | .fin n m e :: vs =>
    let (z, f) := sumFin vs
    if m = 0 then (z, f)
    else if z = 0 then (if n then -(m : Int) else m, e)
    else
      let g := min e f
      let a : Int := (m * 2 ^ (e - g).toNat : Nat)
      (z * (2 ^ (f - g).toNat : Nat) + (if n then -a else a), g)
  | _ :: vs => sumFin vs

/-- Products cut to whole multiples of 2^(emax − 40) (R71). -/
def truncProducts (ps : List FVal) : List FVal :=
  let tops := ps.filterMap (fun v => match v with | .fin _ m e => if m = 0 then none else some ((flog2 m : Int) + e) | _ => none)
  match tops with
  | [] => ps
  | t :: ts =>
    let q := ts.foldl max t - 40
    ps.map (fun v => match v with
      | .fin n m e => if e < q then .fin n (m / 2 ^ (q - e).toNat) q else .fin n m e
      | v => v)

/-- The group sum of products before its rounding (R71). A sum that is exactly zero is +0, also where every product is −0 (DESIGN CHOICE, log
entry 80). Where one block is invalid and the other's scale is zero, the invalid block wins: the sum is NaN (DESIGN CHOICE, log entry 98). -/
def groupExact (trunc : Bool) (sc : Scales) (ps : List (Option FVal)) : XVal :=
  let bad := ps.any Option.isNone
  let vs := ps.filterMap id
  let infs := vs.filterMap (fun v => match v with | .inf n => some n | _ => none)
  let scale : Scale := match sc with
    | none => .val 1 0
    | some (a, b) => match Scale.ofBits a, Scale.ofBits b with
      | .invalid, _ => .invalid
      | _, .invalid => .invalid
      | .zero, _ => .zero
      | _, .zero => .zero
      | .val m e, .val m' e' => .val (m * m') (e + e')
  match scale with
  | .invalid => .nan true
  | .zero => .ex (.zero false)
  | .val sm se =>
    if bad || (infs.contains true && infs.contains false) then .nan true
    else if vs.contains .nan then .nan false
    else match infs with
      | n :: _ => .inf n false
      | [] =>
        let (z, e) := sumFin (if trunc then truncProducts vs else vs)
        .ex ⟨decide (z < 0), z.natAbs * sm, e + se, false⟩

/-- One accumulator element through the groups of a step, in ascending k (R71, R159). -/
def accumulate (trunc : Bool) (g : Nat) (sc : Scales) (t : Nat) (ps : List (Option FVal)) : Nat × Flags :=
  (chunks g (ps.length / g) ps).foldl (fun (acc : Nat × Flags) grp =>
    let (y, f1) := (groupExact trunc sc grp).finish .f32 .rne true 0
    let (z, f2) := f32AddRne acc.1 y
    (z, (acc.2.or f1).or f2)) (t, {})

/-- Kt, the size of a group and whether products are truncated, for a pair of formats (R159). -/
def mmaShape (bs : Bool) (fa fb : Nat) : Option (Nat × Nat × Bool) :=
  let both := fun (l : List Nat) => l.contains fa && l.contains fb
  if bs then (if both [13, 14] then some (64, 32, false) else if both [15] then some (128, 32, false) else none)
  else if both [4, 5] ∨ both [9] then some (64, 32, false)
  else if both [6] then some (128, 32, false)
  else if both [2, 3] then some (32, 16, true)
  else none

/-- The value of a code. -/
def codeValue (fmt x : Nat) : FVal :=
  match blockElem fmt with
  | some fe => fe.value x
  | none => match NumFmt.ofCode fmt with | some f => f.value x | none => .nan

/-! ### MMA and MMABS (R159-R164) -/

/-- An operand: rows of A or columns of B as values, which of them are poisoned, their scales. -/
structure Operand where
  vals : List (List FVal)
  pois : List Bool
  scales : List Nat
  deriving DecidableEq, Repr

/-- Elements of runs as an operand; `tr` exchanges rows and columns, to n of them. -/
def operandOf (fmt n : Nat) (tr : Bool) (runs : List (List PByte)) : Operand :=
  let es := runs.map (elemsOf (codeWidth fmt))
  let es := if tr then transposeN n es else es
  ⟨es.map (fun r => r.map (fun e => codeValue fmt e.1)), es.map (fun r => r.any (·.2)), []⟩

/-- A block operand with its scales. -/
def blockOperand (fmt : Nat) (runs scales : List (List PByte)) : Operand :=
  let o := operandOf fmt 0 false runs
  { o with pois := o.pois.zipWith (fun a b => a || b) (scales.map anyBad), scales := scales.map (fun b => leNat (pbytes b)) }

/-- The result currently on its way to an accumulator: that of the last step held, or the accumulator itself (R160). -/
def State.accRows (s : State) (core acc w : Nat) (held : List HeldStep) : List (List Nat × Bool) :=
  match (held.filter (fun h => h.acc == acc)).getLast? with
  | some h => (h.rows.zip h.poison).map (fun r => (r.1.map BitVec.toNat, r.2))
  | none =>
    let m := (s.core core).mtx
    (upFrom 0 w).map (fun r =>
      ((upFrom ((acc * 96 + r) * 128) 128).map (fun i => (Tbl.get 0 m.acc i).toNat), NatSet.has m.apois (acc * 96 + r)))

def State.modMtx (s : State) (core : Nat) (f : MtxUnit → MtxUnit) : State := s.modCore core (fun co => { co with mtx := f co.mtx })

/-- The core of a matrix queue. -/
def mtxCore (q : QId) (k : Cmd) : Nat := match q with | .core c _ => c | _ => k.pusher

/-- Fields of a matrix step word (02 R58). -/
def wordAcc (w : Nat) : Nat := slice w 25 23
def wordH1 (w : Nat) : Nat := slice w 22 17
def wordH2 (w : Nat) : Nat := slice w 16 11
def wordZ (w : Nat) : Bool := bitAt w 10
def wordBs (w : Nat) : Bool := slice w 31 26 == 2

/-- The tiles of a step, checked (R155, R159): A, B, Kt, the group size, truncation. -/
def mmaTiles (q : QId) (k : Cmd) (s : State) (w i : Nat) : Except StepErr (Tile × Tile × Nat × Nat × Bool) := do
  let bs := wordBs w
  let a ← s.tile q k i (wordH1 w)
  let b ← s.tile q k i (wordH2 w)
  match mmaShape bs a.fmt b.fmt with
  | none => .error .fault
  | some (kt, g, tr) =>
    demand (a.check .other a.fmt && b.check (if bs then .bMmabs else .bMma) b.fmt)
    demand (!b.coded || [2, 4, 5, 6].contains b.fmt)
    .ok (a, b, kt, g, tr)

/-- The runs of an operand's codes and scales. -/
def aRuns (bs : Bool) (a : Tile) (kc w kt : Nat) : List (Int × Nat) × List (Int × Nat) :=
  if bs then a.blockRuns kc w else (a.runs (codeWidth a.fmt) w kt, [])
def bRuns (bs : Bool) (b : Tile) (kc kt : Nat) : List (Int × Nat) × List (Int × Nat) :=
  if bs then b.blockRuns kc 128 else (b.runs (codeWidth b.fmt) kt 128, [])

/-- The B operand of MMA from its plain rows or, coded, from the tile that its index entry names (R164). -/
def readB (q : QId) (k : Cmd) (s : State) (bs : Bool) (b : Tile) (kc kt : Nat) : Except StepErr (Operand × State) := do
  let x := s.cmdCtx q
  let w := codeWidth b.fmt
  if b.coded then
    let ea ← asAddr b.a
    let base ← asAddr b.b
    let (plain, bad, s) ← s.readTile k x (mtxCore q k) b.fmt ea base
    let rows := chunks (128 * w / 8) kt (plain.map (fun y => (y, bad)))
    .ok (operandOf b.fmt 128 true rows, s)
  else
    let (runs, scales) := bRuns bs b kc kt
    let (rb, s) ← s.readRuns k x runs
    let (sb, s) ← s.readRuns k x scales
    .ok (if bs then blockOperand b.fmt rb sb else operandOf b.fmt 128 (!b.tr) rb, s)

/-- Form the held result of a step (R159, R161). -/
def formStep (q : QId) (k : Cmd) (s : State) (held : List HeldStep) (h : HeldStep) : Except StepErr (HeldStep × State) := do
  let w := h.word.toNat
  let bs := wordBs w
  let x := s.cmdCtx q
  let core := mtxCore q k
  let (a, b, kt, g, trunc) ← mmaTiles q k s w h.iter
  let rows := (s.core core).mtx.mark h.acc
  let (ra, sa) := aRuns bs a h.kcA rows kt
  let (rb, s) ← s.readRuns k x ra
  let (sb, s) ← s.readRuns k x sa
  let oa := if bs then blockOperand a.fmt rb sb else operandOf a.fmt rows a.tr rb
  let (ob, s) ← readB q k s bs b h.kcB kt
  let ts := s.accRows core h.acc rows held
  let z := wordZ w && h.iter % k.count 0 == 0
  let badB := ob.pois.any id
  let cols := ob.vals.zip (if bs then ob.scales.map some else ob.vals.map (fun _ => none))
  let out := (upFrom 0 rows).map (fun r =>
    let av := oa.vals.getD r []
    let t := ts.getD r ([], false)
    let es := cols.mapIdx (fun j (c : List FVal × Option Nat) =>
      let sc : Scales := c.2.map (fun y => (oa.scales.getD r 0, y))
      accumulate trunc g sc (if z then 0 else t.1.getD j 0) (av.zipWith fvMul c.1))
    (es.map (fun e => BitVec.ofNat 32 e.1), es.foldl (fun (f : Flags) e => f.or e.2) {}, oa.pois.getD r false || badB || (!z && t.2)))
  let fl := out.foldl (fun (f : Flags) r => (f.or r.2.1).or { poison := r.2.2 }) {}
  .ok ({ h with rows := out.map (·.1), poison := out.map (·.2.2), status := addFlags 0 fl }, s)

/-- Where the index entry and the bytes of a coded tile lie: the runs that R162 governs. -/
def codedRuns (q : QId) (k : Cmd) (s : State) (b : Tile) : Except StepErr (List (Int × Nat)) := do
  let x := s.cmdCtx q
  let ea ← asAddr b.a
  let ps ← s.runPlaces x false [(b.a, 8)]
  let (_, k) ← feWait q k s (if b.fe = 0 then [] else sramLines ps)
  let (eb, _) ← s.engRead k x ea 8
  let e := leNat (pbytes eb)
  .ok (if anyBad eb || entryOk e == false then [(b.a, 8)] else [(b.a, 8), (b.b + (entryOff e : Nat), entryLen e)])

/-- Results that earlier commands of the queue still hold on an accumulator. -/
def Queue.heldBefore (qu : Queue) (uid acc : Nat) : Bool :=
  (qu.cmds.takeWhile (fun j => j.uid != uid)).any (fun j => j.held.any (fun h => h.acc == acc))

/-- Wait until every earlier step on an accumulator has been committed (R160). -/
def committed (q : QId) (k : Cmd) (s : State) (acc : Nat) : Except StepErr Unit :=
  if (s.queue q).heldBefore k.uid acc || k.held.any (fun h => h.acc == acc) then .error (.wait s) else .ok ()

/-- Steps fetched or computed and not committed at one time: the array's, the checker's and two more (R163). -/
def heldDepth : Nat := 4

/-- The cursors of handles after a step that reads through them (R154). -/
def bumpCursors (kt : Nat) (t : Tbl Nat) (hs : List (Nat × Nat)) : Tbl Nat :=
  hs.foldl (fun t e => Tbl.set 0 t e.1 ((e.2 + 1) % (256 / kt))) t

/-- MMA and MMABS (R159, R160). -/
def mmaE (bs : Bool) (acc : BitVec 3) (hA hB : BitVec 6) (z : Bool) : EngOp := fun q k s => do
  let word := BitVec.ofNat 32 (encMtx (if bs then 2 else 1) acc.toNat hA.toNat hB.toNat z.toNat 0 0)
  let core := mtxCore q k
  if (s.queue q).heldBefore k.uid acc.toNat ∨ heldDepth ≤ ((s.queue q).cmds.map (fun j => j.held.length)).sum then .error (.wait s)
  else
    let m := (s.core core).mtx
    let (a, b, kt, _, _) ← mmaTiles q k s word.toNat k.iter
    let rows := m.mark acc.toNat
    let kcA := m.cursor hA.toNat
    let kcB := m.cursor hB.toNat
    let ra := aRuns bs a kcA rows kt
    let rb := bRuns bs b kcB kt
    let runsB ← if b.coded then codedRuns q k s b else .ok (rb.1 ++ rb.2)
    let (s, k, empties, pins) ← prepare q k s [(a, ra.1 ++ ra.2), (b, runsB)]
    let h : HeldStep := ⟨acc.toNat, [], [], 0, empties, pins, word, k.iter, k.step, kcA, kcB, false⟩
    let (h, s) ← match formStep q k s k.held h with
      | .ok r => .ok r
      | .error e => .error (.after { s with ms := s.ms.unpin k.uid pins } k e)
    let s := if bs then s.modMtx core (fun m => { m with kc := bumpCursors kt m.kc [(hA.toNat, kcA), (hB.toNat, kcB)] }) else s
    .ok (s, { k with held := k.held ++ [h] })

/-- Commit a held result (R160): rows, poison and status; its lines are emptied and unpinned. -/
def State.commitHeld (s : State) (q : QId) (k : Cmd) (h : HeldStep) : State :=
  let core := mtxCore q k
  let s := s.modCore core (fun co =>
    let m := co.mtx
    let rows := h.rows.mapIdx (fun r es => (r, es))
    let acc := rows.foldl (fun t r => (r.2.mapIdx (fun j e => (j, e))).foldl (fun t e => Tbl.set 0 t ((h.acc * 96 + r.1) * 128 + e.1) e.2) t) m.acc
    let pois := (h.poison.mapIdx (fun r b => (r, b))).foldl (fun t e => NatSet.mark t (h.acc * 96 + e.1) e.2) m.apois
    { co with mtx := { m with acc := acc, apois := pois, aerr := NatSet.clearRange m.aerr (h.acc * 96) (h.acc * 96 + h.rows.length) } })
  let s : State := { s with ms := (s.ms.unpin k.uid h.pins).emptyLines h.empties }
  s.modCmd q k.uid (fun k => { k with held := k.held.tail, status := joinStatus k.status h.status })

/-- Form again the results that follow a failed one on its accumulator, in step order (R160, R172): the results up to a step that fails, if one
does, and that step with its failure. -/
def reform (q : QId) (k : Cmd) (acc : Nat) : List HeldStep → List HeldStep → State → List HeldStep × State × Option (HeldStep × StepErr)
  | done, [], s => (done, s, none)
  | done, h :: hs, s =>
    if h.acc = acc then
      match formStep q k s done h with
      | .ok (h', s) => reform q k acc (done ++ [h']) hs s
      | .error e => (done, s, some (h, e))
    else reform q k acc (done ++ [h]) hs s

/-- The comparison of a step fails (R172): once, the step runs again and RERUN counts it; a second time, the task is aborted or the context
lost, and the core is suspect (01 R22, 24 R386). -/
def State.checkFails (s : State) (q : QId) (k : Cmd) (h : HeldStep) : State :=
  if h.again then (s.suspect (mtxCore q k)).abortOrLose (mtxCore q k) 11 false
  else
    let k := { k with status := addRerun k.status }
    match reform q k h.acc [] ({ h with again := true } :: k.held.tail) s with
    | (held, s', none) => s'.putCmd q { k with held := held }
    | (held, s', some (f, e)) =>
      if e.waitsChannel then s
      else
        -- the command stops at the step that failed: its result and those behind it are discarded, those before it stay
        let s := { s' with ms := (k.held.drop held.length).foldl (fun (m : MemSys) (h : HeldStep) => m.unpin k.uid h.pins) s'.ms }
        let k := { k with held := held, iter := f.iter, step := f.step, stage := 3 }
        stepFails q e k (s.putCmd q k)

/-- The oldest held result of a core's commands, with its command. -/
def Queue.oldestHeld (qu : Queue) : Option (Cmd × HeldStep) := qu.cmds.findSome? (fun k => k.held.head?.map (fun h => (k, h)))

/-- MATRIX_STEP_CHECK (R172): the oldest held result passes its check, or fails. -/
def execMatrixStepCheck (core : Nat) (ok : Bool) (s : State) : Out :=
  eventStep s (fun s =>
    let q := QId.core core 1
    match (s.queue q).oldestHeld with
    | some (k, h) => if ok then (s.commitHeld q k h).drainSeen k.pusher else s.checkFails q k h
    | none => s)

/-- Every held result committed, as a later step may find them. The fuel is their number. -/
def State.commitAll (s : State) (q : QId) : Nat → State
  | 0 => s
  | f + 1 => match (s.queue q).oldestHeld with
    | some (k, h) => (s.commitHeld q k h).commitAll q f
    | none => s

/-! ### Classes (R158) -/

/-- A start word acts where i0 = 0. -/
def atStart (op : EngOp) : EngOp := fun q k s => if k.iter % k.count 0 = 0 then op q k s else .ok (s, k)
/-- An end word acts where i0 = n0 − 1. -/
def atEnd (op : EngOp) : EngOp := fun q k s => if k.iter % k.count 0 + 1 = k.count 0 then op q k s else .ok (s, k)

/-! ### Accumulator words (R167-R171, R173) -/

/-- Write one row of an accumulator with its poison. -/
def MtxUnit.setRow (m : MtxUnit) (acc r : Nat) (es : List Nat) (bad : Bool) : MtxUnit :=
  { m with
    acc := (es.mapIdx (fun j e => (j, e))).foldl (fun t e => Tbl.set 0 t ((acc * 96 + r) * 128 + e.1) (BitVec.ofNat 32 e.2)) m.acc
    apois := NatSet.mark m.apois (acc * 96 + r) bad
    aerr := NatSet.mark m.aerr (acc * 96 + r) false }


/-- AZERO (R167). -/
def azeroE (acc : BitVec 3) : EngOp := atStart (fun q k s => do
  committed q k s acc.toNat
  .ok (s.modMtx (mtxCore q k) (fun m => (upFrom 0 96).foldl (fun m r => m.setRow acc.toNat r (List.replicate 128 0) false) m), k))

/-- Read a tile of plain elements: rows of codes with their poison. -/
def readPlain (q : QId) (k : Cmd) (s : State) (t : Tile) (r : Nat) : Except StepErr (List (List (Nat × Bool)) × State × Cmd) := do
  let w := codeWidth t.fmt
  let runs := t.runs w r 128
  let (s, k, empties, pins) ← prepare q k s [(t, runs)]
  let (bs, s) ← match s.readRuns k (s.cmdCtx q) runs with
    | .ok r => .ok r
    | .error e => .error (.after { s with ms := s.ms.unpin k.uid pins } k e)
  let es := bs.map (elemsOf w)
  .ok (if t.tr then transposeN r es else es, { s with ms := (s.ms.unpin k.uid pins).emptyLines empties }, k)

/-- ALOAD (R167): each element exactly converted to f32. -/
def aloadE (acc : BitVec 3) (h : BitVec 6) : EngOp := atStart (fun q k s => do
  committed q k s acc.toNat
  let t ← s.tile q k k.iter h.toNat
  demand ([1, 2, 3].contains t.fmt && t.check .other t.fmt)
  let (rows, s, k) ← readPlain q k s t ((s.core (mtxCore q k)).mtx.mark acc.toNat)
  let f := (NumFmt.ofCode t.fmt).getD (.flt .f32)
  let out := rows.map (fun r => (r.map (fun e => cvtElem f (.flt .f32) (t.fmt == 1) .rne true 0 e.1), r.any (·.2)))
  let fl := out.foldl (fun (fl : Flags) r => (r.1.foldl (fun (fl : Flags) e => fl.or e.2) fl).or { poison := r.2 }) {}
  let s := s.modMtx (mtxCore q k) (fun m => (out.mapIdx (fun i r => (i, r))).foldl (fun m r => m.setRow acc.toNat r.1 (r.2.1.map (·.1)) r.2.2) m)
  .ok (s, k.flag fl))

/-- Every byte of runs of elements, at the address of the run. -/
def writeRuns (x : Nat) (runs : List (Int × Nat)) (es : List (List PByte)) (s : State) (k : Cmd) : StepRes :=
  (runs.zip es).foldlM (fun (acc : State × Cmd) r => do
    let a ← asAddr r.1.1
    acc.1.engWrite acc.2 x a r.2) (s, k)

/-- ASTORE (R168, R174). -/
def astoreE (acc : BitVec 3) (h : BitVec 6) (n : BitVec 8) : EngOp := atEnd (fun q k s => do
  committed q k s acc.toNat
  let x := s.cmdCtx q
  let core := mtxCore q k
  let t ← s.tile q k k.iter h.toNat
  let st : Int := (t.staddr : Int) + k.stoff
  demand (!k.statusBit || st % 8 == 0)
  demand (t.check .other n.toNat && t.fe != 2)
  let w := codeWidth n.toNat
  let rows := (s.core core).mtx.mark acc.toNat
  let runs := t.runs w rows 128
  let ps ← s.runPlaces x k.task.isSome runs
  demand (t.placesOk ps)
  let f := (NumFmt.ofCode n.toNat).getD (.flt .f32)
  let out := (s.accRows core acc.toNat rows []).map (fun r =>
    r.1.map (fun e => let (y, fl) := cvtElem (.flt .f32) f (n.toNat == 1) .rne true 0 e; ((y, r.2), fl)))
  let codes := out.map (fun r => r.map (·.1))
  let es := (if t.tr then transposeN 128 codes else codes).map (bytesOf w)
  let (s, k) ← writeRuns x runs es s (k.flag (out.foldl (fun (fl : Flags) r => r.foldl (fun (fl : Flags) e => fl.or e.2) fl) {}))
  let s := if t.fe = 1 then { s with ms := (sramLines ps).foldl (fun (m : MemSys) l => m.setFull l true [k.uid]) s.ms } else s
  .ok (s, { k with statAddr := some (st % (2 ^ 64 : Nat)).toNat }))

/-- Change every row below the watermark (R169). -/
def mapRows (q : QId) (k : Cmd) (acc : Nat) (bad : Bool) (f : Nat → Nat → Nat × Flags) (s : State) : State × Cmd :=
  let core := mtxCore q k
  let rows := (s.accRows core acc ((s.core core).mtx.mark acc) []).map (fun r => (r.1.mapIdx (fun j e => f j e), r.2 || bad))
  let fl := rows.foldl (fun (fl : Flags) r => (r.1.foldl (fun (fl : Flags) e => fl.or e.2) fl).or { poison := r.2 }) {}
  (s.modMtx core (fun m => (rows.mapIdx (fun i r => (i, r))).foldl (fun m r => m.setRow acc r.1 (r.2.1.map (·.1)) r.2.2) m), k.flag fl)

/-- ASCALE (R169). -/
def ascaleE (acc : BitVec 3) (h : BitVec 6) : EngOp := atEnd (fun q k s => do
  committed q k s acc.toNat
  let t ← s.tile q k k.iter h.toNat
  demand (t.fmt == 1 && t.check .other 1)
  let (rows, s, k) ← readPlain q k s t 1
  let sv := rows.headD []
  .ok (mapRows q k acc.toNat (sv.any (·.2)) (fun j e =>
    (fvMulX (FFmt.f32.value e) (FFmt.f32.value (sv.getD j (0, false)).1)).finish .f32 .rne true 0) s))

/-- ACVT (R169): to the format and back, which is exact. -/
def acvtE (acc : BitVec 3) (n : BitVec 8) : EngOp := atEnd (fun q k s => do
  committed q k s acc.toNat
  let f := (NumFmt.ofCode n.toNat).getD (.flt .f32)
  .ok (mapRows q k acc.toNat false (fun _ e =>
    let (y, fl) := f.convert .rne true 0 (FFmt.f32.value e)
    (((NumFmt.flt .f32).convert .rne true 0 (f.value y)).1, fl)) s))

/-- ACHK (R173): a row with an uncorrectable error is poisoned and reported; a correct accumulator keeps its values. -/
def achkE (acc : BitVec 3) : EngOp := atEnd (fun q k s => do
  committed q k s acc.toNat
  let lost := (upFrom (acc.toNat * 96) 96).filter (fun r => NatSet.has (s.core (mtxCore q k)).mtx.aerr r)
  if lost = [] then .ok (s, k)
  else .ok (s.modMtx (mtxCore q k) (fun m => { m with
    apois := lost.foldl (fun t r => NatSet.mark t r true) m.apois
    aerr := NatSet.clearRange m.aerr (acc.toNat * 96) (acc.toNat * 96 + 96) }), k.flag { poison := true }))

/-- AWM (R170). -/
def awmE (acc : BitVec 3) (n : BitVec 8) : EngOp := fun q k s => do
  committed q k s acc.toNat
  .ok (s.modMtx (mtxCore q k) (fun m => { m with wm := Tbl.set 96 m.wm acc.toNat n.toNat }), k)

/-- AWAIT (R171): its rows are committed, and what the command stored stands before its later steps. -/
def awaitE (acc : BitVec 3) (_n : BitVec 8) : EngOp := fun q k s => do
  committed q k s acc.toNat
  .ok ({ s with ms := s.ms.settleOwn k.uid }, k)

/-! ### Handles and tables (R156, R157, R165) -/

/-- Does a step that is not committed, and may run again, use handle h (R156)? -/
def Queue.uses (qu : Queue) (h : Nat) : Bool :=
  qu.cmds.any (fun k => k.held.any (fun e => wordH1 e.word.toNat == h || wordH2 e.word.toNat == h))

/-- An image at the current address of a stream: poison is consumed. -/
def readImage (q : QId) (k : Cmd) (s : State) (st : BitVec 2) (al n : Nat) : Except StepErr (List Byte × State) := do
  let a ← k.at_ st.toNat al
  let (bs, s) ← s.engRead k (s.cmdCtx q) a n
  .ok (← s.consume (s.cmdCtx q) a bs, s)

/-- HSET (R156): KC becomes 0. -/
def hsetE (h : BitVec 6) (st : BitVec 2) : EngOp := fun q k s => do
  if (s.queue q).uses h.toNat then .error (.wait s)
  else
    let (bs, s) ← readImage q k s st 64 64
    .ok (s.modMtx (mtxCore q k) (fun m =>
      { m with handles := Tbl.set 0 m.handles h.toNat (leNat bs), kc := Tbl.set 0 m.kc h.toNat 0 }), k)

/-- HVER (R157). -/
def hverE (h : BitVec 6) (n : BitVec 8) : EngOp := fun q k s =>
  if (s.queue q).uses h.toNat then .error (.wait s) else .ok (s, { k with hver := Tbl.set 0 k.hver h.toNat (n.toNat + 1) })

/-- CTBL (R165): the table is valid or invalid from here on. -/
def ctblE (t : BitVec 8) (st : BitVec 2) : EngOp := fun q k s => do
  let core := mtxCore q k
  if (s.queue q).cmds.any (fun j => j.held.any (fun e => bitAt ((s.core core).mtx.handle (wordH2 e.word.toNat)) 126)) then .error (.wait s)
  else
    let (bs, s) ← readImage q k s st 8 392
    .ok (s.modMtx core (fun m => { m with tabs := Tbl.set none m.tabs t.toNat (readTable bs) }), k)

/-! ### The words -/

def execMma (acc : BitVec 3) (hA hB : BitVec 6) (z : Bool) (s : State) : Out := stepWord isMtx (mmaE false acc hA hB z) s
def execMmabs (acc : BitVec 3) (hA hB : BitVec 6) (z : Bool) (s : State) : Out := stepWord isMtx (mmaE true acc hA hB z) s
def execAzero (acc : BitVec 3) (s : State) : Out := stepWord isMtx (azeroE acc) s
def execAload (acc : BitVec 3) (h : BitVec 6) (s : State) : Out := stepWord isMtx (aloadE acc h) s
def execAstore (acc : BitVec 3) (h : BitVec 6) (n : BitVec 8) (s : State) : Out := stepWord isMtx (astoreE acc h n) s
def execAwm (acc : BitVec 3) (n : BitVec 8) (s : State) : Out := stepWord isMtx (awmE acc n) s
def execAwait (acc : BitVec 3) (n : BitVec 8) (s : State) : Out := stepWord isMtx (awaitE acc n) s
def execAscale (acc : BitVec 3) (h : BitVec 6) (s : State) : Out := stepWord isMtx (ascaleE acc h) s
def execAcvt (acc : BitVec 3) (n : BitVec 8) (s : State) : Out := stepWord isMtx (acvtE acc n) s
def execAchk (acc : BitVec 3) (s : State) : Out := stepWord isMtx (achkE acc) s
def execHset (h : BitVec 6) (st : BitVec 2) (s : State) : Out := stepWord isMtx (hsetE h st) s
def execHver (h : BitVec 6) (n : BitVec 8) (s : State) : Out := stepWord isMtx (hverE h n) s
def execCtbl (t : BitVec 8) (st : BitVec 2) (s : State) : Out := stepWord isMtx (ctblE t st) s

/-! ### Waits that an event ends -/

/-- The matrix step words. -/
def mtxOp : Instr → Option EngOp
  | .mma acc hA hB z => some (mmaE false acc hA hB z)
  | .mmabs acc hA hB z => some (mmaE true acc hA hB z)
  | .azero acc => some (azeroE acc)
  | .aload acc h => some (aloadE acc h)
  | .astore acc h n => some (astoreE acc h n)
  | .awm acc n => some (awmE acc n)
  | .await acc n => some (awaitE acc n)
  | .ascale acc h => some (ascaleE acc h)
  | .acvt acc n => some (acvtE acc n)
  | .achk acc => some (achkE acc)
  | .hset h st => some (hsetE h st)
  | .hver h n => some (hverE h n)
  | .ctbl t st => some (ctblE t st)
  | _ => none

/-- A matrix command knows what its steps write, each committed before the next one (R160). -/
def State.mtxAhead (s : State) (q : QId) : State :=
  s.lookAhead mtxOp (fun s => s.commitAll q ((s.queue q).cmds.map (fun k => k.held.length)).sum) q

/-- The step that a core's matrix command stands at tries again (R162, R163). -/
def State.retryMatrix (s : State) (core : Nat) : State :=
  let q := QId.core core 1
  match (s.queue q).running with
  | some k =>
    match (decodeStep q (k.body.getD k.step 0).toNat).bind mtxOp with
    | some op => ((s.mtxAhead q).engineTurn q op).forgetAhead q
    | none => s
  | none => s

/-- PIN_WAIT_RELEASE (R163): the step that waits for pins goes on once its lines can be pinned. -/
def execPinWaitRelease (core : Nat) (s : State) : Out := eventStep s (fun s => s.retryMatrix core)

/-- PIN_TIMEOUT (R163; 24 R376): after 2^20 cycles of a quota stall the core takes a pin-timeout trap, and the command stops at the step. -/
def execPinTimeout (core : Nat) (s : State) : Out :=
  eventStep s (fun s =>
    match (s.queue (.core core 1)).running with
    | some k => if k.quotaStall && (s.queue (.core core 1)).canRun k then
        (s.modCmd (.core core 1) k.uid (fun k => { k with quotaStall := false })).faultAt (.core core 1) k.uid 8 (BitVec.ofNat 64 k.num) 0
      else s
    | none => s)

end Sys2Proof.Machine
end

