-- ==== Sys2Proof/Machine/Link.lean ====
section
/-!
DEFINITION. Sys2Proof/Machine/Link.lean: the torus and ring links: ports and routes (22 R362), flits (R360), delivery and replay (R361), the
messages that go out (log entry 92).
-/
namespace Sys2Proof.Machine

/-! ### Routes (R362) -/

/-- Torus X, Y and Z of a W4 (15 R276). -/
def w4Axis (w d : Nat) : Nat := match d with | 0 => slice w 23 16 | 1 => slice w 15 8 | _ => slice w 7 0

/-- The way along one dimension, plus or minus: the shorter way round, on a tie plus; none where the two coordinates agree. -/
def axisWay (n a b : Nat) : Option Bool :=
  if a = b then none
  else some (decide ((b + n - a % n) % n ≤ (a + n - b % n) % n))

/-- The port by which traffic for a W4 leaves another: first X, then Y, then Z. None where it is there. -/
def route (size : Nat → Nat) (from_ to_ : Nat) : Option Nat :=
  ([0, 1, 2].findSome? (fun d => (axisWay (size d) (w4Axis from_ d) (w4Axis to_ d)).map (fun plus => if plus then 2 * d else 2 * d + 1)))

/-- The port by which this W4's traffic for another leaves. -/
def State.routeTo (s : State) (to_ : Nat) : Option Nat := route Config.torusSize s.mod.self to_

/-! ### Flits (R360) -/

/-- A flit: the header, the 240 bytes of payload, the CRC-64 of both. -/
def flitOf (header : Nat) (payload : List Byte) : List Byte :=
  let body := leBytes header 8 ++ payload
  body ++ leBytes (crc64 body) 8

/-- A flit is whole: 256 bytes whose CRC-64 holds. -/
def flitOk (flit : List Byte) : Bool := flit.length == 256 && crc64 (flit.take 248) == leNat (flit.drop 248)

/-- The header and the payload of a flit. -/
def flitHeader (flit : List Byte) : Nat := leNat (flit.take 8)
def flitPayload (flit : List Byte) : List Byte := (flit.drop 8).take 240

/-- A port puts a payload on its link, and keeps the flit until the far end acknowledges it (R361); a link that is down carries nothing. What the
header holds besides is free (log entry 92). -/
def State.sendFlit (s : State) (p : Nat) (payload : List Byte) : State :=
  let v := s.port p
  if v.down then s
  else
    let f := flitOf (Config.flitHeader s.fresh) payload
    { s with fresh := s.fresh + 1 }.setPort p { v with wire := v.wire ++ [f], replay := v.replay ++ [f] }

/-- A message's bytes on a link, 240 to a flit. -/
def State.sendBytes (s : State) (p : Nat) (bytes : List Byte) : State :=
  (payloadsOf bytes).foldl (fun s c => s.sendFlit p c) s

/-! ### The loss of a link and of a W4 (R361; 13 R255) -/

/-- Link loss of a W4 for one context whose launch holds it (13 R255; 16 R305; 21 R355). -/
def State.linkLoss (s : State) (n w4 : Nat) (ranks : List Nat) : State :=
  match (s.ctx n).launch with
  | some l =>
    if (s.ctx n).st = .empty ∨ !(l.w4s.any (fun e => w4Coord e == w4)) then s
    else
      let s := s.record n ⟨6, 0, 0, 0, BitVec.ofNat 64 w4⟩
      let s := (s.ctx n).rings.foldl (fun s e => match e.2 with
        | some r => if r.chan ∧ bitAt r.orole 1 ∧ r.chEnd.peer = w4 then
            (match s.ring n e.1 with | some r => s.voidUnpublished n e.1 r | none => s) else s
        | none => s) s
      s.loseRanks n ranks
  | none => s

/-- A W4 counts as failed. -/
def State.loseW4 (s : State) (w4 : Nat) (ranks : List Nat) : State :=
  (upFrom 0 Config.contexts).foldl (fun s n => s.linkLoss n w4 ranks)
    { s with mod := { s.mod with failed := NatSet.mark s.mod.failed w4 true } }

/-- The W4s of the launches of this W4 to which traffic leaves by a port: those to which no route is left when it is down (R362). -/
def State.beyond (s : State) (port : Nat) : List Nat :=
  (((upFrom 0 Config.contexts).map (fun n => match (s.ctx n).launch with
    | some l => (l.w4s.map w4Coord).filter (fun w => s.routeTo w == some port)
    | none => [])).flatten).eraseDups

/-- A link goes down (R361): what was sent and not acknowledged is never delivered, and each W4 to which no route is left counts as failed (13
R255): those beyond the port, and `lost`, whose route is cut further on. -/
def State.portDown (s : State) (port : Nat) (lost ranks : List Nat) : State :=
  let s := s.setPort port { s.port port with down := true, replay := [] }
  ((s.beyond port ++ lost).eraseDups).foldl (fun s w => s.loseW4 w ranks) s

/-! ### Receiving (R361) -/

/-- What the header of a flit tells the sender here: the flits that the far end has received are kept no more; where it has rejected one, they are
replayed from there. -/
def Port.heard (p : Port) (header : Nat) : Port :=
  let p := { p with replay := p.replay.drop (Config.flitAcks header) }
  if Config.flitRejects header then { p with wire := p.wire ++ p.replay } else p

/-- A flit that has been delivered: what it carries is for this W4, or goes on its way. -/
def State.deliverFlit (s : State) (port : Nat) (flit : List Byte) : State :=
  let mine := fun (s : State) => s.setPort port { s.port port with got := (s.port port).got ++ [flitPayload flit] }
  if 6 ≤ port then mine s
  else match s.routeTo (Config.flitFor (flitHeader flit)) with
    | some p => s.sendFlit p (flitPayload flit)
    | none => mine s

/-- FLIT_RECEIVE (R360, R361): a flit whose CRC fails is rejected, with every flit after it until it is replayed; so flits are delivered once each
and in send order. One that fails 16 times in a row takes the link down; a link that is down delivers nothing, nor does any before bring-up is
complete (R369). Which flit is the one replayed, its
header says (log entry 92). -/
def execFlitReceive (port : Nat) (flit : List (BitVec 8)) (s : State) : Out :=
  eventStep s (fun s =>
    let p := s.port port
    let next := !p.rejects || Config.flitReplayed (flitHeader flit)
    if s.mod.ready = false ∨ p.down ∨ next = false then s
    else if flitOk flit then (s.setPort port ({ p with fails := 0, rejects := false }.heard (flitHeader flit))).deliverFlit port flit
    else
      let n := p.fails + 1
      if 16 ≤ n then (s.setPort port { p with fails := n, rejects := true }).portDown port [] []
      else s.setPort port { p with fails := n, rejects := true })

/-! ### Sending -/

/-- The port by which a message leaves: a carousel's by the ring port of its die (21 R345), one for another W4 by its route. What is for the
host or for this W4 takes no link. -/
def State.portOf (s : State) : OutMsg → Option Nat
  | .carousel die _ _ => some (6 + die)
  | .store w4 _ _ _ => s.routeTo w4
  | .storeAck w4 _ => s.routeTo w4
  | .lease w4 _ _ _ _ => s.routeTo w4
  | .launch to_ _ _ _ _ _ => s.routeTo (w4Coord to_)
  | .report to_ _ => s.routeTo (w4Coord to_)
  | .rise to_ => s.routeTo (w4Coord to_)
  | .fall to_ _ _ _ => s.routeTo (w4Coord to_)
  | .loss w4 _ _ => s.routeTo w4
  | .chData w4 _ _ _ _ => s.routeTo w4
  | .chPublish w4 _ _ _ _ => s.routeTo w4
  | .chAdvert w4 _ _ => s.routeTo w4
  | .data _ _ => none

/-- The bytes of a message: a carousel's as 21 R353 lays them out; the layout of the others is not given (log entry 92). -/
def messageBytes (f : Nat) : OutMsg → List Byte
  | .carousel _ wire _ => wire
  | _ => Config.messageBytes f

/-- A port takes the oldest message that leaves by it; none before bring-up is complete (R369). -/
def State.transmit (s : State) (p : Nat) : State :=
  if s.mod.ready = false then s
  else match takeFirst (fun m => s.portOf m == some p) s.outbox with
  | some (m, rest) => ({ s with outbox := rest, fresh := s.fresh + 1 } : State).sendBytes p (messageBytes s.fresh m)
  | none => s

end Sys2Proof.Machine
end

