-- ==== Sys2Proof/Machine/Module.lean ====
section
/-!
DEFINITION. Sys2Proof/Machine/Module.lean: what reaches the W4 from outside its contexts: links (22 R360-R363, 13 R253-R255, 24 R389), the host
port (22 R364-R367), lane repair (R368), bring-up (R369), wear (25 R394-R402), the L2's own write-back (12 R247), loss of power.
-/
namespace Sys2Proof.Machine

/-! ### Links -/

/-- LINK_DOWN (R361; 13 R255): the port is down; `lost` are W4s to which no route is left beyond those that the port leads to, and `ranks` the
ring ranks of the W4s lost (21 R345). -/
def execLinkDown (port : Nat) (lost : List (BitVec 24)) (ranks : List Nat) (s : State) : Out :=
  eventStep s (fun s => s.portDown port (lost.map BitVec.toNat) ranks)

/-- LOSS_MESSAGE (24 R389): the loss of a context on another W4 of its launch ends its part here, with class 16. -/
def execLossMessage (ctx : Nat) (w4 : BitVec 24) (s : State) : Out :=
  eventStep s (fun s =>
    let x := s.ctx ctx
    let member : Bool := match x.launch with | some l => l.w4s.any (fun e => w4Coord e == w4.toNat) | none => false
    if member ∧ (x.st = .curtain ∨ x.st = .running ∨ x.st = .saved) then s.loseContext ctx 16 0 0 [] w4.toNat else s)

/-- A store of an agent of another W4 is performed at the home (13 R252, R254), at logical time ts or later, and acknowledged with its stamp; the
stores of a W4 that has failed come to nothing (R255), and a lane repair is waited for (22 R368). -/
def State.storeAtHome (s : State) (w4 pa ts : Nat) (data : List Byte) : State :=
  if NatSet.has s.mod.failed w4 ∨ s.ms.pausedIn (physPlace pa) data.length then s
  else
    let seq := s.seqNo + 1
    let s := s.performMet none [(pa, data.length)]
    let s := { s with ms := s.ms.storeOrd (physPlace pa) data seq 0, seqNo := seq }
    let r := (linesOf pa data.length).foldl (fun (acc : Stamps × Nat) l =>
      let r := (acc.1.get (.line l)).store acc.2
      (acc.1.put (.line l) r.1, r.2)) (s.stamps, ts)
    { s with stamps := r.1 }.send (.storeAck w4 r.2)

/-- A load of an agent of another W4 takes a lease on a line of this home, or renews it (R252, R253). -/
def State.leaseAtHome (s : State) (w4 pa ts : Nat) : State :=
  let line := pa / 64 * 64
  if NatSet.has s.mod.failed w4 ∨ s.ms.pausedIn (physPlace line) 64 then s
  else
  let r := (s.stamps.get (.line line)).load ts
  let (data, s) := { s with stamps := s.stamps.put (.line line) r.1 }.readPlace .device (physPlace line) 64
  s.send (.lease w4 line data (s.stamps.get (.line line)) (s.ms.poisoned (physPlace line)))

/-- REMOTE_ACCESS_AT_HOME (13 R253, R254): a store is performed and acknowledged; a read returns the line under a lease. Before bring-up is complete
the module serves BAR0 only (22 R369). -/
def execRemoteAccessAtHome (acc : HomeAccess) (s : State) : Out :=
  eventStep s (fun s =>
    if s.mod.ready = false then s
    else match acc with
      | .store w4 pa ts data => s.storeAtHome w4 pa ts data
      | .read w4 pa ts => s.leaseAtHome w4 pa ts)

/-- LEASE_EXPIRY (13 R253): the copy of a remote line is dropped. -/
def execLeaseExpiry (line : Nat) (s : State) : Out :=
  eventStep s (fun s => { s with ms := { s.ms with leases := s.ms.leases.filter (fun l => l.line != line) } })

/-- DIRTY_SECTOR_WRITE_BACK (12 R247): it waits for a lane repair of its channel (22 R368). -/
def execDirtySectorWriteBack (sector : Nat) (s : State) : Out :=
  eventStep s (fun s => if s.ms.heldDirty sector then s else { s with ms := s.ms.clean sector })

/-! ### The host (22 R364) -/

/-- The number that stands for the host where a message names a W4. -/
def hostW4 : Nat := 2 ^ 24

/-- HOST_MEM_ACCESS (R364; 13 R252): one point in the global order; a read takes as many bytes as `data` has. Device memory is HBM; an access to a
channel that pauses waits (R368). -/
def execHostMemAccess (write : Bool) (addr : Nat) (data : List (BitVec 8)) (s : State) : Out :=
  eventStep s (fun s =>
    if s.mod.ready = false ∨ !isHbm (addr + (data.length - 1)) ∨ s.ms.pausedIn (physPlace addr) data.length then s
    else if write then
      let s := s.performMet none [(addr, data.length)]
      { s with ms := s.ms.storeOrd (physPlace addr) data (s.seqNo + 1) 0, seqNo := s.seqNo + 1 }.stampStoreLines .device addr data.length
    else
      let (bs, s) := s.readPlace .device (physPlace addr) data.length
      s.send (.data hostW4 bs))

/-! ### Lane repair (R368) -/

/-- LANE_REPAIR: one of the stack's repairs is used, and the channel pauses; REPL is raised with the last one. A stack with none left keeps
the lane in service. -/
def execLaneRepair (stack channel : Nat) (s : State) : Out :=
  eventStep s (fun s =>
    let left := s.mod.lrep.getD stack 0
    if left = 0 then s
    else { s with
      mod := { s.mod with lrep := s.mod.lrep.set stack (left - 1), repl := s.mod.repl || left == 1 }
      ms := { s.ms with paused := s.ms.paused ++ [(stack, channel)] } })

/-- The stores, and the accesses behind them, that waited for a lane repair take their places. -/
def State.afterRepair (s : State) : State :=
  s.cores.foldl (fun s e =>
    let s := (List.range 4).foldl (fun s k => s.advanceStores (.cluster e.1 k) (s.storesOf (.cluster e.1 k)).length) s
    (s.advanceStores (.seq e.1) (s.storesOf (.seq e.1)).length).drainChecks e.1 e.2.checkQ.length) s

/-- LANE_REPAIR_DONE: the channel goes on. -/
def execLaneRepairDone (stack channel : Nat) (s : State) : Out :=
  eventStep s (fun s => ({ s with ms := { s.ms with paused := s.ms.paused.filter (· != (stack, channel)) } } : State).afterRepair)

/-! ### Wear (25 R394-R402) -/

/-- 2^(t / step) × 2^128, t and step in thousandths of a degree: exact for whole exponents down to -128; an irrational power is cut to 64 bits
below its leading one (DESIGN CHOICE, log entry 11). -/
def wearExp2 (t : Int) (step : Nat) : Nat :=
  let frac := (t % (step : Int)).toNat * 2 ^ 64 / step
  let e := if frac = 0 then 2 ^ 64 else exp2Frac frac 64 64 guardBits
  let q := t / (step : Int) + 64
  if 0 ≤ q then e * 2 ^ q.toNat else e / 2 ^ (-q).toNat

/-- What a sample adds to WBT (R394): h × d × (V / 0.75)^4 × 2^((T − 85) / 10) WU. -/
def sampleWbt (r : WearReading) : Nat := r.dt * r.duty * r.volt ^ 4 * 10 ^ 6 * wearExp2 (r.temp - 85000) 10000
/-- What a sample adds to WEM (R394): h × ρ^2 × 2^((T − 85) / 8) WU. -/
def sampleWem (r : WearReading) : Nat := r.dt * r.rho ^ 2 * 750 ^ 4 * wearExp2 (r.temp - 85000) 8000
/-- A monitor alarm (R395). -/
def sampleAlarm (r : WearReading) : Bool := decide (600 < r.drift) || r.open_

/-- The order of the states (R398). -/
def WearState.rank : WearState → Nat
  | .spare => 0 | .healthy => 0 | .derated => 1 | .drained => 2 | .retiring => 3 | .retired => 4

/-- The state that a record's triggers call for (R397, R398), forward only. -/
def Wrec.next (w : Wrec) : WearState :=
  let to_ : WearState :=
    if w.alarm ∨ 100000 * wearUnit ≤ w.wear then .retiring
    else if w.susp ∨ 95000 * wearUnit ≤ w.wear then .drained
    else if 80000 * wearUnit ≤ w.wear then .derated
    else .healthy
  if w.st.rank < to_.rank then to_ else w.st

/-- A core site that is enabled: clocked, and so accruing wear. -/
def WearState.enabled : WearState → Bool
  | .spare | .retired => false
  | _ => true

/-- A record moves on (R398): a core that enters the state derated has the lower clock from then on. -/
def Wrec.move (w : Wrec) : Wrec := { w with st := w.next, slow := w.slow || (w.st != w.next && w.next == .derated) }

/-- The clock change begins (R399): the core is not free meanwhile. -/
def State.startClock (s : State) (c : Nat) : State :=
  if s.clockDue c then s.modCore c (fun co => { co with clkBusy := true }) else s

/-- Charge an amount of a core's wear to a context. -/
def State.chargeTo (s : State) (c x d : Nat) : State :=
  s.modCtx x (fun xx => { xx with wacc := xx.wacc + d, charge := Tbl.modify 0 xx.charge c (· + d) })

/-- Charge a core's wear by cycles within the sample to the contexts that held it (R402); a sample without a cycle to the one that holds it. -/
def State.chargeWear (s : State) (c d : Nat) : State :=
  let used := (s.core c).used
  let total : Nat := (used.map (fun (e : Nat × Nat) => e.2)).sum
  let s := if total = 0 then (match s.holder c with | some x => s.chargeTo c x d | none => s)
    else used.foldl (fun s e => if e.1 = 0 then s else s.chargeTo c (e.1 - 1) (d * e.2 / total)) s
  s.modCore c (fun co => { co with used := [] })

/-- A core enters a state in which it takes no task (R398): every task of whose crew it is one is aborted and rerun (15 R290), and a task that it
holds under COMMIT=0 loses its context. -/
def State.drainTask (s : State) (c : Nat) : State :=
  let s := s.abortReported c
  if (s.core c).share.isSome then s.abortOrLose c 17 false else s

/-- One core's sample (R394, R395, R398, R399, R402). -/
def State.sampleCore (s : State) (r : WearReading) : State :=
  let w := s.wrec r.core
  if w.st.enabled = false ∨ NatSet.has s.mod.off r.core then s
  else
    let w1 := { w with wbt := w.wbt + sampleWbt r, wem := w.wem + sampleWem r, alarm := w.alarm || sampleAlarm r }
    let w2 := w1.move
    let s := (s.setWrec r.core w2).chargeWear r.core (w2.wear - w.wear)
    let s := if w.st.rank < 2 ∧ 2 ≤ w2.st.rank then s.drainTask r.core else s
    s.startClock r.core

/-- WEAR_SAMPLE (R394, R398). -/
def execWearSample (samples : List WearReading) (s : State) : Out :=
  eventStep s (fun s => if s.mod.ready then (samples.foldl State.sampleCore s).retireFree else s)

/-- CLOCK_CHANGE_START (R399): a core that kept 3.3 GHz for its task waits in TNEXT with none. -/
def execClockChangeStart (core : Nat) (s : State) : Out := eventStep s (fun s => s.startClock core)

/-- CLOCK_CHANGE_COMPLETE (R399). -/
def execClockChangeComplete (core : Nat) (s : State) : Out :=
  eventStep s (fun s => s.modCore core (fun co => if co.clkBusy then { co with clkBusy := false, derated := true } else co))

/-- WEAR_FLASH_WRITE (R397): every record goes to the older of the two copies. -/
def execWearFlashWrite (s : State) : Out :=
  eventStep s (fun s =>
    if s.mod.ready then
      { s with mod := { s.mod with flashB := s.mod.flash, flash := (upFrom 0 Config.cores).map (fun c => (c, s.wrec c)) } }
    else s)

/-! ### Bring-up (22 R369; 25 R397) -/

/-- The copy of the wear records that bring-up reads (25 R397): the newer one whose CRC holds. -/
def flashRead (fw : Bringup) (newer older : List (Nat × Wrec)) : Option (List (Nat × Wrec)) :=
  if fw.newerOk then some newer else if fw.olderOk then some older else none

/-- The state of a site after bring-up (01 R14; 25 R397, R398; log entry 93): that of its record; a healthy one that the configuration leaves out
is a spare, a spare that it enables is healthy, and a retiring one that it leaves out, which no context holds, is retired. -/
def bootState (fl : Option WearState) (enabled : Bool) (c : Nat) : WearState :=
  match fl with
  | some .retiring => if enabled then .retiring else .retired
  | some .spare | none => if enabled then .healthy else .spare
  | some .healthy => if enabled ∨ 128 ≤ c then .healthy else .spare
  | some st => st

/-- Is a site left out by the signed configuration (01 R14; log entry 93)? A spare that has been taken into use stays in use. -/
def bootOff (enabled : List Nat) (c : Nat) : Bool := decide (c < 128) && !enabled.contains c

/-- A core's record at bring-up: as flash has it, with 1/60 WU on an enabled core for what was lost with power. -/
def bootWrec (flash : List (Nat × Wrec)) (enabled : List Nat) (c : Nat) : Wrec :=
  let w : Wrec := (flash.lookup c).getD {}
  let w := { w with st := bootState ((flash.lookup c).map Wrec.st) (enabled.contains c) c }
  if w.st.enabled && !bootOff enabled c then { w with wbt := w.wbt + wearUnit / 60, wem := w.wem + wearUnit / 60 } else w

/-- The retired cores of a die that its enabled spares stand in for, lowest number first (log entry 93). -/
def bootReplaced (wrec : Tbl Wrec) (die : Nat) : List Nat :=
  let sites := (upFrom 0 Config.cores).filter (fun c => coreDie c == die)
  let st := fun (c : Nat) => (Tbl.get {} wrec c : Wrec).st
  (sites.filter (fun c => st c == .retired)).take (sites.filter (fun c => decide (128 ≤ c) && st c != .spare)).length

/-- Does a die have no spare left, its last one having been put into use (25 R400)? -/
def bootShort (wrec : Tbl Wrec) (die : Nat) : Bool :=
  !(bootReplaced wrec die).isEmpty && (dieSpares die).all (fun c => (Tbl.get {} wrec c : Wrec).st != .spare)

/-- Every sector is written back and dropped. -/
def MemSys.flush (m : MemSys) : MemSys := m.l2.foldl (fun m e => (m.clean e.1).drop e.1) m

/-- What module reset leaves of the memories (log entry 18): what had been written, retired pages; no copy and no lease of another W4's line. -/
def MemSys.afterReset (m : MemSys) : MemSys :=
  let m := (m.acquire (m.pendW.map (·.uid))).flush
  { m with full := [], fullBy := [], fullSee := [], pins := [], leases := [], hist := [], paused := [] }

/-- A copy of the wear records with the states and the SUSP and ALARM bits as they stand, which are kept across power cycles (25 R397). -/
def State.keepStates (s : State) (copy : List (Nat × Wrec)) : List (Nat × Wrec) :=
  if s.mod.ready then
    (upFrom 0 Config.cores).map (fun c =>
      let w := s.wrec c
      (c, { (copy.lookup c).getD {} with st := w.st, susp := w.susp, alarm := w.alarm, slow := w.slow }))
  else copy

/-- Everything that does not outlive module reset is as State.reset has it. -/
def State.bare (s : State) (ms : MemSys) : State :=
  { s with outbox := [], ms := ms, cores := [], ctxs := [],
           stamps := {}
           mod := { flash := s.keepStates s.mod.flash, flashB := s.keepStates s.mod.flashB, lrep := s.mod.lrep, self := s.mod.self, wrec := resetWrec } }

/-- MODULE_RESET (R369): the steps of bring-up, in order. A firmware image that fails its signatures leaves nothing done; a configuration or wear
records that cannot be applied leave READY clear, with the identity derived before; a link left down and an identity that is not derived are reported in the capability list. REPL is raised where a
stack has no repair left (R368) or a die no spare (25 R400). -/
def execModuleReset (fw : Bringup) (s : State) : Out :=
  eventStep s (fun s =>
    let s := s.bare s.ms.afterReset
    let idok := fw.fwOk && fw.idOk
    let s := { s with mod := { s.mod with powered := true, idok := idok, key := if idok then fw.key else [] } }
    match (if fw.fwOk ∧ fw.cfgOk then flashRead fw s.mod.flash s.mod.flashB else none) with
    | none => { s with mod := { s.mod with fwerr := true } }
    | some flash =>
      let wrec := (upFrom 0 Config.cores).foldl (fun t c => Tbl.set {} t c (bootWrec flash fw.enabled c)) []
      let s := { s with mod := { s.mod with
        wrec := wrec, ready := true, caps := true, image := fw.image, repl := (List.range 8).any (fun k => s.mod.lrep.getD k 0 == 0) || (List.range 2).any (bootShort wrec)
        off := ((upFrom 0 Config.cores).filter (bootOff fw.enabled)).foldl (fun t c => NatSet.mark t c true) []
        replaced := (bootReplaced wrec 0 ++ bootReplaced wrec 1).foldl (fun t c => NatSet.mark t c true) []
        ports := fw.down.foldl (fun t p => Tbl.set {} t p { down := true }) [] } }
      (upFrom 0 Config.cores).foldl (fun s c => if (s.wrec c).slow then s.modCore c (fun co => { co with derated := true }) else s) s)

/-- POWER_LOSS (R397): what flash holds is kept: the wear records, the retired pages (24 R389), the lane repairs; everything else is gone. -/
def execPowerLoss (s : State) : Out :=
  eventStep s (fun s =>
    let s := s.bare { retired := s.ms.retired }
    { s with mod := { s.mod with powered := false } })

/-! ### What the module registers read -/

/-- MSTAT (R367). -/
def State.mstat (s : State) : Nat :=
  s.sparesLeft 1 * 2 ^ 36 + s.sparesLeft 0 * 2 ^ 32 + ((List.range 8).map (fun k => s.mod.lrep.getD k 0 * 2 ^ (3 * k + 8))).sum +
    s.mod.repl.toNat * 8 + s.mod.fwerr.toNat * 4 + s.mod.idok.toNat * 2 + s.mod.ready.toNat

/-- STATE's code in WREC (25 R396). -/
def WearState.code : WearState → Nat
  | .healthy => 0 | .derated => 1 | .drained => 2 | .retiring => 3 | .retired => 4 | .spare => 5

/-- WREC (25 R396). -/
def Wrec.word (w : Wrec) : Nat :=
  w.st.code * 2 ^ 61 + w.susp.toNat * 2 ^ 60 + w.alarm.toNat * 2 ^ 59 + min (w.wbt / (8 * wearUnit)) (2 ^ 27 - 1) * 2 ^ 32 +
    min (milliWu w.wear) (2 ^ 32 - 1)

/-- What the module registers read: MSTAT, and WREC of core n at 0x100 + 8n (R367; 25 R396). -/
def State.moduleRegister (s : State) (off : Nat) : BitVec 64 :=
  if off = 0 then BitVec.ofNat 64 s.mstat
  else if 0x100 ≤ off ∧ off < 0x100 + 8 * Config.cores ∧ off % 8 = 0 then BitVec.ofNat 64 (s.wrec ((off - 0x100) / 8)).word
  else 0

/-! ### BAR0 (R364) -/

/-- Some records in a free order. -/
def arrange (key : Nat → Nat) (ids : List Nat) : List Nat :=
  ids.foldl (fun l x => l.take (key x % (l.length + 1)) ++ x :: l.drop (key x % (l.length + 1))) []

/-- The records after the first two in the order of the chain, and in the order in which they lie: the torus, the ring ports, firmware and identity,
wear. The one that 0x20 names lies first (R366; log entry 16). -/
def capChain : List Nat := arrange (Config.capOrder 0) [3, 4, 5, 6]
def capLayout : List Nat := capChain.take 1 ++ arrange (Config.capOrder 1) (capChain.drop 1)

/-- The length of a record in doublewords: at most 255; that of wear has the two that 25 R396 gives. -/
def capLength (id : Nat) : Nat := if id = 6 then 3 + Config.capLength id % 253 else 1 + Config.capLength id % 255

/-- The records with the offsets at which they begin, multiples of 8: none within another. -/
def capRecords : List (Nat × Nat) :=
  (capLayout.foldl (fun (acc : List (Nat × Nat) × Nat) id =>
    (acc.1 ++ [(id, acc.2)], acc.2 + 8 * (capLength id + Config.capGap id % 1000))) ([], 0x40)).1
def capAt (id : Nat) : Nat := (capRecords.lookup id).getD 0

/-- The first doubleword of a record (R366): the next record's offset, none after the last. -/
def capHead (id : Nat) : BitVec 64 :=
  let next := match (capChain.dropWhile (· != id)).drop 1 with | n :: _ => capAt n | [] => 0
  BitVec.ofNat 64 (next * 2 ^ 32 + capLength id * 2 ^ 24 + Config.capVersion id % 256 * 2 ^ 16 + id)

/-- The capability list (R366, R369): a chain without a loop, that ends; the doublewords that the spec gives, those of the wear record (25 R396)
among them; the others are free, and depend on what is reported (log entry 16). -/
def State.capability (s : State) (off : Nat) : BitVec 64 :=
  let down := (upFrom 0 8).filter (fun p => (s.port p).down)
  let free := Config.capWord off down s.mod.key s.mod.image
  if s.mod.caps = false then Config.capUnpublished off
  else if off = 0x00 then 0x0000002004010001
  else if off = 0x20 then 0x0000004004010002
  else match capRecords.find? (fun e => e.2 == off) with
    | some e => capHead e.1
    | none =>
      if off = capAt 6 + 8 then 0x20100
      else if off = capAt 6 + 16 then BitVec.ofNat 64 (80000 + 95000 * 2 ^ 20 + 100000 * 2 ^ 40)
      else free

/-- What the host reads at an offset of BAR0: the capability list, the register blocks of the contexts, the module registers. -/
def State.bar0 (s : State) (off : Nat) : BitVec 64 :=
  if off % 8 ≠ 0 then 0
  else if off < 0x10000 then s.capability off
  else if off < 0x20000 then s.ctxRegister ((off - 0x10000) / 0x1000) (off % 0x1000)
  else if off < 0x21000 then s.moduleRegister (off - 0x20000)
  else 0

/-- The host's write of a doubleword of a context's register block, as the event that it is; every other register of BAR0 is read only. -/
def bar0Write (off : Nat) (v : BitVec 64) (s : State) : Out :=
  let n := (off - 0x10000) / 0x1000
  let o := off % 0x1000
  if off % 8 ≠ 0 ∨ off < 0x10000 ∨ 0x20000 ≤ off then .next s
  else if o = 0x00 then execLrbaseWrite n v s
  else if o = 0x08 then execLrsizeWrite n v s
  else if o = 0x18 then execLrtailWrite n v s
  else if o = 0x20 then execLrstatWrite n v s
  else if o = 0x28 then execLrkillWrite n v s
  else if o = 0x60 then
    (match lttCommand v.toNat with
    | some 13 => execLttcmdRemove n v s
    | some 16 => execLttcmdResume n v s
    | _ => execLttcmdWrite n v s)
  else if o = 0x90 then
    -- each bit acts by itself, the halt first (DEDUCED, log entry 66)
    (match execDbgctlHalt n v s with
    | .next s => execDbgctlResume n v s
    | o => o)
  else if o = 0xA0 then execEvbaseWrite n v s
  else if o = 0xA8 then execEvsizeWrite n v s
  else if o = 0xB0 then execEvheadWrite n v s
  else execRegisterWrite n (BitVec.ofNat 12 o) v s

end Sys2Proof.Machine
end

