-- ==== Sys2Proof/Machine/Mover.lean ====
section
/-!
DEFINITION. Sys2Proof/Machine/Mover.lean: the movers' copy queues: COPY, FILL, GATHER, SCATTER (08 R196, R197), MCAST with its receiver list
and landings (R198), CHSEND with its window (R199, 16 R302, R303).
-/
namespace Sys2Proof.Machine

/-! ### Copies -/

/-- COPY (R196). -/
def copyE (sa sb : BitVec 2) (f1 : BitVec 4) (n : BitVec 12) : EngOp := fun q k s => do
  let u := 2 ^ f1.toNat
  let a ← k.at_ sa.toNat u
  let b ← k.at_ sb.toNat u
  let (bs, s) ← s.engRead k (s.cmdCtx q) a (count12 n * u)
  s.engWrite k (s.cmdCtx q) b bs

/-- The pattern over and over, n bytes. -/
def repeatPat (pat : List PByte) (n : Nat) : List PByte := ((List.replicate (ceilDiv n 8) pat).flatten).take n

/-- FILL (R196): the pattern is read once per iteration; a unit is at least 8 bytes. -/
def fillE (sa sb : BitVec 2) (f1 : BitVec 4) (n : BitVec 12) : EngOp := fun q k s => do
  let u := 2 ^ f1.toNat
  demand (3 ≤ f1.toNat)
  let a ← k.at_ sa.toNat 8
  let b ← k.at_ sb.toNat u
  let (pat, s) ← s.engRead k (s.cmdCtx q) a 8
  s.engWrite k (s.cmdCtx q) b (repeatPat pat (count12 n * u))

/-- The index list of GATHER and SCATTER (R197): acting on an index of a poisoned line consumes its poison (24 R388). -/
def readIndices (q : QId) (k : Cmd) (s : State) (st n : Nat) : Except StepErr (List Nat × State) := do
  let a ← k.at_ st 4
  let x := s.cmdCtx q
  let (bs, s) ← s.engRead k x a (4 * n)
  let bs ← s.consume x a bs
  .ok ((chunks 4 n bs).map leNat, s)

/-- The index that skips its unit. -/
def skipIndex : Nat := 0xFFFFFFFF

/-- GATHER (R197). -/
def gatherE (sa sb sc : BitVec 2) (f1 : BitVec 4) (n : BitVec 12) : EngOp := fun q k s => do
  let u := 2 ^ f1.toNat
  let x := s.cmdCtx q
  let t ← k.at_ sc.toNat u
  let b ← k.at_ sb.toNat u
  let (idx, s) ← readIndices q k s sa.toNat (count12 n)
  (idx.zip (upFrom 0 idx.length)).foldlM (fun (acc : State × Cmd) e =>
    if e.1 = skipIndex then .ok acc
    else do
      let (bs, s) ← acc.1.engRead acc.2 x (t + e.1 * u) u
      s.engWrite acc.2 x (b + e.2 * u) bs) (s, k)

/-- What a copied unit leaves that a later unit of its step covers (R195): the poison of its source. -/
def State.taintAt (s : State) (k : Cmd) (x va n : Nat) (bs : List PByte) : State × Cmd :=
  if anyBad bs then
    ((piecesOf va n).foldl (fun (s : State) pc => match (s.ctx x).place k.task.isSome pc.1 with
      | some p => { s with ms := s.ms.markPoison [lineOf p.key] true }
      | none => s) s, k.flag { poison := true })
  else (s, k)

/-- SCATTER (R197): of two units of one step with the same index, the one at the higher list position remains; both are copied. -/
def scatterE (sa sb sc : BitVec 2) (f1 : BitVec 4) (n : BitVec 12) : EngOp := fun q k s => do
  let u := 2 ^ f1.toNat
  let x := s.cmdCtx q
  let t ← k.at_ sc.toNat u
  let a ← asAddr (k.here sa.toNat)
  let (idx, s) ← readIndices q k s sb.toNat (count12 n)
  (idx.zip (upFrom 0 idx.length)).foldlM (fun (acc : State × Cmd) e =>
    if e.1 = skipIndex then .ok acc
    else do
      let (bs, s) ← acc.1.engRead acc.2 x (a + e.2 * u) u
      if (idx.drop (e.2 + 1)).contains e.1 then .ok (s.taintAt acc.2 x (t + e.1 * u) u bs)
      else s.engWrite acc.2 x (t + e.1 * u) bs) (s, k)

/-! ### MCAST -/

/-- Receivers from a list of entries (R198): none where a rule of the queue head is broken. `st` is the stream that names the list. -/
def receivers (inCtx : Nat → Bool) (st : Nat) : List Nat → Option (List Landing)
  | [] => none
  | e :: es =>
    let coord := e % 256
    if slice e 63 32 ≠ 0 ∨ bitAt e 8 ∨ coordOk coord = false ∨ inCtx (coreOfCoord coord) = false then none
    else
      let r : Landing := ⟨st, coreOfCoord coord, bitAt e 30, 0, [], slice e 17 9, slice e 29 18⟩
      if bitAt e 31 then some [r] else (receivers inCtx st es).map (fun l => r :: l)

/-- The number of entries a list is read to: up to its LAST, at most 12. -/
def readReceivers (q : QId) (k : Cmd) (s : State) (st : Nat) : Except StepErr (List Landing × State) := do
  let x := s.cmdCtx q
  let (es, s, _) ← (upFrom 0 12).foldlM (fun (acc : List Nat × State × Bool) i =>
    if acc.2.2 then (.ok acc : Except StepErr _)
    else do
      let (bs, s) ← acc.2.1.engRead k x (k.baseAddr st + 8 * i) 8
      demand (!anyBad bs)
      let e := leNat (pbytes bs)
      .ok (acc.1 ++ [e], s, bitAt e 31)) ([], s, false)
  match receivers (fun c => s.coreIn x c) st es with
  | some l => .ok (l, s)
  | none => .error .fault

/-- The streams that the MCAST words of a body take their lists from. -/
def listStreams (q : QId) (body : List Word) : List Nat :=
  (body.filterMap (fun w => match decodeStep q w.toNat with | some (.mcast _ sc _ _) => some sc.toNat | _ => none)).eraseDups

/-- The receiver lists of a command, read once at stage 3. -/
def readLists (q : QId) (k : Cmd) (s : State) : StepRes := do
  let (recs, s) ← (listStreams q k.body).foldlM (fun (acc : List Landing × State) st => do
    let (l, s) ← readReceivers q k acc.2 st
    .ok (acc.1 ++ l, s)) ([], s)
  .ok (s, { k with recs := recs })

/-- Does a landing break a rule of the step (R198): outside the near slice, beyond row 1,023, or not in whole registers? -/
def State.landingOk (s : State) (r : Landing) (o : Int) (len : Nat) : Bool :=
  let co := s.core r.core
  if r.toReg then
    o % 4 == 0 && len % 4 == 0 && decide (0 ≤ (co.lbv : Int) * 512 + o) && decide ((co.lbv : Int) * 512 + o + len ≤ 1024 * 512)
  else decide (0 ≤ (co.lbs : Int) + o) && decide ((co.lbs : Int) + o + len ≤ sliceLen)

/-- MCAST (R198): the source is read once; each receiver's copy lands later, with MCAST_LANDING. -/
def mcastE (sa sc : BitVec 2) (f1 : BitVec 4) (n : BitVec 12) : EngOp := fun q k s => do
  let len := count12 n * 2 ^ f1.toNat
  let o := k.here sc.toNat - (k.baseAddr sc.toNat : Int)
  let rs := k.recs.filter (fun r => r.idx == sc.toNat)
  demand (rs.all (fun r => s.landingOk r o len))
  let a ← asAddr (k.here sa.toNat)
  let (bs, s) ← s.engRead k (s.cmdCtx q) a len
  let first := k.lands.foldl (fun m l => max m (l.idx + 1)) 0
  let lands := (rs.zip (upFrom first rs.length)).map (fun e =>
    let base := (s.core e.1.core)
    { e.1 with idx := e.2, offs := if e.1.toReg then ((base.lbv : Int) * 512 + o).toNat else ((base.lbs : Int) + o).toNat,
               bytes := bs })
  .ok (s, { k with lands := k.lands ++ lands })

/-- A landing in a register file (R198, 06 R132): whole 32-bit registers of the 128 lanes, with the poison of its own bytes (R195); each takes its value by itself, at
the latest when the copy's completion is observed. -/
def VecUnit.landReg (v : VecUnit) (l : Landing) (uid : Nat) : VecUnit :=
  { v with landing := v.landing ++ ((chunks 4 (l.bytes.length / 4) l.bytes).mapIdx (fun i b =>
      ⟨(l.offs + 4 * i) / 512 * 128 + (l.offs + 4 * i) % 512 / 4, BitVec.ofNat 32 (leNat (pbytes b)), anyBad b, uid⟩)) }

/-- A receiver's copy lands (R198): its bytes under a name of their own; the add to the receiver's semaphore releases this copy and what the
command acquired (13 R258). -/
def State.land (s : State) (q : QId) (k : Cmd) (l : Landing) : State :=
  let uid := s.uid + 1
  let s : State := { s with uid := uid }
  let (s, k) :=
    if l.toReg then
      (s.modCore l.core (fun co => { co with vec := co.vec.landReg l uid }), if anyBad l.bytes then k.flag { poison := true } else k)
    else
      let p := physPlace (sramBase + l.core * sliceStep + l.offs)
      (piecesOf p.key l.bytes.length).foldl (fun (acc : State × Cmd) pc =>
        acc.1.engPutAt acc.2 uid false { p with key := pc.1 } ((l.bytes.drop (pc.1 - p.key)).take pc.2)) (s, k)
  let s := s.putCmd q { k with owns := k.owns ++ [uid], lands := k.lands.filter (fun x => x.idx != l.idx) }
  if l.add = 0 then s
  else s.putSem l.core l.sem (((s.core l.core).sem l.sem).val + BitVec.ofNat 32 l.add) (uid :: k.acq) k.relSee

/-- MCAST_LANDING (R198). -/
def execMcastLanding (q : QId) (num idx : Nat) (s : State) : Out :=
  eventStep s (fun s =>
    match (s.queue q).cmds.find? (fun k => k.num == num) with
    | some k =>
      match k.lands.find? (fun l => l.idx == idx) with
      | some l => (s.land q k l).drainSeen k.pusher
      | none => s
    | none => s)

/-! ### CHSEND -/

/-- The producer end of ring q in context x (16 R300): a channel whose owner role is none. -/
def State.producerEnd (s : State) (x q : Nat) : Option Ring :=
  match s.ring x q with
  | some r => if r.chan ∧ r.orole = 0 then some r else none
  | none => none

/-- The mover queues of a context (16 R302). -/
def State.copyQueues (s : State) (x : Nat) : List QId :=
  ((s.ctx x).coreList.map (fun c => [QId.core c 2, QId.core c 4])).flatten

/-- The ring that the present step of a command sends on, when it is a CHSEND. -/
def Cmd.sendsOn (q : QId) (k : Cmd) : Option Nat :=
  match decodeStep q ((k.body.getD k.step 0).toNat) with
  | some (.chsend _ r _) => some r.toNat
  | _ => none

/-- The step that has waited longest for window on ring r (16 R302). -/
def State.firstSender (s : State) (x r : Nat) : Option (QId × Cmd × Nat) :=
  let ws := ((s.copyQueues x).map (fun q => (s.queue q).cmds.filterMap (fun k => match k.chWait with
    | some t => if k.sendsOn q = some r then some (q, k, t) else none
    | none => none))).flatten
  ws.foldl (fun (m : Option (QId × Cmd × Nat)) e => match m with
    | some f => if e.2.2 < f.2.2 then some e else some f
    | none => some e) none

/-- Take window and a sequence number, in one step at the producer end (16 R302). -/
def Ring.takeWindow (r : Ring) : Nat × Ring :=
  (r.win.sent, { r with win := { r.win with w := r.win.w - 1, sent := r.win.sent + 1 } })

/-- Is a command one of a task whose stage is declared with COMMIT=1? -/
def State.heldEffects (s : State) (x : Nat) (k : Cmd) : Bool :=
  match k.task with
  | some t => (match s.stage x t.stage with | some st => st.commit | none => false)
  | none => false

/-- Send the slot (R199, 16 R302, R303), which is on its way until its last byte has landed; under COMMIT=1 its publish is held until the
commit. -/
def sendSlot (q : QId) (r : Nat) (seq : Nat) (a n : Nat) (k : Cmd) (s : State) : StepRes := do
  let x := s.cmdCtx q
  let (bs, s) ← s.engRead k x a (128 * n)
  let peer := match s.ring x r with | some e => e.chEnd.peer | none => 0
  let s := s.send (.chData peer r seq (pbytes bs) (poisonPieces bs))
  let k := if anyBad bs then k.flag { poison := true } else k
  let tag := BitVec.ofNat 16 k.tag
  let s := if s.heldEffects x k then s.hold k.pusher (.publish r seq tag) else s
  .ok (s, { k with chSeq := none, chWait := none, sends := k.sends ++ [(r, seq)] })

/-- The last byte of a send has landed at the consumer (R199): it is published there, unless its publish is held. -/
def State.sent (s : State) (q : QId) (r seq : Nat) : State :=
  match (s.queue q).cmds.find? (fun k => k.sends.contains (r, seq)) with
  | none => s
  | some k =>
    let x := s.cmdCtx q
    let s := s.modCmd q k.uid (fun k => { k with sends := k.sends.erase (r, seq) })
    if s.heldEffects x k then s
    else s.send (.chPublish (match s.ring x r with | some e => e.chEnd.peer | none => 0) r seq (BitVec.ofNat 16 k.tag) false)

/-- CHSEND (R199): it waits for window in the order in which the steps began to wait. -/
def chsendE (sa : BitVec 2) (r : BitVec 8) (n : BitVec 12) : EngOp := fun q k s => do
  let x := s.cmdCtx q
  match s.producerEnd x r.toNat with
  | none => .error .fault
  | some e =>
    demand (n.toNat * 128 ≤ e.slotb)
    let a ← k.at_ sa.toNat 128
    match k.chSeq with
    | some (_, seq) => sendSlot q r.toNat seq a n.toNat k s
    | none =>
      if k.chWait.isNone && (s.firstSender x r.toNat).isNone && decide (1 ≤ e.win.w) then
        let (seq, e') := e.takeWindow
        sendSlot q r.toNat seq a n.toNat k (s.setRing x r.toNat e')
      else if k.chWait.isNone then
        .error (.wait (({ s with uid := s.uid + 1 } : State).putCmd q { k with chWait := some (s.uid + 1) }))
      else .error (.wait s)

/-- CHSEND_WINDOW_GRANT (16 R302): the step that has waited longest takes window and a sequence number. -/
def execChsendWindowGrant (ctx ring : Nat) (s : State) : Out :=
  eventStep s (fun s =>
    match s.producerEnd ctx ring, s.firstSender ctx ring with
    | some e, some (q, k, _) =>
      if 1 ≤ e.win.w then
        let (seq, e') := e.takeWindow
        (s.setRing ctx ring e').putCmd q { k with chWait := none, chSeq := some (ring, seq) }
      else s
    | _, _ => s)

/-- The step words of a copy queue. -/
def mvCopyOp : Instr → Option EngOp
  | .copy sa sb f1 n => some (copyE sa sb f1 n)
  | .fill sa sb f1 n => some (fillE sa sb f1 n)
  | .gather sa sb sc f1 n => some (gatherE sa sb sc f1 n)
  | .scatter sa sb sc f1 n => some (scatterE sa sb sc f1 n)
  | .mcast sa sc f1 n => some (mcastE sa sc f1 n)
  | .chsend sa r n => some (chsendE sa r n)
  | _ => none

def execCopy (sa sb : BitVec 2) (f1 : BitVec 4) (n : BitVec 12) (s : State) : Out := stepWord isMvCopy (copyE sa sb f1 n) s
def execFill (sa sb : BitVec 2) (f1 : BitVec 4) (n : BitVec 12) (s : State) : Out := stepWord isMvCopy (fillE sa sb f1 n) s
def execGather (sa sb sc : BitVec 2) (f1 : BitVec 4) (n : BitVec 12) (s : State) : Out := stepWord isMvCopy (gatherE sa sb sc f1 n) s
def execScatter (sa sb sc : BitVec 2) (f1 : BitVec 4) (n : BitVec 12) (s : State) : Out := stepWord isMvCopy (scatterE sa sb sc f1 n) s
def execMcast (sa sc : BitVec 2) (f1 : BitVec 4) (n : BitVec 12) (s : State) : Out := stepWord isMvCopy (mcastE sa sc f1 n) s
def execChsend (sa : BitVec 2) (r : BitVec 8) (n : BitVec 12) (s : State) : Out := stepWord isMvCopy (chsendE sa r n) s

end Sys2Proof.Machine
end

