-- ==== Sys2Proof/Machine/SeqInt.lean ====
section
/-!
DEFINITION. Sys2Proof/Machine/SeqInt.lean: the sequencer's integer group and I-form arithmetic (04 R79, R80; poison R78; 02 R40, R42).
-/
namespace Sys2Proof.Machine

/-- s[d] := f(s[a], s[b]); the result is poisoned when either operand is (R78). -/
def alu2 (d a b : BitVec 5) (f : BitVec 64 → BitVec 64 → BitVec 64) (s : State) : Out :=
  seqWord s [a, b] (fun c co => s.setCore c ((co.write d (f (co.reg a) (co.reg b)) (co.anyPois [a, b])).advance 4))

/-- s[d] := f(s[a]). -/
def alu1 (d a : BitVec 5) (f : BitVec 64 → BitVec 64) (s : State) : Out :=
  seqWord s [a] (fun c co => s.setCore c ((co.write d (f (co.reg a)) (co.pois a)).advance 4))

/-- s[d] := f(s[a], imm), for a word of n bytes with its prefix. -/
def aluImm (n : Nat) (d a : BitVec 5) (imm : BitVec 64) (f : BitVec 64 → BitVec 64 → BitVec 64) (s : State) : Out :=
  seqWord s [a] (fun c co => s.setCore c ((co.write d (f (co.reg a) imm) (co.pois a)).advance n))

/-- 1 or 0 (SLT, SLTN). -/
def boolWord (b : Bool) : BitVec 64 := if b then 1 else 0

/-- Signed high product (R79). -/
def mulHigh (a b : BitVec 64) : BitVec 64 := BitVec.ofInt 64 (a.toInt * b.toInt / 2 ^ 64)
/-- Unsigned high product (R79). -/
def mulHighU (a b : BitVec 64) : BitVec 64 := BitVec.ofNat 64 (a.toNat * b.toNat / 2 ^ 64)
/-- Signed quotient truncated toward zero, with the corners of R79. -/
def divS (a b : BitVec 64) : BitVec 64 := if b = 0 then -1 else BitVec.ofInt 64 (a.toInt.tdiv b.toInt)
/-- Unsigned quotient (R79). -/
def divU (a b : BitVec 64) : BitVec 64 := if b = 0 then -1 else BitVec.ofNat 64 (a.toNat / b.toNat)
/-- Signed remainder with the dividend's sign (R79). -/
def remS (a b : BitVec 64) : BitVec 64 := if b = 0 then a else BitVec.ofInt 64 (a.toInt.tmod b.toInt)
/-- Unsigned remainder (R79). -/
def remU (a b : BitVec 64) : BitVec 64 := if b = 0 then a else BitVec.ofNat 64 (a.toNat % b.toNat)
/-- Shift amount b[5:0] (R79). -/
def shAmt (b : BitVec 64) : Nat := b.toNat % 64
def shlW (a b : BitVec 64) : BitVec 64 := a <<< shAmt b
def shrW (a b : BitVec 64) : BitVec 64 := a >>> shAmt b
def sarW (a b : BitVec 64) : BitVec 64 := a.sshiftRight (shAmt b)
/-- Signed and unsigned minimum and maximum (R79). -/
def minS (a b : BitVec 64) : BitVec 64 := if a.slt b then a else b
def maxS (a b : BitVec 64) : BitVec 64 := if a.slt b then b else a
def minU (a b : BitVec 64) : BitVec 64 := if a.ult b then a else b
def maxU (a b : BitVec 64) : BitVec 64 := if a.ult b then b else a

/-- Leading zeros of the n low bits of x, counted from bit n - 1 down. -/
def leadingZeros (x : BitVec 64) : Nat → Nat
  | 0 => 0
  | n + 1 => if x.getLsbD n then 0 else 1 + leadingZeros x n
/-- One bits among the n low bits of x. -/
def onesIn (x : BitVec 64) : Nat → Nat
  | 0 => 0
  | n + 1 => (if x.getLsbD n then 1 else 0) + onesIn x n

def execAdd (d a b : BitVec 5) (s : State) : Out := alu2 d a b (· + ·) s
def execSub (d a b : BitVec 5) (s : State) : Out := alu2 d a b (· - ·) s
def execMul (d a b : BitVec 5) (s : State) : Out := alu2 d a b (· * ·) s
def execMulh (d a b : BitVec 5) (s : State) : Out := alu2 d a b mulHigh s
def execMulhn (d a b : BitVec 5) (s : State) : Out := alu2 d a b mulHighU s
def execDiv (d a b : BitVec 5) (s : State) : Out := alu2 d a b divS s
def execDivn (d a b : BitVec 5) (s : State) : Out := alu2 d a b divU s
def execRem (d a b : BitVec 5) (s : State) : Out := alu2 d a b remS s
def execRemn (d a b : BitVec 5) (s : State) : Out := alu2 d a b remU s
def execAnd (d a b : BitVec 5) (s : State) : Out := alu2 d a b (· &&& ·) s
def execOr (d a b : BitVec 5) (s : State) : Out := alu2 d a b (· ||| ·) s
def execXor (d a b : BitVec 5) (s : State) : Out := alu2 d a b (· ^^^ ·) s
def execShl (d a b : BitVec 5) (s : State) : Out := alu2 d a b shlW s
def execShr (d a b : BitVec 5) (s : State) : Out := alu2 d a b shrW s
def execSar (d a b : BitVec 5) (s : State) : Out := alu2 d a b sarW s
def execMin (d a b : BitVec 5) (s : State) : Out := alu2 d a b minS s
def execMax (d a b : BitVec 5) (s : State) : Out := alu2 d a b maxS s
def execMinn (d a b : BitVec 5) (s : State) : Out := alu2 d a b minU s
def execMaxn (d a b : BitVec 5) (s : State) : Out := alu2 d a b maxU s
def execSlt (d a b : BitVec 5) (s : State) : Out := alu2 d a b (fun x y => boolWord (x.slt y)) s
def execSltn (d a b : BitVec 5) (s : State) : Out := alu2 d a b (fun x y => boolWord (x.ult y)) s
def execClz (d a : BitVec 5) (s : State) : Out := alu1 d a (fun x => BitVec.ofNat 64 (leadingZeros x 64)) s
def execPopc (d a : BitVec 5) (s : State) : Out := alu1 d a (fun x => BitVec.ofNat 64 (onesIn x 64)) s

/-- SEL (R79): poisoned only through c or through the operand it selects (R78). -/
def execSel (d c a b : BitVec 5) (s : State) : Out :=
  seqWord s [c, a, b] (fun n co =>
    let r := if co.reg c ≠ 0 then a else b
    s.setCore n ((co.write d (co.reg r) (co.anyPois [c, r])).advance 4))

/-- The I-form words for an immediate of either length (02 R40; 04 R80); n is the length of the word with its prefix. -/
def addiOp {k : Nat} (n : Nat) (d a : BitVec 5) (imm : BitVec k) (s : State) : Out := aluImm n d a (immS imm) (· + ·) s
def andiOp {k : Nat} (n : Nat) (d a : BitVec 5) (imm : BitVec k) (s : State) : Out := aluImm n d a (immZ imm) (· &&& ·) s
def oriOp {k : Nat} (n : Nat) (d a : BitVec 5) (imm : BitVec k) (s : State) : Out := aluImm n d a (immZ imm) (· ||| ·) s
def xoriOp {k : Nat} (n : Nat) (d a : BitVec 5) (imm : BitVec k) (s : State) : Out := aluImm n d a (immZ imm) (· ^^^ ·) s
def sltiOp {k : Nat} (n : Nat) (d a : BitVec 5) (imm : BitVec k) (s : State) : Out :=
  aluImm n d a (immS imm) (fun x y => boolWord (x.slt y)) s
/-- MOVHI writes imm << 16 with no source (R80). -/
def movhiOp {k : Nat} (n : Nat) (d : BitVec 5) (imm : BitVec k) (s : State) : Out :=
  seqWord s [] (fun c co => s.setCore c ((co.write d (immS imm <<< 16) false).advance n))

def execAddi (d a : BitVec 5) (imm : BitVec 16) (s : State) : Out := addiOp 4 d a imm s
def execAndi (d a : BitVec 5) (imm : BitVec 16) (s : State) : Out := andiOp 4 d a imm s
def execOri (d a : BitVec 5) (imm : BitVec 16) (s : State) : Out := oriOp 4 d a imm s
def execXori (d a : BitVec 5) (imm : BitVec 16) (s : State) : Out := xoriOp 4 d a imm s
def execSlti (d a : BitVec 5) (imm : BitVec 16) (s : State) : Out := sltiOp 4 d a imm s
def execShli (d a : BitVec 5) (n : BitVec 6) (s : State) : Out := aluImm 4 d a (n.zeroExtend 64) shlW s
def execShri (d a : BitVec 5) (n : BitVec 6) (s : State) : Out := aluImm 4 d a (n.zeroExtend 64) shrW s
def execSari (d a : BitVec 5) (n : BitVec 6) (s : State) : Out := aluImm 4 d a (n.zeroExtend 64) sarW s
def execMovhi (d : BitVec 5) (imm : BitVec 16) (s : State) : Out := movhiOp 4 d imm s

end Sys2Proof.Machine
end

