-- ==== Sys2Proof/Machine/Prefix.lean ====
section
/-!
DEFINITION. Sys2Proof/Machine/Prefix.lean: the sequencer's prefix words with the words they extend, one unit of 8 bytes (02 R46, R47).
-/
namespace Sys2Proof.Machine

/-- A semaphore word under PFX.C names a file of another core (R46, 04 R84). -/
def runCoord (coord : BitVec 8) (i : Option Instr) (s : State) : Option Out :=
  match i with
  | some (.semadd d a m) => some (semaddOp 8 (some coord) d a m s)
  | some (.semaddc a m) => some (semaddcOp 8 (some coord) a m s)
  | some (.semcas d a m) => some (semcasOp 8 (some coord) d a m s)
  | some (.semset a m) => some (semsetOp 8 (some coord) a m s)
  | some (.semread d m) => some (semreadOp 8 (some coord) d m s)
  | some (.semwait a m) => some (semwaitOp 8 (some coord) a m s)
  | _ => none

/-- An I-form word under PFX.I takes payload:imm16 as its immediate (R40, R46). -/
def runImm (payload : BitVec 24) (i : Option Instr) (s : State) : Option Out :=
  let w := immPfx40 payload
  match i with
  | some (.addi d a imm) => some (addiOp 8 d a (w imm) s)
  | some (.andi d a imm) => some (andiOp 8 d a (w imm) s)
  | some (.ori d a imm) => some (oriOp 8 d a (w imm) s)
  | some (.xori d a imm) => some (xoriOp 8 d a (w imm) s)
  | some (.slti d a imm) => some (sltiOp 8 d a (w imm) s)
  | some (.movhi d imm) => some (movhiOp 8 d (w imm) s)
  | some (.ldB d a imm) => some (ldOp 8 1 d a (w imm) s)
  | some (.ldH d a imm) => some (ldOp 8 2 d a (w imm) s)
  | some (.ldW d a imm) => some (ldOp 8 4 d a (w imm) s)
  | some (.ldD d a imm) => some (ldOp 8 8 d a (w imm) s)
  | some (.ldsB d a imm) => some (ldsOp 8 1 d a (w imm) s)
  | some (.ldsH d a imm) => some (ldsOp 8 2 d a (w imm) s)
  | some (.ldsW d a imm) => some (ldsOp 8 4 d a (w imm) s)
  | some (.ldsD d a imm) => some (ldsOp 8 8 d a (w imm) s)
  | some (.stB d a imm) => some (stOp 8 1 d a (w imm) s)
  | some (.stH d a imm) => some (stOp 8 2 d a (w imm) s)
  | some (.stW d a imm) => some (stOp 8 4 d a (w imm) s)
  | some (.stD d a imm) => some (stOp 8 8 d a (w imm) s)
  | _ => none

/-- A prefix runs with the word after it; a word that does not accept it is an illegal instruction at the prefix (R47). -/
def prefixed (run : Option Instr → State → Option Out) (s : State) : Out :=
  match s.who with
  | .seq c =>
    if (s.core c).ready then
      s.withSeqWord c ((s.core c).pc + 4).toNat (fun w s1 =>
        let i := (decodeSeq w).filter Instr.wf
        match run i s1 with
        | some o => o
        | none => .next (s.illegal c))
    else .next s
  | _ => .fault .wrongAgent

/-- PFX.C (R46): coord8 must be a valid coordinate (R47). -/
def execPfxC (coord : BitVec 8) (s : State) : Out :=
  prefixed (fun i s => if coordOk coord.toNat then runCoord coord i s else none) s

/-- PFX.I (R46). -/
def execPfxI (imm : BitVec 24) (s : State) : Out := prefixed (runImm imm) s

end Sys2Proof.Machine
end

