-- ==== Sys2Proof/Machine/Queue.lean ====
section
/-!
DEFINITION. Sys2Proof/Machine/Queue.lean: the stages of a command on its queue (08 R188): the check at the head (02 R60, 08 R208, 09 R210), the
waits, the completion with the status word (08 R192, 07 R174), the signals (08 R188, R190; 13 R258), and the start of a chained
command (07 R176). A command stands at 0 before the head, 1 to be checked again, 2 in its waits, 3 running, 4 with its last
step issued, 5 with every write performed.
-/
namespace Sys2Proof.Machine

/-! ### Stage 1 -/

/-- The engine code that a queue's commands carry (02 R44). -/
def engineOf : QId → Nat
  | .core _ sel => selEngine sel
  | .stash _ _ => 4
  | .crsl _ _ => 5
  | .dou _ _ => 6

def isVecQ : QId → Bool | .core _ sel => sel == 0 | _ => false

/-- Reserved bits of a command (R180-R185) and fields that its engine does not use. -/
def Cmd.reservedOk (q : QId) (k : Cmd) : Bool :=
  (isVecQ q || k.bits 2 35 32 == 0) && (List.range 3).all (fun st => k.bits (3 + st) 63 56 == 0) &&
    (List.range 6).all (fun d => k.dim d / 2 ^ 100 == 0) && k.bits 15 63 48 == 0

/-- The token fields (R189): no token of the engine's own, none on a shared engine. -/
def Cmd.tokensOk (q : QId) (k : Cmd) : Bool :=
  let own := engineOf q
  if isShared q then k.wait == 0 && k.sig == 0
  else !bitAt k.wait own && !bitAt k.sig own && !bitAt k.sqpop own && !bitAt k.sqpush own

/-- Flags that belong to other engines, and CHAIN, which needs a copy queue and a buffer above it (R180, R200, R208). -/
def Cmd.flagsOk (q : QId) (k : Cmd) : Bool :=
  (!k.coh || engineOf q == 6) && (k.pipe == 0 || isVecQ q) && (!k.versioned || engineOf q == 1) &&
    (!k.chainBit || (isMvCopy q && (match k.chain with | some img => !img.isEmpty | none => false)))

/-- The fields of a VEC command (R183, R208; 06 R131). -/
def Cmd.vecOk (q : QId) (k : Cmd) : Bool :=
  !isVecQ q || (k.cl != 0 && (k.sete || k.setg == 0) && decide (k.wb + k.ws ≤ 1024))

/-- Where the status word goes, by the engine (R192). -/
def Cmd.statusAt (q : QId) (k : Cmd) : Int := (k.baseAddr 2 : Int) + (if isVecQ q then 8 * k.vstoff else k.stoff)

/-- The status address is checked at the head but for MTX with steps (R192). -/
def Cmd.statusOk (q : QId) (k : Cmd) : Bool :=
  !k.statusBit || (engineOf q == 1 && k.len != 0) || (k.statusAt q) % 8 == 0

/-- A stash command belongs to a task and names the home die of its stage (R206, 16 R291). -/
def State.stashOk (s : State) (q : QId) (k : Cmd) : Bool :=
  match q with
  | .stash x die => (match k.task.bind (fun t => s.stage x t.stage) with
    | some st => coreDie (st.cores.headD 0) == die
    | none => false)
  | _ => true

/-- Every check of the head that does not look at the body (R60, R183-R185, R189, R192, R206, R208; 07 R153). -/
def State.headOk (s : State) (q : QId) (k : Cmd) : Bool :=
  let x := s.cmdCtx q
  queueOf k.pusher x k.eng k.inst == some q && k.reservedOk q && k.tokensOk q && k.flagsOk q && k.vecOk q && k.statusOk q &&
    s.stashOk q k && (!k.versioned || (s.versionOf x k).isSome) && (k.len != 0 || k.bodyField == 0) &&
    decide (k.iterations ≤ 2 ^ 32 - (k.pipe + 1))

/-- Does a queue's engine run step words? -/
def hasSteps (q : QId) : Bool := !isVecQ q

/-- A step word that stands in a body: assigned, its unused fields zero, its operands in range (R60), for ASTORE n = 1-7 and for ACVT
n = 1-6 (07 R168, R169). -/
def bodyWordOk (q : QId) (w : Nat) : Bool :=
  match decodeStep q w with
  | some (.astore _ _ n) => decide (1 ≤ n.toNat) && decide (n.toNat ≤ 7)
  | some (.acvt _ n) => decide (1 ≤ n.toNat) && decide (n.toNat ≤ 6)
  | some _ => true
  | none => false

/-- Fetch and check the body of a step-word command (R60, R194; 13 R256). -/
def fetchBody (q : QId) (k : Cmd) (s : State) : Except StepErr (List Word × State) :=
  if hasSteps q ∧ k.len ≠ 0 then do
    let (bs, s) ← s.engRead k (s.cmdCtx q) k.bodyAddr (4 * k.len)
    let ws := (chunks 4 k.len (pbytes bs)).map (fun c => BitVec.ofNat 32 (leNat c))
    demand (ws.all (fun w => bodyWordOk q w.toNat))
    .ok (ws, s)
  else .ok ([], s)

/-- Has the command before one left the way to the head free (R188; 09 R210; 19 R323; 21 R351)? -/
def Cmd.clears (q : QId) (co : Core) (k : Cmd) : Bool :=
  match q with
  | .core _ sel => decide (4 ≤ k.stage) || (sel == 0 && k.stage == 3 && !co.lacksStrand k)
  | .crsl _ _ => decide (4 ≤ k.stage)
  | .dou _ _ => decide (5 ≤ k.stage)
  | .stash _ _ => false

/-- The command that stands at the head of a queue and is still to be checked. -/
def State.atHead (s : State) (q : QId) : Option Cmd :=
  let co := match q with | .core c _ => s.core c | _ => Core.reset
  match (s.queue q).cmds.dropWhile (fun k => k.clears q co) with
  | k :: _ => if k.stage ≤ 1 ∧ k.waitOn.isNone ∧ k.fault = false then some k else none
  | [] => none

/-- Stage 3 begins (R188, R194): the loop buffer takes the body, the receiver lists are read; an empty command goes on to stage 4 (R181). -/
def beginRun (q : QId) (k : Cmd) (s : State) : StepRes := do
  let k := { k with stage := 3 }
  if k.len = 0 then .ok (s, { k with stage := 4 })
  else
    let (ws, s) ← fetchBody q k s
    readLists q { k with body := ws } s

/-- Does a context have a command that a shared engine could begin? -/
def State.wantsEngine (s : State) (q : QId) : Bool :=
  !s.heldBack q && ((s.queue q).cmds.any (fun k => k.stage == 2 && k.met) || (match s.atHead q with | some k => k.part | none => false))

/-- May a shared engine begin a command of this queue (R187)? It runs one command at a time, and chooses among the contexts that have one to
begin in turn, after the one that it served last (log entry 83). -/
def State.engineFree (s : State) (q : QId) : Bool :=
  let x := s.queueCtx q
  let others := (List.range Config.contexts).filter (fun y => y != x)
  let last := Tbl.get 0 s.mod.served (sharedKey q)
  let far := fun (y : Nat) => (y + Config.contexts - last % Config.contexts) % Config.contexts
  !isShared q || (!s.othersRun q &&
    others.all (fun y => !s.wantsEngine (queueFor y q) || decide (far x ≤ far y)))

/-- A command begins stage 3, when its engine is free. What fails there faults at the queue head (R198): the command has not begun. -/
def State.startRun (s : State) (q : QId) (k : Cmd) : State :=
  if s.engineFree q = false then s
  else
    match beginRun q k s with
    | .ok (s', k') => (s'.putCmd q k').serve q
    | .error e =>
      if e.waitsChannel then s
      else
        let k := { k with stage := 1 }
        stepFails q e k (s.putCmd q k)

/-- A command enters stage 2: it waits on WSEM among the other waiters (R188, R245), or passes at once in the next step. -/
def State.enterWaits (s : State) (q : QId) (k : Cmd) : State :=
  let s := s.putCmd q { k with stage := 2 }
  let s := if k.wval = 0 ∨ k.met then s else s.modCore k.pusher (fun co =>
    co.setSem k.wsem { co.sem k.wsem with waiters := (co.sem k.wsem).waiters ++ [(.queue q k.uid, BitVec.ofNat 32 k.wval)] })
  s.retest q

/-- COMMAND_HEAD_CHECK (R188, R60): a malformed command faults; a part-way one goes on at its progress word, with no second wait (24
R379, R382). -/
def execCommandHeadCheck (q : QId) (s : State) : Out :=
  eventStep s (fun s => s.forQueue q (fun s =>
    if s.heldBack q then s
    else match s.atHead q with
      | none => s
      | some k =>
        if s.headOk q k then
          match fetchBody q k s with
          | .ok (_, s1) => if k.part then s1.startRun q k else s1.enterWaits q k
          | .error e => stepFails q e k s
        else s.cmdFault q k))

/-! ### Stage 2 -/

/-- COMMAND_WAITS_MET (R188): the test and the pops are one step; what they acquired, the body and the lists see. -/
def execCommandWaitsMet (q : QId) (s : State) : Out :=
  eventStep s (fun s => s.forQueue q (fun s =>
    let s := s.retest q
    if s.heldBack q then s
    else match (s.queue q).cmds.find? (fun k => k.stage == 2) with
      | some k => if k.met then s.startRun q k else s
      | none => s))

/-- A chained command waits no more for its mover command, whose writes it sees, each landing of MCAST under its own name among them (07 R176). -/
def Cmd.unchain (mv k : Cmd) : Cmd := if k.waitOn = some mv.uid then { k with waitOn := none, acq := k.acq ++ mv.owns } else k

/-- CHAINED_COMMAND_START (07 R176): the mover has landed the last byte of its command, and the matrix command may reach the head. -/
def State.startChained (s : State) (core : Nat) : State :=
  let q := QId.core core 1
  let landed := (([2, 4].map (fun sel => (s.queue (.core core sel)).cmds)).flatten).filter (fun k =>
    decide (4 ≤ k.stage) && k.lands.isEmpty && k.sends.isEmpty)
  s.setQueue q { s.queue q with cmds := landed.foldl (fun cs mv => cs.map mv.unchain) (s.queue q).cmds }

def execChainedCommandStart (core : Nat) (s : State) : Out := eventStep s (fun s => s.startChained core)

/-! ### Stages 4 and 5 -/

/-- Every write of a command is performed (R188; 09 R229; 14 R264): nothing held, nothing on its way. -/
def State.performed (s : State) (q : QId) (k : Cmd) : Bool :=
  k.stage == 4 && k.held.isEmpty && k.lands.isEmpty && k.chSeq.isNone && k.sends.isEmpty &&
    (match q with
      | .core c 0 => (s.core c).vec.stores.all (fun e => e.2.all (fun p => p.strand != k.uid))
      | .crsl x die => stepsDone (s.ctx x).crsl die k.uid
      | _ => true)

/-- What a command's status word and its releases are at its completion (03 R73, 21 R350). -/
def State.finish (s : State) (q : QId) (k : Cmd) : Cmd :=
  match q with
  | .crsl x die =>
    let r := crslResult (s.ctx x).crsl die k.uid
    { k with status := joinStatus k.status r.1, owns := k.owns ++ r.2 }
  | _ => k

/-- Where a command with STATUS writes its status word: none for a matrix command in which no ASTORE has acted (R192, R193; 07 R174). -/
def Cmd.statusPlace (q : QId) (k : Cmd) : Option Int :=
  if !k.statusBit then none
  else if engineOf q = 1 ∧ k.len ≠ 0 then k.statAddr.map (fun a => (a : Int))
  else some (k.statusAt q)

/-- Stage 4 ends: the status word is written as one of the command's own engine writes. -/
def completeCmd (q : QId) (k : Cmd) (s : State) : StepRes :=
  let k := s.finish q k
  match k.statusPlace q with
  | none => .ok (s, { k with stage := 5 })
  | some p => do
    let a ← asAddr p
    let (s, k) ← s.engWrite k (s.cmdCtx q) a (clean (leBytes k.status.toNat 8))
    .ok (s, { k with stage := 5 })

/-- COMMAND_COMPLETE (R188, R192). -/
def execCommandComplete (q : QId) (num : Nat) (s : State) : Out :=
  eventStep s (fun s => s.forQueue q (fun s =>
    match (s.queue q).cmds.find? (fun k => k.num == num) with
      | some k =>
        if s.performed q k then
          match completeCmd q k s with
          | .ok (s', k') => s'.putCmd q k'
          | .error e => stepFails q e k s
        else s
      | none => s))

/-- What a command's signals release (13 R258): its own writes and those that it acquired. -/
def Cmd.releases (k : Cmd) : List Nat := k.uid :: k.owns ++ k.acq

/-- The signals of a command, in one step (R188): tokens, SADD, and its number counts from here on, with those that an abort has discarded
behind it (R93; 12 R246). They release what the command wrote and acquired, and nothing else (13 R258). -/
def State.signal (s : State) (q : QId) (k : Cmd) : State :=
  let rel := k.releases
  let qu := s.queue q
  let kept := qu.cmds.filter (fun j => j.uid != k.uid)
  let s := s.setQueue q { qu with
    cmds := kept, count := (match kept with | j :: _ => j.num - 1 | [] => qu.last), retired := qu.retired ++ [(k.num, rel)] }
  let s := match q with
    | .core c sel => s.modCore c (fun co => co.pushTokens k.sig (selEngine sel) ⟨rel, k.relSee⟩)
    | _ => s
  let s := match q with
    | .core c _ => s.setQueue (.core c 1) { s.queue (.core c 1) with cmds := (s.queue (.core c 1)).cmds.map k.unchain }
    | _ => s
  if k.sadd = 0 then s.retestAll k.pusher
  else s.putSem k.pusher k.ssem (((s.core k.pusher).sem k.ssem).val + BitVec.ofNat 32 k.sadd) rel k.relSee

/-- COMMAND_SIGNAL (R188): in number order, when every destination token queue has room. -/
def execCommandSignal (q : QId) (num : Nat) (s : State) : Out :=
  eventStep s (fun s => s.forQueue q (fun s =>
    match (s.queue q).cmds with
    | k :: _ =>
      let room : Bool := match q with | .core c sel => (s.core c).tokenRoom k.sig (selEngine sel) | _ => true
      if k.num = num ∧ k.stage = 5 ∧ room then (s.signal q k).drainSeen k.pusher else s
    | [] => s))

/-- The step words of the engines whose steps read and write by themselves. -/
def stepOp (i : Instr) : Option EngOp := (mvCopyOp i).or ((mvXformOp i).or ((stashOp i).or (douOp i)))

/-- A queue's command knows what its steps write (08 R194). -/
def State.seeAhead (s : State) (q : QId) : State := if isMtx q then s.mtxAhead q else s.lookAhead stepOp id q

/-! ### Waits of engines -/

/-- FULL_WAIT_RELEASE (06 R140, 07 R162): a member cluster's word, or a matrix step, finds its lines full. -/
def execFullWaitRelease (w : Waiter) (s : State) : Out :=
  eventStep s (fun s => match w with
    | .cluster c uid r => s.releaseFull c uid r
    | .matrix c => s.retryMatrix c
    | _ => s)

end Sys2Proof.Machine
end

