-- ==== Sys2Proof/Machine/SeqBranch.lean ====
section
/-!
DEFINITION. Sys2Proof/Machine/SeqBranch.lean: branches and jumps (04 R83, 02 R41; poison R78).
-/
namespace Sys2Proof.Machine

/-- Go to a target; the fetch there decides whether it is translated (R83). -/
def Core.goto (c : Core) (t : BitVec 56) : Core := { c with pc := t }

/-- Branch when the condition on s[a] and s[b] holds; branching on poison is a poison trap (R78). -/
def branchOp (a b : BitVec 5) (off : BitVec 16) (cond : BitVec 64 → BitVec 64 → Bool) (s : State) : Out :=
  seqWord s [a, b] (fun c co =>
    if co.anyPois [a, b] then s.poisonTrap c
    else s.setCore c (if cond (co.reg a) (co.reg b) then co.goto (target co.pc off) else co.advance 4))

def execBEq (a b : BitVec 5) (off : BitVec 16) (s : State) : Out := branchOp a b off (fun x y => x == y) s
def execBNe (a b : BitVec 5) (off : BitVec 16) (s : State) : Out := branchOp a b off (fun x y => x != y) s
def execBLt (a b : BitVec 5) (off : BitVec 16) (s : State) : Out := branchOp a b off (fun x y => x.slt y) s
def execBGe (a b : BitVec 5) (off : BitVec 16) (s : State) : Out := branchOp a b off (fun x y => !x.slt y) s
def execBLtn (a b : BitVec 5) (off : BitVec 16) (s : State) : Out := branchOp a b off (fun x y => x.ult y) s
def execBGen (a b : BitVec 5) (off : BitVec 16) (s : State) : Out := branchOp a b off (fun x y => !x.ult y) s

/-- TSTW branches when bit b of s[a] is 1. -/
def execTstw (a bit : BitVec 5) (off : BitVec 16) (s : State) : Out :=
  seqWord s [a] (fun c co =>
    if co.pois a then s.poisonTrap c
    else s.setCore c (if (co.reg a).getLsbD bit.toNat then co.goto (target co.pc off) else co.advance 4))

def execJ (off : BitVec 26) (s : State) : Out :=
  seqWord s [] (fun c co => s.setCore c (co.goto (target co.pc off)))

/-- JAL links in s31. -/
def execJal (off : BitVec 26) (s : State) : Out :=
  seqWord s [] (fun c co => s.setCore c ((co.write 31 ((co.pc + 4).zeroExtend 64) false).goto (target co.pc off)))

/-- JR reads s[a] before it writes s[d]; a target with bits 1:0 set is an alignment trap, one above 56 bits a fatal context error
at the fetch (R83). -/
def execJr (d a : BitVec 5) (s : State) : Out :=
  seqWord s [a] (fun c co =>
    let t := co.reg a
    if co.pois a then s.poisonTrap c
    else if t.toNat % 4 ≠ 0 then s.misaligned c t.toNat
    else if 2 ^ 56 ≤ t.toNat then s.fatal c t.toNat
    else s.setCore c ((co.write d ((co.pc + 4).zeroExtend 64) false).goto (BitVec.ofNat 56 t.toNat)))

end Sys2Proof.Machine
end

