-- ==== Sys2Proof/Machine/Dispatch.lean ====
section
/-!
DEFINITION. Sys2Proof/Machine/Dispatch.lean: one arm per constructor of Instr, each a direct call of its meaning.
-/
namespace Sys2Proof.Machine

/-- The meaning of every instruction and event. -/
def exec (i : Instr) (s : State) : Host.Outcome State Fault Refusal :=
  match i with
  | .add d a b => Sys2Proof.Machine.execAdd d a b s
  | .sub d a b => Sys2Proof.Machine.execSub d a b s
  | .mul d a b => Sys2Proof.Machine.execMul d a b s
  | .mulh d a b => Sys2Proof.Machine.execMulh d a b s
  | .mulhn d a b => Sys2Proof.Machine.execMulhn d a b s
  | .div d a b => Sys2Proof.Machine.execDiv d a b s
  | .divn d a b => Sys2Proof.Machine.execDivn d a b s
  | .rem d a b => Sys2Proof.Machine.execRem d a b s
  | .remn d a b => Sys2Proof.Machine.execRemn d a b s
  | .and d a b => Sys2Proof.Machine.execAnd d a b s
  | .or d a b => Sys2Proof.Machine.execOr d a b s
  | .xor d a b => Sys2Proof.Machine.execXor d a b s
  | .shl d a b => Sys2Proof.Machine.execShl d a b s
  | .shr d a b => Sys2Proof.Machine.execShr d a b s
  | .sar d a b => Sys2Proof.Machine.execSar d a b s
  | .min d a b => Sys2Proof.Machine.execMin d a b s
  | .max d a b => Sys2Proof.Machine.execMax d a b s
  | .minn d a b => Sys2Proof.Machine.execMinn d a b s
  | .maxn d a b => Sys2Proof.Machine.execMaxn d a b s
  | .slt d a b => Sys2Proof.Machine.execSlt d a b s
  | .sltn d a b => Sys2Proof.Machine.execSltn d a b s
  | .clz d a => Sys2Proof.Machine.execClz d a s
  | .popc d a => Sys2Proof.Machine.execPopc d a s
  | .sel d c a b => Sys2Proof.Machine.execSel d c a b s
  | .addi d a imm => Sys2Proof.Machine.execAddi d a imm s
  | .andi d a imm => Sys2Proof.Machine.execAndi d a imm s
  | .ori d a imm => Sys2Proof.Machine.execOri d a imm s
  | .xori d a imm => Sys2Proof.Machine.execXori d a imm s
  | .shli d a n => Sys2Proof.Machine.execShli d a n s
  | .shri d a n => Sys2Proof.Machine.execShri d a n s
  | .sari d a n => Sys2Proof.Machine.execSari d a n s
  | .slti d a imm => Sys2Proof.Machine.execSlti d a imm s
  | .movhi d imm => Sys2Proof.Machine.execMovhi d imm s
  | .ldB d a imm => Sys2Proof.Machine.execLdB d a imm s
  | .ldH d a imm => Sys2Proof.Machine.execLdH d a imm s
  | .ldW d a imm => Sys2Proof.Machine.execLdW d a imm s
  | .ldD d a imm => Sys2Proof.Machine.execLdD d a imm s
  | .ldsB d a imm => Sys2Proof.Machine.execLdsB d a imm s
  | .ldsH d a imm => Sys2Proof.Machine.execLdsH d a imm s
  | .ldsW d a imm => Sys2Proof.Machine.execLdsW d a imm s
  | .ldsD d a imm => Sys2Proof.Machine.execLdsD d a imm s
  | .stB d a imm => Sys2Proof.Machine.execStB d a imm s
  | .stH d a imm => Sys2Proof.Machine.execStH d a imm s
  | .stW d a imm => Sys2Proof.Machine.execStW d a imm s
  | .stD d a imm => Sys2Proof.Machine.execStD d a imm s
  | .bEq a b off => Sys2Proof.Machine.execBEq a b off s
  | .bNe a b off => Sys2Proof.Machine.execBNe a b off s
  | .bLt a b off => Sys2Proof.Machine.execBLt a b off s
  | .bGe a b off => Sys2Proof.Machine.execBGe a b off s
  | .bLtn a b off => Sys2Proof.Machine.execBLtn a b off s
  | .bGen a b off => Sys2Proof.Machine.execBGen a b off s
  | .j off => Sys2Proof.Machine.execJ off s
  | .jal off => Sys2Proof.Machine.execJal off s
  | .jr d a => Sys2Proof.Machine.execJr d a s
  | .tstw a bit off => Sys2Proof.Machine.execTstw a bit off s
  | .semadd d a m => Sys2Proof.Machine.execSemadd d a m s
  | .semaddc a m => Sys2Proof.Machine.execSemaddc a m s
  | .semcas d a m => Sys2Proof.Machine.execSemcas d a m s
  | .semset a m => Sys2Proof.Machine.execSemset a m s
  | .semread d m => Sys2Proof.Machine.execSemread d m s
  | .semwait a m => Sys2Proof.Machine.execSemwait a m s
  | .draw d a => Sys2Proof.Machine.execDraw d a s
  | .rclaim d q => Sys2Proof.Machine.execRclaim d q s
  | .rfill a q => Sys2Proof.Machine.execRfill a q s
  | .rwaitf q => Sys2Proof.Machine.execRwaitf q s
  | .rwaite q => Sys2Proof.Machine.execRwaite q s
  | .rtake d q => Sys2Proof.Machine.execRtake d q s
  | .rfree a q => Sys2Proof.Machine.execRfree a q s
  | .rstat d q => Sys2Proof.Machine.execRstat d q s
  | .join g => Sys2Proof.Machine.execJoin g s
  | .leave g => Sys2Proof.Machine.execLeave g s
  | .arrive d g => Sys2Proof.Machine.execArrive d g s
  | .bwait a g => Sys2Proof.Machine.execBwait a g s
  | .btest d a g => Sys2Proof.Machine.execBtest d a g s
  | .tlwait a ctr inst => Sys2Proof.Machine.execTlwait a ctr inst s
  | .tlread d ctr inst => Sys2Proof.Machine.execTlread d ctr inst s
  | .xfenceO2E => Sys2Proof.Machine.execXfenceO2E s
  | .xfenceE2O => Sys2Proof.Machine.execXfenceE2O s
  | .cload k a imm => Sys2Proof.Machine.execCload k a imm s
  | .cset k n a => Sys2Proof.Machine.execCset k n a s
  | .cseti k n imm => Sys2Proof.Machine.execCseti k n imm s
  | .cpush d k => Sys2Proof.Machine.execCpush d k s
  | .cstat d eng k => Sys2Proof.Machine.execCstat d eng k s
  | .tnext d => Sys2Proof.Machine.execTnext d s
  | .tend => Sys2Proof.Machine.execTend s
  | .tabort => Sys2Proof.Machine.execTabort s
  | .tquery d a => Sys2Proof.Machine.execTquery d a s
  | .nop => Sys2Proof.Machine.execNop s
  | .halt => Sys2Proof.Machine.execHalt s
  | .trap code => Sys2Proof.Machine.execTrap code s
  | .eret => Sys2Proof.Machine.execEret s
  | .sysr d sr => Sys2Proof.Machine.execSysr d sr s
  | .sysw a sr => Sys2Proof.Machine.execSysw a sr s
  | .probe a => Sys2Proof.Machine.execProbe a s
  | .clean a b => Sys2Proof.Machine.execClean a b s
  | .inval a b => Sys2Proof.Machine.execInval a b s
  | .ptest d a => Sys2Proof.Machine.execPtest d a s
  | .pfxC coord => Sys2Proof.Machine.execPfxC coord s
  | .pfxI imm => Sys2Proof.Machine.execPfxI imm s
  | .fadd p d a b => Sys2Proof.Machine.execFadd p d a b s
  | .fsub p d a b => Sys2Proof.Machine.execFsub p d a b s
  | .fmul p d a b => Sys2Proof.Machine.execFmul p d a b s
  | .fma p d a b => Sys2Proof.Machine.execFma p d a b s
  | .fms p d a b => Sys2Proof.Machine.execFms p d a b s
  | .fnma p d a b => Sys2Proof.Machine.execFnma p d a b s
  | .fmin p d a b => Sys2Proof.Machine.execFmin p d a b s
  | .fmax p d a b => Sys2Proof.Machine.execFmax p d a b s
  | .fabs p d a => Sys2Proof.Machine.execFabs p d a s
  | .fneg p d a => Sys2Proof.Machine.execFneg p d a s
  | .fcmpSet1 p cc pd a b => Sys2Proof.Machine.execFcmpSet1 p cc pd a b s
  | .fcmpSet2 p cc pd a b => Sys2Proof.Machine.execFcmpSet2 p cc pd a b s
  | .frcp p d a => Sys2Proof.Machine.execFrcp p d a s
  | .frsq p d a => Sys2Proof.Machine.execFrsq p d a s
  | .fsqrt p d a => Sys2Proof.Machine.execFsqrt p d a s
  | .fdiv p d a b => Sys2Proof.Machine.execFdiv p d a b s
  | .fexp2 p d a => Sys2Proof.Machine.execFexp2 p d a s
  | .flog2 p d a => Sys2Proof.Machine.execFlog2 p d a s
  | .fclass p d a => Sys2Proof.Machine.execFclass p d a s
  | .iadd p d a b => Sys2Proof.Machine.execIadd p d a b s
  | .iadds p d a b => Sys2Proof.Machine.execIadds p d a b s
  | .isub p d a b => Sys2Proof.Machine.execIsub p d a b s
  | .imul p d a b => Sys2Proof.Machine.execImul p d a b s
  | .imulh p d a b => Sys2Proof.Machine.execImulh p d a b s
  | .imad p d a b => Sys2Proof.Machine.execImad p d a b s
  | .imin p d a b => Sys2Proof.Machine.execImin p d a b s
  | .imax p d a b => Sys2Proof.Machine.execImax p d a b s
  | .iabs p d a => Sys2Proof.Machine.execIabs p d a s
  | .iand p d a b => Sys2Proof.Machine.execIand p d a b s
  | .ior p d a b => Sys2Proof.Machine.execIor p d a b s
  | .ixor p d a b => Sys2Proof.Machine.execIxor p d a b s
  | .inot p d a => Sys2Proof.Machine.execInot p d a s
  | .ishl p d a b => Sys2Proof.Machine.execIshl p d a b s
  | .ishr p d a b => Sys2Proof.Machine.execIshr p d a b s
  | .isar p d a b => Sys2Proof.Machine.execIsar p d a b s
  | .icmpSet1 p cc pd a b => Sys2Proof.Machine.execIcmpSet1 p cc pd a b s
  | .icmpSet2 p cc pd a b => Sys2Proof.Machine.execIcmpSet2 p cc pd a b s
  | .cvt p d a fmt => Sys2Proof.Machine.execCvt p d a fmt s
  | .cvtsr p d a fmt => Sys2Proof.Machine.execCvtsr p d a fmt s
  | .bamax p d a => Sys2Proof.Machine.execBamax p d a s
  | .bscale p d a b => Sys2Proof.Machine.execBscale p d a b s
  | .qnt p d a fmt => Sys2Proof.Machine.execQnt p d a fmt s
  | .dqnt p d a fmt => Sys2Proof.Machine.execDqnt p d a fmt s
  | .pack p d a fmt => Sys2Proof.Machine.execPack p d a fmt s
  | .unpack p d a fmt => Sys2Proof.Machine.execUnpack p d a fmt s
  | .mov p d a => Sys2Proof.Machine.execMov p d a s
  | .movi p d imm => Sys2Proof.Machine.execMovi p d imm s
  | .movx p d a => Sys2Proof.Machine.execMovx p d a s
  | .vgetx p d xa => Sys2Proof.Machine.execVgetx p d xa s
  | .vsetx p xd a => Sys2Proof.Machine.execVsetx p xd a s
  | .perm p d a b => Sys2Proof.Machine.execPerm p d a b s
  | .xperm p d a b => Sys2Proof.Machine.execXperm p d a b s
  | .bcast p d a lane => Sys2Proof.Machine.execBcast p d a lane s
  | .lshift p d a b => Sys2Proof.Machine.execLshift p d a b s
  | .redsum p d a => Sys2Proof.Machine.execRedsum p d a s
  | .redmax p d a => Sys2Proof.Machine.execRedmax p d a s
  | .scan p d a => Sys2Proof.Machine.execScan p d a s
  | .vld p mode d xa disp => Sys2Proof.Machine.execVld p mode d xa disp s
  | .vst p mode d xa disp => Sys2Proof.Machine.execVst p mode d xa disp s
  | .vlds p mode d xa xb => Sys2Proof.Machine.execVlds p mode d xa xb s
  | .vsts p mode d xa xb => Sys2Proof.Machine.execVsts p mode d xa xb s
  | .vldx p mode d xa b => Sys2Proof.Machine.execVldx p mode d xa b s
  | .vstx p mode d xa b => Sys2Proof.Machine.execVstx p mode d xa b s
  | .vstm p xa disp => Sys2Proof.Machine.execVstm p xa disp s
  | .vtstw bit off => Sys2Proof.Machine.execVtstw bit off s
  | .pset p pd imm => Sys2Proof.Machine.execPset p pd imm s
  | .pand p pd pa pb => Sys2Proof.Machine.execPand p pd pa pb s
  | .por p pd pa pb => Sys2Proof.Machine.execPor p pd pa pb s
  | .pxor p pd pa pb => Sys2Proof.Machine.execPxor p pd pa pb s
  | .pnot p pd pa => Sys2Proof.Machine.execPnot p pd pa s
  | .pany p d pa => Sys2Proof.Machine.execPany p d pa s
  | .pcnt p d pa => Sys2Proof.Machine.execPcnt p d pa s
  | .vbr p cond off => Sys2Proof.Machine.execVbr p cond off s
  | .vjmp off => Sys2Proof.Machine.execVjmp off s
  | .vyield => Sys2Proof.Machine.execVyield s
  | .vexit => Sys2Proof.Machine.execVexit s
  | .vwait m xb => Sys2Proof.Machine.execVwait m xb s
  | .vsetshImm imm => Sys2Proof.Machine.execVsetshImm imm s
  | .vsetshX xa => Sys2Proof.Machine.execVsetshX xa s
  | .vnop => Sys2Proof.Machine.execVnop s
  | .vpfxr e dh ah bh => Sys2Proof.Machine.execVpfxr e dh ah bh s
  | .vpfxi imm => Sys2Proof.Machine.execVpfxi imm s
  | .mma acc hA hB z => Sys2Proof.Machine.execMma acc hA hB z s
  | .mmabs acc hA hB z => Sys2Proof.Machine.execMmabs acc hA hB z s
  | .azero acc => Sys2Proof.Machine.execAzero acc s
  | .aload acc h => Sys2Proof.Machine.execAload acc h s
  | .astore acc h n => Sys2Proof.Machine.execAstore acc h n s
  | .awm acc n => Sys2Proof.Machine.execAwm acc n s
  | .await acc n => Sys2Proof.Machine.execAwait acc n s
  | .ascale acc h => Sys2Proof.Machine.execAscale acc h s
  | .acvt acc n => Sys2Proof.Machine.execAcvt acc n s
  | .achk acc => Sys2Proof.Machine.execAchk acc s
  | .hset h st => Sys2Proof.Machine.execHset h st s
  | .hver h n => Sys2Proof.Machine.execHver h n s
  | .ctbl t st => Sys2Proof.Machine.execCtbl t st s
  | .copy sa sb f1 n => Sys2Proof.Machine.execCopy sa sb f1 n s
  | .fill sa sb f1 n => Sys2Proof.Machine.execFill sa sb f1 n s
  | .gather sa sb sc f1 n => Sys2Proof.Machine.execGather sa sb sc f1 n s
  | .scatter sa sb sc f1 n => Sys2Proof.Machine.execScatter sa sb sc f1 n s
  | .mcast sa sc f1 n => Sys2Proof.Machine.execMcast sa sc f1 n s
  | .chsend sa q n => Sys2Proof.Machine.execChsend sa q n s
  | .xformConvert sa sb f1 f2 n => Sys2Proof.Machine.execXformConvert sa sb f1 f2 n s
  | .xformCompress sa sb method n => Sys2Proof.Machine.execXformCompress sa sb method n s
  | .xformExpand sa sb f1 method n => Sys2Proof.Machine.execXformExpand sa sb f1 method n s
  | .enc sa sb f1 t n => Sys2Proof.Machine.execEnc sa sb f1 t n s
  | .dec sa sb f1 n => Sys2Proof.Machine.execDec sa sb f1 n s
  | .dcopy sa sb n => Sys2Proof.Machine.execDcopy sa sb n s
  | .dfill sa sb n => Sys2Proof.Machine.execDfill sa sb n s
  | .dand sa sb sc n => Sys2Proof.Machine.execDand sa sb sc n s
  | .dor sa sb sc n => Sys2Proof.Machine.execDor sa sb sc n s
  | .dxor sa sb sc n => Sys2Proof.Machine.execDxor sa sb sc n s
  | .dnot sa sb n => Sys2Proof.Machine.execDnot sa sb n s
  | .dgsum sa sb sc f1 n => Sys2Proof.Machine.execDgsum sa sb sc f1 n s
  | .sput sa slot n => Sys2Proof.Machine.execSput sa slot n s
  | .sget sa slot n => Sys2Proof.Machine.execSget sa slot n s
  | .sdrop slot => Sys2Proof.Machine.execSdrop slot s
  | .spref slot => Sys2Proof.Machine.execSpref slot s
  | .sqry sa slot => Sys2Proof.Machine.execSqry sa slot s
  | .cred sa chunk fmt bucket => Sys2Proof.Machine.execCred sa chunk fmt bucket s
  | .cgath sa chunk fmt bucket => Sys2Proof.Machine.execCgath sa chunk fmt bucket s
  | .cbar bucket => Sys2Proof.Machine.execCbar bucket s
  | .checkedOpEffect core ok => Sys2Proof.Machine.execCheckedOpEffect core ok s
  | .loadDataReturn dst => Sys2Proof.Machine.execLoadDataReturn dst s
  | .storePerformed src => Sys2Proof.Machine.execStorePerformed src s
  | .stalledIssueResume core => Sys2Proof.Machine.execStalledIssueResume core s
  | .semwaitRelease core => Sys2Proof.Machine.execSemwaitRelease core s
  | .waitInterrupted w => Sys2Proof.Machine.execWaitInterrupted w s
  | .ringWaitRelease core => Sys2Proof.Machine.execRingWaitRelease core s
  | .bwaitRelease core => Sys2Proof.Machine.execBwaitRelease core s
  | .tlwaitRelease core => Sys2Proof.Machine.execTlwaitRelease core s
  | .tendReport core => Sys2Proof.Machine.execTendReport core s
  | .vwaitRelease core strand rank => Sys2Proof.Machine.execVwaitRelease core strand rank s
  | .fullWaitRelease w => Sys2Proof.Machine.execFullWaitRelease w s
  | .syncBundleJoin core strand => Sys2Proof.Machine.execSyncBundleJoin core strand s
  | .vexitJoin core strand => Sys2Proof.Machine.execVexitJoin core strand s
  | .starvationCountExpiry core strand => Sys2Proof.Machine.execStarvationCountExpiry core strand s
  | .vccResume core => Sys2Proof.Machine.execVccResume core s
  | .commandHeadCheck q => Sys2Proof.Machine.execCommandHeadCheck q s
  | .commandWaitsMet q => Sys2Proof.Machine.execCommandWaitsMet q s
  | .strandCreate core => Sys2Proof.Machine.execStrandCreate core s
  | .chainedCommandStart core => Sys2Proof.Machine.execChainedCommandStart core s
  | .commandComplete q num => Sys2Proof.Machine.execCommandComplete q num s
  | .commandSignal q num => Sys2Proof.Machine.execCommandSignal q num s
  | .mcastLanding q num idx => Sys2Proof.Machine.execMcastLanding q num idx s
  | .matrixStepCheck core ok => Sys2Proof.Machine.execMatrixStepCheck core ok s
  | .pinWaitRelease core => Sys2Proof.Machine.execPinWaitRelease core s
  | .pinTimeout core => Sys2Proof.Machine.execPinTimeout core s
  | .cutComplete core => Sys2Proof.Machine.execCutComplete core s
  | .qctlDiscard core bit => Sys2Proof.Machine.execQctlDiscard core bit s
  | .strctlEndStrand core => Sys2Proof.Machine.execStrctlEndStrand core s
  | .strandDrainTimeout core strand => Sys2Proof.Machine.execStrandDrainTimeout core strand s
  | .ringmasterRound ctx stage => Sys2Proof.Machine.execRingmasterRound ctx stage s
  | .taskRetire ctx stage task => Sys2Proof.Machine.execTaskRetire ctx stage task s
  | .stashLookahead ctx stage => Sys2Proof.Machine.execStashLookahead ctx stage s
  | .chsendWindowGrant ctx ring => Sys2Proof.Machine.execChsendWindowGrant ctx ring s
  | .channelLanding ctx ring slot first bytes poisoned => Sys2Proof.Machine.execChannelLanding ctx ring slot first bytes poisoned s
  | .channelPublish ctx ring seq tag void => Sys2Proof.Machine.execChannelPublish ctx ring seq tag void s
  | .channelAdvertisement ctx ring freed => Sys2Proof.Machine.execChannelAdvertisement ctx ring freed s
  | .carouselConsume ctx die chunk => Sys2Proof.Machine.execCarouselConsume ctx die chunk s
  | .carouselReduceArrival ctx die msg => Sys2Proof.Machine.execCarouselReduceArrival ctx die msg s
  | .carouselGatherArrival ctx die msg => Sys2Proof.Machine.execCarouselGatherArrival ctx die msg s
  | .loadLtt ctx => Sys2Proof.Machine.execLoadLtt ctx s
  | .declareStage ctx => Sys2Proof.Machine.execDeclareStage ctx s
  | .launch ctx => Sys2Proof.Machine.execLaunch ctx s
  | .preempt ctx => Sys2Proof.Machine.execPreempt ctx s
  | .preemptSaved ctx => Sys2Proof.Machine.execPreemptSaved ctx s
  | .resume ctx => Sys2Proof.Machine.execResume ctx s
  | .kill ctx => Sys2Proof.Machine.execKill ctx s
  | .curtainMessage ctx gen start tag0 mbnm1 list => Sys2Proof.Machine.execCurtainMessage ctx gen start tag0 mbnm1 list s
  | .curtainReport ctx w4 fault => Sys2Proof.Machine.execCurtainReport ctx w4 fault s
  | .curtainRise ctx joins => Sys2Proof.Machine.execCurtainRise ctx joins s
  | .curtainFall ctx err fallen => Sys2Proof.Machine.execCurtainFall ctx err fallen s
  | .curtainTimeout ctx => Sys2Proof.Machine.execCurtainTimeout ctx s
  | .lossMessage ctx w4 => Sys2Proof.Machine.execLossMessage ctx w4 s
  | .flitReceive port flit => Sys2Proof.Machine.execFlitReceive port flit s
  | .linkDown port lost ranks => Sys2Proof.Machine.execLinkDown port lost ranks s
  | .remoteStoreAck src => Sys2Proof.Machine.execRemoteStoreAck src s
  | .hostMemAccess write addr data => Sys2Proof.Machine.execHostMemAccess write addr data s
  | .lrbaseWrite ctx value => Sys2Proof.Machine.execLrbaseWrite ctx value s
  | .lrsizeWrite ctx value => Sys2Proof.Machine.execLrsizeWrite ctx value s
  | .lrtailWrite ctx value => Sys2Proof.Machine.execLrtailWrite ctx value s
  | .lrstatWrite ctx value => Sys2Proof.Machine.execLrstatWrite ctx value s
  | .lrkillWrite ctx value => Sys2Proof.Machine.execLrkillWrite ctx value s
  | .lttcmdWrite ctx value => Sys2Proof.Machine.execLttcmdWrite ctx value s
  | .lttcmdRemove ctx value => Sys2Proof.Machine.execLttcmdRemove ctx value s
  | .lttcmdResume ctx value => Sys2Proof.Machine.execLttcmdResume ctx value s
  | .dbgctlHalt ctx value => Sys2Proof.Machine.execDbgctlHalt ctx value s
  | .dbgctlResume ctx value => Sys2Proof.Machine.execDbgctlResume ctx value s
  | .evbaseWrite ctx value => Sys2Proof.Machine.execEvbaseWrite ctx value s
  | .evsizeWrite ctx value => Sys2Proof.Machine.execEvsizeWrite ctx value s
  | .evheadWrite ctx value => Sys2Proof.Machine.execEvheadWrite ctx value s
  | .registerWrite ctx offset value => Sys2Proof.Machine.execRegisterWrite ctx offset value s
  | .moduleReset fw => Sys2Proof.Machine.execModuleReset fw s
  | .wearSample samples => Sys2Proof.Machine.execWearSample samples s
  | .wearFlashWrite => Sys2Proof.Machine.execWearFlashWrite s
  | .clockChangeStart core => Sys2Proof.Machine.execClockChangeStart core s
  | .clockChangeComplete core => Sys2Proof.Machine.execClockChangeComplete core s
  | .laneRepair stack channel => Sys2Proof.Machine.execLaneRepair stack channel s
  | .laneRepairDone stack channel => Sys2Proof.Machine.execLaneRepairDone stack channel s
  | .tnextAnswerArrival core => Sys2Proof.Machine.execTnextAnswerArrival core s
  | .remoteResultReturn core d => Sys2Proof.Machine.execRemoteResultReturn core d s
  | .remoteAccessAtHome acc => Sys2Proof.Machine.execRemoteAccessAtHome acc s
  | .leaseExpiry line => Sys2Proof.Machine.execLeaseExpiry line s
  | .dirtySectorWriteBack sector => Sys2Proof.Machine.execDirtySectorWriteBack sector s
  | .powerLoss => Sys2Proof.Machine.execPowerLoss s

end Sys2Proof.Machine
end

