-- ==== Sys2Proof/Machine/Turn.lean ====
section
/-!
DEFINITION. Sys2Proof/Machine/Turn.lean: the turn of one agent: the sequencer's, a member cluster's, an engine's, a device event, the passing of
time (13 R251: agents act in no fixed order; log entry 2), and the turn taken when the schedule names none.
-/
namespace Sys2Proof.Machine

/-- The sequencer of a core (04 R75, R102; 24 R379): a fault that it holds is taken before its next word; else it runs the word at its PC. -/
def State.seqTurn (s : State) (c : Nat) : Out :=
  let co := s.core c
  if co.ready = false then .next s
  else if co.handler = false ∧ co.heldFaults ≠ [] then .next (s.settleFaults c)
  else
    { s with who := .seq c }.withSeqWord c co.pc.toNat (fun w s1 =>
      match (decodeSeq w).filter Instr.wf with
      | some i => exec i s1
      | none => .next (s1.illegal c))

/-- Does a member have its cluster for itself, with its strand not starved? Its next issue there is the cluster's choice (10 R219, R220). -/
def VCx.soleIn (w : VCx) : Bool :=
  decide (w.st.starve < 256) && (w.co.membersIn [w.m.cluster]).all (fun e => e.1 == w.st.uid)

/-- A member cluster (06 R130, R144; 02 R50): in a cluster of its own a bundle without prefixes runs its word; prefixes and synced bundles go through
the unit. Where strands share the cluster, it chooses among their words (10 R219). -/
def State.clusterTurn (s : State) (c uid r : Nat) : Out :=
  let s := { s with who := .cluster c uid r }
  match s.vcx c uid r 16 false false with
  | none => .next s
  | some w =>
    if w.soleIn = false then .next (s.cycleIn c [w.m.cluster])
    else if w.co.vecLive && w.st.runs && w.m.free then
      match s.unitOf c uid w.m.pc with
      | .error e => .next (s.vecTrap c uid r e)
      | .ok (u, s1) =>
        if w.m.wait = .run ∧ u.pfx = [] ∧ u.joins w.st = false then
          match u.instr w.m.cluster with
          | some i => exec i s1
          | none => .next (s1.vecTrap c uid r .illegal)
        else .next (s.issueUnit c uid r)
    else .next s

/-- An engine (08 R194): the next step word of the command that its queue runs; while it runs, the command knows what its steps write. -/
def State.engineTurnAt (s : State) (q : QId) : Out :=
  let s := { s with who := .engine q }
  match (s.queue q).running with
  | none => .next s
  | some k =>
    match (k.body[k.step]?).bind (fun w => decodeStep q w.toNat) with
    | some i => (match exec i (s.seeAhead q) with
      | .next s' => .next (s'.forgetAhead q)
      | o => o)
    | none => .next s

/-- Cycles that a core counts while n pass at full clock (25 R399), and the 33rds over: a derated core, and one whose clock changes, count 29
in 33. -/
def Core.counts (co : Core) (n : Nat) : Nat × Nat :=
  if co.derated || co.clkBusy then ((n * 29 + co.frac) / 33, (n * 29 + co.frac) % 33) else (n, co.frac)

/-- Time passes (04 R104, 25 R399, R402), for the virtual cycle counters too (10 R222). -/
def State.tick (s : State) (n : Nat) : State :=
  (upFrom 0 Config.cores).foldl (fun s c => s.modCore c (fun co =>
    { co with cycle := co.cycle + BitVec.ofNat 64 (co.counts n).1
              frac := (co.counts n).2
              used := Tbl.modify 0 co.used (match co.holder with | some x => x + 1 | none => 0) (· + (co.counts n).1)
              vec := if co.holder.isSome && !co.vec.vccPaused then co.vec.vccOn (co.counts n).1 else co.vec })) { s with now := s.now + n }

/-- One register of a lane that an engine command is landing takes its value (06 R132). -/
def Core.landOne (co : Core) (place : Nat) : Core :=
  match co.vec.landing[place]? with
  | some l => { co with vec := { co.vec with
      regs := Tbl.set 0 co.vec.regs l.key l.bits, rpois := NatSet.mark co.vec.rpois l.key l.pois, landing := co.vec.landing.eraseIdx place } }
  | none => co

/-- An uncorrectable error (24 R387): what was stored is fetched again, poisoned, or its context is lost with class 15. -/
def State.storageError (s : State) : StorageError → State
  | .cleanSector n => (match Tbl.get none s.ms.l2 n with
    | some sec => if sec.dirty then s else { s with ms := s.ms.drop n }
    | none => s)
  | .line k => { s with ms := s.ms.markPoison (linesOf k 1) true }
  | .seqReg c r => s.modCore c (fun co => if r = 0 then co else { co with rpois := NatSet.mark co.rpois r.toNat true })
  | .buffer c i => s.modCore c (fun co => { co with cbPois := NatSet.mark co.cbPois (i % 256) true })
  | .lane c r l => s.modCore c (fun co => { co with vec := { co.vec with rpois := NatSet.mark co.vec.rpois (r % 1024 * 128 + l % 128) true } })
  | .accRow c a r => s.modMtx c (fun m => { m with
      apois := NatSet.mark m.apois (a % 8 * 96 + r % 96) true, aerr := NatSet.mark m.aerr (a % 8 * 96 + r % 96) true })
  | .row k => if isHbm k then { s with ms := { s.ms with rowErr := NatSet.mark s.ms.rowErr (k / 1024) true } } else s
  | .stash x die stage tag slot b => s.modCtx x (fun c => c.stashError die stage tag slot b)
  | .core c => if (s.holder c).isSome then s.seqLoss c 15 0 else s
  | .context n => if (s.ctx n).st = .empty then s else s.loseContext n 15 0 0 [] s.mod.self

/-- One turn. -/
def State.turn (s : State) : Turn → Out
  | .seq c => s.seqTurn c
  | .cluster c u r => s.clusterTurn c u r
  | .cycle c ready => .next (s.vecCycle c ready)
  | .landLane c place => .next (s.modCore c (fun co => co.landOne place))
  | .engine q => s.engineTurnAt q
  | .sent q r seq => .next (s.sent q r seq)
  | .discarded x die chunk => .next (s.discardedArrival x die chunk)
  | .transmit p => .next (s.transmit p)
  | .bar0Read off => .next (s.send (.data hostW4 (leBytes (s.bar0 off).toNat 8)))
  | .bar0Write off v => bar0Write off v { s with who := .device }
  | .event i => exec i { s with who := .device }
  | .tick n => .next (s.tick n)
  | .evict n => .next { s with ms := s.ms.evict n }
  | .storage e => .next (s.storageError e)

/-! ### The turn taken when the schedule is empty (log entry 2) -/

/-- A device event, as a turn. -/
def onDevice (f : State → Out) : State → Out := fun s => f { s with who := .device }

/-- The turns that a queue may take. -/
def State.queueTurns (s : State) (q : QId) : List (State → Out) :=
  [onDevice (execCommandHeadCheck q), onDevice (execCommandWaitsMet q), fun s => s.engineTurnAt q] ++
    (s.queue q).cmds.map (fun k => onDevice (execCommandComplete q k.num)) ++
    ((s.queue q).cmds.map (fun k => k.sends.map (fun (e : Nat × Nat) (s : State) => (.next (s.sent q e.1 e.2) : Out)))).flatten ++
    ((s.queue q).cmds.take 1).map (fun k => onDevice (execCommandSignal q k.num)) ++
    ((s.queue q).cmds.map (fun k => k.lands.map (fun l => onDevice (execMcastLanding q k.num l.idx)))).flatten

/-- The turns that a strand may take. -/
def strandTurns (c : Nat) (t : Strand) : List (State → Out) :=
  [onDevice (execVexitJoin c t.uid)] ++
    ((List.range t.members.length).map (fun r =>
      [onDevice (execVwaitRelease c t.uid r), onDevice (execFullWaitRelease (.cluster c t.uid r))])).flatten

/-- The turns that a core may take, but its sequencer's. -/
def State.coreTurns (s : State) (c : Nat) : List (State → Out) :=
  let co := s.core c
  [onDevice (execCheckedOpEffect c true)] ++ co.outst.map (fun o => onDevice (execLoadDataReturn (.seq c o.reg))) ++
    co.vec.pend.map (fun l => onDevice (execLoadDataReturn (.cluster c l.strand l.rank l.reg))) ++
    (if co.vec.landing.isEmpty then [] else [fun s => .next (s.modCore c (fun co => co.landOne 0))]) ++
    co.outst.map (fun o => onDevice (execRemoteResultReturn c o.reg)) ++
    ([execStorePerformed (.seq c), execRemoteStoreAck (.seq c), execStalledIssueResume c, execSemwaitRelease c, execRingWaitRelease c,
      execBwaitRelease c, execTlwaitRelease c, execTendReport c, execTnextAnswerArrival c, execCutComplete c,
      execStrctlEndStrand c].map onDevice) ++
    (([0, 1, 2, 3, 4, 5, 8] : List Nat).map (fun b => onDevice (execQctlDiscard c b))) ++
    ((List.range 4).map (fun k => [onDevice (execStorePerformed (.cluster c k)), onDevice (execRemoteStoreAck (.cluster c k))])).flatten ++
    ([execChainedCommandStart c, execMatrixStepCheck c true, execStrandCreate c, execVccResume c, execClockChangeStart c,
      execClockChangeComplete c].map onDevice) ++
    (co.vec.strands.map (strandTurns c)).flatten ++ [fun s => .next (s.cycleIn c (upFrom 0 4))] ++ ((List.range 6).map (fun k => s.queueTurns (.core c k))).flatten

/-- The turns of the units that serve a whole context: the launch front end, a curtain without channels to join, the channels' windows, the
carousel's consumes, the ringmaster and the stash's lookahead. -/
def State.ctxTurns (s : State) (x : Nat) : List (State → Out) :=
  let c := s.ctx x
  let chans := c.rings.filter (fun e => match e.2 with | some r => r.chan | none => false)
  let stages := c.stages.filterMap (fun e => e.2.map (fun st => (e.1, st)))
  ([execLoadLtt x, execDeclareStage x, execLaunch x, execPreempt x, execPreemptSaved x, execResume x, execKill x].map onDevice) ++
    (if chans.isEmpty then [onDevice (execCurtainRise x [])] else []) ++
    chans.map (fun e => onDevice (execChsendWindowGrant x e.1)) ++
    c.crsl.map (fun t => onDevice (execCarouselConsume x t.die t.chunk)) ++
    (stages.map (fun e => e.2.tasks.map (fun t => onDevice (execTaskRetire x e.1 t.id.num)))).flatten ++
    stages.map (fun e => onDevice (execRingmasterRound x e.1)) ++ stages.map (fun e => onDevice (execStashLookahead x e.1))

/-- The turns that the context of the core in focus may take: its cores', its shared queues', its own, its sequencers'. -/
def State.turns (s : State) : List (State → Out) :=
  let x := s.ctxOf s.focus
  let cs := match s.holder s.focus with | some x => (s.ctx x).coreList | none => [s.focus]
  let shared := (List.range 2).map (QId.stash x) ++ (List.range 2).map (QId.crsl x) ++ (List.range 8).map (QId.dou x)
  (cs.map s.coreTurns).flatten ++ (shared.map s.queueTurns).flatten ++ s.ctxTurns x ++
    (List.range 8).map (fun p s => .next (s.transmit p)) ++ cs.map (fun c s => s.seqTurn c)

/-- Does an outcome leave the state as it was? -/
def idleOut (s : State) : Out → Bool
  | .next s' => s' == { s with who := s'.who }
  | _ => false

/-- The first turn that changes the state; the sequencer in focus when none does. -/
def State.defaultTurn (s : State) : Out :=
  match s.turns.find? (fun t => !idleOut s (t s)) with
  | some t => t s
  | none => s.seqTurn s.focus

end Sys2Proof.Machine
end

