-- ==== Sys2Proof/Machine/Step.lean ====
section
/-!
DEFINITION. Sys2Proof/Machine/Step.lean: one step of the machine: the first turn of the schedule (log entry 2).
-/
namespace Sys2Proof.Machine

/-- One step: the turn that the schedule names, or the default one. -/
def step (s : State) : Host.Outcome State Fault Refusal :=
  match s.sched with
  | t :: rest => { s with sched := rest }.turn t
  | [] => s.defaultTurn

/-- The state with the instruction of n bits where the next step fetches it (log entry 3). -/
def State.withFetchWord (s : State) (nbits w : Nat) : State := s.placeWord nbits w

end Sys2Proof.Machine
end

