-- ==== Sys2Proof/Safety.lean ====
section
/-!
DEFINITION. Sys2Proof/Safety.lean: what claims are stated in: the canonical form of memory, which turns can stop, when an agent can act,
where a command may read and write.
-/
namespace Sys2Proof.Machine

/-- The memory's canonical form: addresses strictly rising, no entry equal to what an unlisted address reads as. -/
def Memory.wf (m : List Host.Cell) : Bool := Tbl.wf Config.memDefault m

/-- The invariant of a run: the memory is in its canonical form, and every sector that an L2 holds has its 32 bytes (12 R247). -/
def State.Inv (s : State) : Prop :=
  Memory.wf s.ms.mem = true ∧ ∀ n sec, Tbl.get none s.ms.l2 n = some sec → sec.data.length = 32

/-- A sequencer word can issue on core c: it is that sequencer's turn, it runs, waits in no word, stalls at none, and no register that the
word reads has a result outstanding (04 R76). -/
def State.SeqIssues (s : State) (c : Nat) (regs : List (BitVec 5)) : Prop :=
  s.who = .seq c ∧ (s.core c).ready = true ∧ ∀ r ∈ regs, (s.core c).busy r = false

/-- A vector word can issue in member `w.rank` of strand `uid`: it is that cluster's turn, its strand runs, and the member waits for nothing
(06 R144, R145). -/
def State.VecIssues (s : State) (w : VCx) : Prop :=
  s.who = .cluster w.core w.st.uid w.rank ∧ s.vcx w.core w.st.uid w.rank 16 false false = some w ∧
    w.co.vecLive = true ∧ w.st.runs = true ∧ w.m.wait = .run

/-- A step word can issue in the command k at queue q: it is that engine's turn, k is the command that stage 3 runs, the queue is not
stopped, and a shared engine serves it (08 R187, R188, R194). -/
def State.StepIssues (s : State) (q : QId) (k : Cmd) : Prop :=
  s.who = .engine q ∧ (s.queue q).running = some k ∧ s.runs q k = true ∧ s.engineHere q = true

/-- Every byte of a range that a command reads is translated (20 R338, 04 R81). -/
def State.Readable (s : State) (x va n : Nat) : Prop := ∀ a, va ≤ a → a < va + n → ((s.ctx x).place false a).isSome = true

/-- No channel of HBM pauses for a lane repair, so that no access waits for one (22 R368). -/
def State.ChannelsRun (s : State) : Prop := s.ms.paused = []

/-- A queue works on the cores as they stand: it is no carousel's of a saved context, whose steps reach its cores' saved state (21 R355). -/
def State.InHand (s : State) (q : QId) : Prop := ∀ x d, q = .crsl x d → (s.ctx x).st ≠ .saved

/-- Every byte of a range that a command writes is translated, in the shadow frame inside a task, and no other task has marked a flip region
there (15 R288). -/
def State.Writable (s : State) (x : Nat) (task : Option TaskId) (va n : Nat) : Prop :=
  ∀ a, va ≤ a → a < va + n → ((s.ctx x).place task.isSome a).isSome = true ∧
    ∀ t, task = some t → (s.ctx x).flipOf a = 0 ∨ ((s.ctx x).markFlip ((s.ctx x).flipOf a) t).isSome = true

/-- A step of command k has taken effect: the command, with what the step changed in it, goes on to its next step (08 R194). -/
def stepDone (q : QId) (s : State) (k : Cmd) : Host.Outcome State Fault Refusal := .next (s.putCmd q k.next)

/-- A stream of a command names address a at this iteration, a multiple of al inside the 56-bit space (08 R185). -/
def Cmd.AtAddr (k : Cmd) (st al a : Nat) : Prop := k.here st = (a : Int) ∧ a < 2 ^ 56 ∧ a % al = 0

/-! ### Tables that statements hold the sequencer's words against, from the rules -/

/-- A three-register word as a constructor. -/
abbrev Word3 := BitVec 5 → BitVec 5 → BitVec 5 → Instr

/-- The integer group (04 R79): what each word writes for a = s[a] and b = s[b]; sx is toInt and ux is toNat. -/
def intTable : List (Word3 × (BitVec 64 → BitVec 64 → BitVec 64)) :=
  [(.add, fun a b => BitVec.ofNat 64 (a.toNat + b.toNat)),
   (.sub, fun a b => BitVec.ofInt 64 ((a.toNat : Int) - b.toNat)),
   (.mul, fun a b => BitVec.ofNat 64 (a.toNat * b.toNat)),
   (.mulh, fun a b => BitVec.ofInt 64 ((a.toInt * b.toInt).fdiv (2 ^ 64))),
   (.mulhn, fun a b => BitVec.ofNat 64 (a.toNat * b.toNat / 2 ^ 64)),
   (.div, fun a b => if b.toInt = 0 then BitVec.ofNat 64 (2 ^ 64 - 1)
      else if a.toInt = -2 ^ 63 ∧ b.toInt = -1 then BitVec.ofInt 64 (-2 ^ 63) else BitVec.ofInt 64 (a.toInt.tdiv b.toInt)),
   (.divn, fun a b => if b.toNat = 0 then BitVec.ofNat 64 (2 ^ 64 - 1) else BitVec.ofNat 64 (a.toNat / b.toNat)),
   (.rem, fun a b => if b.toInt = 0 then a
      else if a.toInt = -2 ^ 63 ∧ b.toInt = -1 then 0 else BitVec.ofInt 64 (a.toInt - b.toInt * a.toInt.tdiv b.toInt)),
   (.remn, fun a b => if b.toNat = 0 then a else BitVec.ofNat 64 (a.toNat % b.toNat)),
   (.and, fun a b => a &&& b), (.or, fun a b => a ||| b), (.xor, fun a b => a ^^^ b),
   (.shl, fun a b => BitVec.ofNat 64 (a.toNat * 2 ^ (b.toNat % 64))),
   (.shr, fun a b => BitVec.ofNat 64 (a.toNat / 2 ^ (b.toNat % 64))),
   (.sar, fun a b => BitVec.ofInt 64 (a.toInt / 2 ^ (b.toNat % 64))),
   (.min, fun a b => if a.toInt ≤ b.toInt then a else b),
   (.max, fun a b => if a.toInt ≤ b.toInt then b else a),
   (.minn, fun a b => if a.toNat ≤ b.toNat then a else b),
   (.maxn, fun a b => if a.toNat ≤ b.toNat then b else a),
   (.slt, fun a b => if a.toInt < b.toInt then 1 else 0),
   (.sltn, fun a b => if a.toNat < b.toNat then 1 else 0)]

/-- Leading zero bits (04 R79): the place of the first one bit from bit 63 down, 64 when there is none. -/
def leadingZeroCount (a : BitVec 64) : Nat := ((List.range 64).find? (fun i => a.getLsbD (63 - i))).getD 64
/-- One bits (04 R79). -/
def oneCount (a : BitVec 64) : Nat := ((List.range 64).filter (fun i => a.getLsbD i)).length

/-- A word with a 16-bit immediate. -/
abbrev WordImm := BitVec 5 → BitVec 5 → BitVec 16 → Instr

/-- The arithmetic words with an immediate (04 R80; 02 R40): what each writes for a = s[a]. -/
def immTable : List (WordImm × (BitVec 64 → BitVec 16 → BitVec 64)) :=
  [(.addi, fun a i => a + i.signExtend 64), (.andi, fun a i => a &&& i.zeroExtend 64), (.ori, fun a i => a ||| i.zeroExtend 64),
   (.xori, fun a i => a ^^^ i.zeroExtend 64), (.slti, fun a i => if a.toInt < i.toInt then 1 else 0)]
/-- A word with a 16-bit immediate that takes 40 bits under PFX.I (02 R40, R46), and what it writes for a = s[a]. -/
def wideTable : List (WordImm × (BitVec 64 → BitVec 40 → BitVec 64)) :=
  [(.addi, fun a i => a + i.signExtend 64), (.andi, fun a i => a &&& i.zeroExtend 64), (.ori, fun a i => a ||| i.zeroExtend 64),
   (.xori, fun a i => a ^^^ i.zeroExtend 64), (.slti, fun a i => if a.toInt < i.toInt then 1 else 0)]
/-- The shifts by a count (04 R80). -/
def shiftTable : List ((BitVec 5 → BitVec 5 → BitVec 6 → Instr) × (BitVec 64 → Nat → BitVec 64)) :=
  [(.shli, fun a n => BitVec.ofNat 64 (a.toNat * 2 ^ n)), (.shri, fun a n => BitVec.ofNat 64 (a.toNat / 2 ^ n)),
   (.sari, fun a n => BitVec.ofInt 64 (a.toInt / 2 ^ n))]

/-- The loads (04 R81): the word, its bytes, whether it extends the sign, and the value that n bytes read as v give. -/
def loadTable : List (WordImm × Nat × Bool × (Nat → BitVec 64)) :=
  [(.ldB, 1, false, fun v => (BitVec.ofNat 8 v).zeroExtend 64), (.ldH, 2, false, fun v => (BitVec.ofNat 16 v).zeroExtend 64),
   (.ldW, 4, false, fun v => (BitVec.ofNat 32 v).zeroExtend 64),
   (.ldD, 8, false, fun v => BitVec.ofNat 64 v), (.ldsB, 1, true, fun v => (BitVec.ofNat 8 v).signExtend 64),
   (.ldsH, 2, true, fun v => (BitVec.ofNat 16 v).signExtend 64), (.ldsW, 4, true, fun v => (BitVec.ofNat 32 v).signExtend 64),
   (.ldsD, 8, true, fun v => BitVec.ofNat 64 v)]
/-- The stores (04 R81): the word and its bytes. -/
def storeTable : List (WordImm × Nat) := [(.stB, 1), (.stH, 2), (.stW, 4), (.stD, 8)]

/-- The branches (04 R83): the word and when it branches. -/
def branchTable : List (WordImm × (BitVec 64 → BitVec 64 → Bool)) :=
  [(.bEq, fun a b => decide (a.toNat = b.toNat)), (.bNe, fun a b => decide (a.toNat ≠ b.toNat)),
   (.bLt, fun a b => decide (a.toInt < b.toInt)), (.bGe, fun a b => decide (b.toInt ≤ a.toInt)),
   (.bLtn, fun a b => decide (a.toNat < b.toNat)), (.bGen, fun a b => decide (b.toNat ≤ a.toNat))]

/-- The state in which a store of the core's task has marked the flip region that it lies in, if it lies in one, or none where another task holds
the mark (15 R288). -/
def State.markFor (s : State) (c ea : Nat) : Option State :=
  match (s.core c).task with
  | some sh => if (s.ctx (s.ctxOf c)).flipOf ea = 0 then some s
      else ((s.ctx (s.ctxOf c)).markFlip ((s.ctx (s.ctxOf c)).flipOf ea) sh.task).map (fun x => s.setCtx (s.ctxOf c) x)
  | none => some s

/-- A load of the sequencer reads at issue (04 R82; 13 R252; 22 R368; log entry 6): every access before it has its place in the order and no channel
there pauses, or the core's pending stores cover it and the check queue is empty. -/
def State.readsNow (s : State) (c : Nat) (p : Place) (n : Nat) : Prop :=
  ((s.core c).checkQ = [] ∧ (∀ o ∈ (s.core c).stores, o.placed = true) ∧ s.ms.pausedIn p n = false) ∨
    ((s.core c).checkQ = [] ∧ s.coveredBy (.seq c) p n = true)

/-- A load of n bytes at a place has read (04 R81, R76, R94): its register awaits the value that the bytes give, with the poison of their line; a load
of a full line observes its commands; the PC stands past the word of `ulen` bytes. -/
def State.loaded (s : State) (c : Nat) (d : BitVec 5) (p : Place) (n ulen : Nat) (ext : Nat → BitVec 64) : State :=
  let r := s.readPlace (.seq c) p n
  (r.2.observeLine c p).modCore c (fun co => (co.await d (some (ext (leNat r.1), r.2.ms.poisoned p)) true).advance ulen)

/-- n bytes at a place lie in one line, for which its L2 set has a way (01 R20; 12 R247): an access there drives no other line out. -/
def MemSys.oneLine (m : MemSys) (p : Place) (n : Nat) : Prop :=
  p.key % 64 + n ≤ 64 ∧ (p.inL2 = true →
    p.key / 64 ∈ m.ways (setOf (64 * (p.key / 64))) ∨ (m.ways (setOf (64 * (p.key / 64)))).length < 16)

/-- What SYSR reads in a register whose value nothing but the machine's state gives (04 R104, 24 R378): CYCLE is apart; CUTS reads V clear outside
handler mode; QCTL reads zero (log entry 20). -/
def State.sysSpec (s : State) (c n : Nat) : BitVec 64 :=
  if n = 0 then BitVec.ofNat 64 (c * 256 + coordOf c)
  else if n = 1 then BitVec.ofNat 64 (s.ctxOf c)
  else if n = 7 then (if (s.core c).derated then 1 else 0)
  else if n = 8 then BitVec.ofNat 64 (s.wearCharge c)
  else if n = 38 then (if (s.core c).handler then (s.core c).sys 38 else (s.core c).sys 38 &&& 0xFFFFFFFF7FFFFFFF#64)
  else if n = 39 then 0 else (s.core c).sys n

/-- The registers of R104 and R378, CYCLE apart. -/
def sysNumbers : List Nat := [0, 1, 3, 4, 5, 6, 7, 8] ++ upFrom 16 16 ++ upFrom 32 15 ++ upFrom 48 5
/-- The registers that the cut fills (24 R378). -/
def cutNumbers : List Nat := upFrom 32 15

/-- A checked word has issued on core c (04 R77): it has entered the check queue (`Core.enter`), and the sequencer goes on at the next word, or
holds at this one. -/
def State.entered (s : State) (c : Nat) (op : CheckedOp) (dst : Option (BitVec 5)) (remote : Bool) (hold : Option SeqWait) : State :=
  let co := (s.core c).enter op dst remote 4 hold.isSome
  s.setCore c (match hold with
    | some w => { co with wait := some ⟨w, 4, false⟩ }
    | none => co.advance 4)

/-- The check queue of a core has room for one more checked operation (04 R77). -/
def Core.checkRoom (co : Core) : Prop := co.checked.length < 8

/-- The oldest entry of core c's check queue has left it, is the shadow's check point, and its access moves the logical time (04 R77; 13 R252; 24
R385). -/
def State.popCheck (s : State) (c : Nat) (e : CheckEntry) (rest : List CheckEntry) : State :=
  (s.modCore c (fun co => { co with checkQ := rest, ckpt := some e.snap })).stampOp c e.op

/-- After the effect of a checked operation of context x: the accesses that stand behind it alone take place, a fault that the core holds is taken at the
next word, and the launch may end (04 R77; 13 R252; 24 R379; 15 R272). -/
def State.afterCheck (s : State) (c x : Nat) (rest : List CheckEntry) : State := ((s.drainChecks c rest.length).settleFaults c).endLaunch x

/-- The home of ring `q` as core c sees it: its owner context, its number there, the ring, when the core's context holds a role that admits the
word (04 R90; 12 R240-R242). -/
def State.ringFor (s : State) (c q : Nat) (op : RingOp) : Option (Nat × Nat × Ring) :=
  match s.findRing (s.ctxOf c) q with
  | some (on, oq, roles) => match s.ring on oq with
    | some r => if r.admits roles op then some (on, oq, r) else none
    | none => none
  | none => none

/-- Does a ring's count stand elsewhere than at core c (12 R241; 16 R300)? -/
def State.ringRemote (s : State) (c on : Nat) (r : Ring) : Bool :=
  r.chan || (match (s.ctx on).place false r.base with | some p => sliceCore p.key | none => c) != c

/-! ### Tables for the vector words -/

/-- A vector word of one member ends at the next word with this state (06 R131). -/
def VCx.done (w : VCx) (s : State) : Host.Outcome State Fault Refusal := .next (s.vecStep w .advance)

/-- The lanes that a word acts on stand in clusters of their own: those of one cluster, or of every member of a strand, whose clusters differ (10
R214). -/
def VCx.clustersDiffer (w : VCx) : Prop := w.joint = true → (w.st.members.map (·.cluster)).Nodup

/-- The top of a floating-point format (03 R61, R62, R69): its largest finite value mant × 2^exp and that value's code, the code of infinity where it
has one, its canonical NaN. -/
structure FormatTop where
  mant : Nat
  exp  : Int
  code : Nat
  inf  : Nat
  nan  : Nat

/-- The formats of R61 with their tops. -/
def topTable : List (FFmt × FormatTop) :=
  [(.f64, ⟨2 ^ 53 - 1, 971, 0x7FEFFFFFFFFFFFFF, 0x7FF0000000000000, 0x7FF8000000000000⟩),
   (.f32, ⟨2 ^ 24 - 1, 104, 0x7F7FFFFF, 0x7F800000, 0x7FC00000⟩), (.bf16, ⟨255, 120, 0x7F7F, 0x7F80, 0x7FC0⟩),
   (.f16, ⟨2047, 5, 0x7BFF, 0x7C00, 0x7E00⟩), (.e4m3, ⟨7, 6, 0x7E, 0x7F, 0x7F⟩), (.e5m2, ⟨7, 13, 0x7B, 0x7C, 0x7E⟩),
   (.e2m1, ⟨6, 0, 7, 7, 0⟩)]

/-- n × 2^q is what the magnitude m × 2^e, of a sign, rounds to among the multiples of 2^q (03 R67, R68); u is the random word of SR. -/
def RoundsTo (mode : RMode) (neg : Bool) (u m : Nat) (e q : Int) (n : Nat) : Prop :=
  let a := m * 2 ^ (e - q).toNat
  let d := 2 ^ (q - e).toNat
  match mode with
  | .rtz => n = a / d
  | .rup => n = if neg then a / d else (a + d - 1) / d
  | .rdn => n = if neg then (a + d - 1) / d else a / d
  | .rne => 2 * (n * d - a) ≤ d ∧ 2 * (a - n * d) ≤ d ∧ (2 * (n * d - a) = d ∨ 2 * (a - n * d) = d → n % 2 = 0)
  | .sr => n = a / d + (if 2 ^ 32 ≤ a % d * 2 ^ 32 / d + u then 1 else 0)

/-- A vector word with two sources, and one with one. -/
abbrev VWord2 := BitVec 4 → VReg → VReg → VReg → Instr
abbrev VWord1 := BitVec 4 → VReg → VReg → Instr

/-- Floating-point arithmetic that rounds once (05 R114): the word, whether it reads the old destination, and its exact result from the values of
d, a and b; the first argument says that the mode is RDN, which gives the sign of an exact zero sum (03 R62). -/
def floatTable : List (VWord2 × Bool × (Bool → FVal → FVal → FVal → XVal)) :=
  [(.fadd, false, fun dn _ a b => fvAdd dn a b), (.fsub, false, fun dn _ a b => fvAdd dn a b.neg), (.fmul, false, fun _ _ a b => fvMulX a b),
   (.fma, true, fun dn d a b => fvFma dn a b d), (.fms, true, fun dn d a b => fvFma dn a b d.neg),
   (.fnma, true, fun dn d a b => fvFma dn a.neg b d), (.fdiv, false, fun _ _ a b => fvDiv a b)]
/-- The functions of one source (05 R114, R117). -/
def floatFunctions : List (VWord1 × (FVal → XVal)) :=
  [(.frcp, fvRcp), (.frsq, fvRsq), (.fsqrt, fvSqrt), (.fexp2, fvExp2), (.flog2, fvLog2)]
/-- Floating-point words that round nothing (05 R115): FABS and FNEG change the sign bit of a code that is no NaN. -/
def floatExact : List (VWord1 × (FFmt → Nat → Nat × Flags)) :=
  [(.fabs, fun f x => if f.value x = .nan then (f.nanBits, { nanp := true }) else (x % 2 ^ (f.width - 1), {})),
   (.fneg, fun f x => if f.value x = .nan then (f.nanBits, { nanp := true }) else (x ^^^ 2 ^ (f.width - 1), {})),
   (.fclass, fun f x => (fClass f x, {}))]

/-- Integer words on exact values, wrapped to the width (05 R118): the word, whether it reads the old destination, and the value from d, a and b. -/
def intWordTable : List (VWord2 × Bool × (Nat → Int → Int → Int → Int)) :=
  [(.iadd, false, fun _ _ a b => a + b), (.isub, false, fun _ _ a b => a - b), (.imul, false, fun _ _ a b => a * b),
   (.imulh, false, fun w _ a b => a * b / 2 ^ w), (.imad, true, fun _ d a b => a * b + d),
   (.imin, false, fun _ _ a b => if a ≤ b then a else b), (.imax, false, fun _ _ a b => if a ≤ b then b else a)]
/-- Bitwise words and shifts on the element's bits (05 R118). -/
def bitTable : List (VWord2 × (Nat → Nat → Nat)) := [(.iand, (· &&& ·)), (.ior, (· ||| ·)), (.ixor, (· ^^^ ·))]
def shiftWords : List (VWord2 × (Nat → Nat → Nat → Nat)) :=
  [(.ishl, fun w a b => a * 2 ^ (b % w) % 2 ^ w), (.ishr, fun w a b => a / 2 ^ (b % w)),
   (.isar, fun w a b => (intVal w true a / 2 ^ (b % w) % 2 ^ w).toNat)]

/-- The place and the address of a lane's access: translated in the frame the word uses, at a multiple of 4 (06 R138). -/
def LaneAcc.ok (x : Ctx) (shadow : Bool) (a : LaneAcc) : Prop := x.place shadow a.va = some a.place ∧ a.va % 4 = 0

/-- The flip regions that stores of a task at these addresses mark, one after the other; none where another task holds one (15 R288). -/
def Ctx.markAll (x : Ctx) (task : Option TaskId) : List Nat → Option Ctx
  | [] => some x
  | va :: vas => (match task with
    | some t => if x.flipOf va = 0 then some x else x.markFlip (x.flipOf va) t
    | none => some x).bind (fun y => y.markAll task vas)

/-- An event of 95_what_each_step_holds.md: a transition that no agent issues as a word. -/
def isEvent : Instr → Bool
  | .checkedOpEffect _ _ | .loadDataReturn _ | .storePerformed _ | .stalledIssueResume _ | .semwaitRelease _ | .waitInterrupted _
  | .ringWaitRelease _ | .bwaitRelease _ | .tlwaitRelease _ | .tendReport _ | .vwaitRelease _ _ _ | .fullWaitRelease _
  | .syncBundleJoin _ _ | .vexitJoin _ _ | .starvationCountExpiry _ _ | .vccResume _ | .commandHeadCheck _ | .commandWaitsMet _
  | .strandCreate _ | .chainedCommandStart _ | .commandComplete _ _ | .commandSignal _ _ | .mcastLanding _ _ _ | .matrixStepCheck _ _
  | .pinWaitRelease _ | .pinTimeout _ | .cutComplete _ | .qctlDiscard _ _ | .strctlEndStrand _ | .strandDrainTimeout _ _
  | .ringmasterRound _ _ | .taskRetire _ _ _ | .stashLookahead _ _ | .chsendWindowGrant _ _ | .channelLanding _ _ _ _ _ _
  | .channelPublish _ _ _ _ _ | .channelAdvertisement _ _ _ | .carouselConsume _ _ _ | .carouselReduceArrival _ _ _
  | .carouselGatherArrival _ _ _ | .loadLtt _ | .declareStage _ | .launch _ | .preempt _ | .preemptSaved _ | .resume _ | .kill _
  | .curtainMessage _ _ _ _ _ _ | .curtainReport _ _ _ | .curtainRise _ _ | .curtainFall _ _ _ | .curtainTimeout _ | .lossMessage _ _
  | .flitReceive _ _ | .linkDown _ _ _ | .remoteStoreAck _ | .hostMemAccess _ _ _ | .lrbaseWrite _ _ | .lrsizeWrite _ _
  | .lrtailWrite _ _ | .lrstatWrite _ _ | .lrkillWrite _ _ | .lttcmdWrite _ _ | .lttcmdRemove _ _ | .lttcmdResume _ _
  | .dbgctlHalt _ _ | .dbgctlResume _ _ | .evbaseWrite _ _ | .evsizeWrite _ _ | .evheadWrite _ _ | .registerWrite _ _ _
  | .moduleReset _ | .wearSample _ | .wearFlashWrite | .clockChangeStart _ | .clockChangeComplete _ | .laneRepair _ _
  | .laneRepairDone _ _ | .tnextAnswerArrival _ | .remoteResultReturn _ _ | .remoteAccessAtHome _ | .leaseExpiry _
  | .dirtySectorWriteBack _ | .powerLoss => true
  | _ => false

end Sys2Proof.Machine
end

