-- ==== Sys2Proof/Certificates/Slice0/Obligations.lean ====
section
/-!
DEFINITION. Sys2Proof/Certificates/Slice0/Obligations.lean: what is claimed of the model, from the numbered rules of spec/. A statement that
an instruction completes answers an explicit next state, so that whatever it does not name is unchanged.
-/
namespace Sys2Proof
open Machine

/-! ### Stepping and decoding -/

/-- A step whose turn is a sequencer's, a member cluster's or an engine's runs the word that stands at its PC, or at the command's step, as the
decoder reads it (02 R38, R49, R57; 04 R75; 06 R130; 08 R194): step is exec of it, at the state in which the agent stands and the bytes have
been read. Where strands share a member's cluster, the cluster chooses among their words instead (10 R219). An engine's command knows, while its step
runs, what that step and its later ones write (log entry 82). A turn that names an event runs that event. -/
def Claim.StepRunsTheDecodedInstruction : Prop :=
  ∀ (s : State) (rest : List Turn),
    (∀ c w s1 i, s.sched = .seq c :: rest → (s.core c).ready = true → ((s.core c).handler = true ∨ (s.core c).heldFaults = []) →
      ({ s with sched := rest, who := .seq c } : State).fetch (s.ctxOf c) (s.core c).pc.toNat 4 = .bytes w s1 →
      decodeSeq w = some i → i.wf = true → step s = exec i s1) ∧
    (∀ c u r w unit s1 i, s.sched = .cluster c u r :: rest →
      ({ s with sched := rest, who := .cluster c u r } : State).VecIssues w → w.core = c → w.st.uid = u → w.rank = r →
      ({ s with sched := rest, who := .cluster c u r } : State).unitOf c u w.m.pc = .ok (unit, s1) → unit.pfx = [] → unit.joins w.st = false →
      unit.instr w.m.cluster = some i → w.soleIn = true → step s = exec i s1) ∧
    (∀ c u r w, s.sched = .cluster c u r :: rest →
      ({ s with sched := rest, who := .cluster c u r } : State).VecIssues w → w.core = c → w.st.uid = u → w.rank = r → w.soleIn = false →
      step s = .next (({ s with sched := rest, who := .cluster c u r } : State).cycleIn c [w.m.cluster])) ∧
    (∀ q k w i t, s.sched = .engine q :: rest → (s.queue q).running = some k → k.body[k.step]? = some w → decodeStep q w.toNat = some i →
      exec i (({ s with sched := rest, who := .engine q } : State).seeAhead q) = .next t → step s = .next (t.forgetAhead q)) ∧
    (∀ i, s.sched = .event i :: rest → step s = exec i { s with sched := rest, who := .device })

/-- A word that no table of the sequencer assigns, or whose operands break a limit, is an illegal instruction (02 R48), once no ring word or
ARRIVE before it can still fail (log entry 6). -/
def Claim.UnassignedSequencerWordIsIllegal : Prop :=
  ∀ (s : State) (rest : List Turn) (c w : Nat) (s1 : State), s.sched = .seq c :: rest → (s.core c).ready = true →
    ((s.core c).handler = true ∨ (s.core c).heldFaults = []) →
    ({ s with sched := rest, who := .seq c } : State).fetch (s.ctxOf c) (s.core c).pc.toNat 4 = .bytes w s1 →
    (s1.core c).mayFail = false → (∀ i, decodeSeq w = some i → i.wf = false) → step s = .next (s1.trapWith c 1 (s1.core c).pc (some 0) {})

/-- Words written out bit by bit from the encoding tables of 02 R38-R60, with the worked examples that 02 gives, decode to the instructions they stand for. -/
def Claim.WordsFromTheTablesDecode : Prop :=
  -- opcode 31:26, d 25:21, a 20:16, b 15:11, c 10:6, function 5:0 (R38, R42)
  decodeSeq 0b000000_00011_00100_00101_00000_000000 = some (.add 3 4 5) ∧
  -- ADDI s5, s3, -8 (R48)
  decodeSeq 0x04A3FFF8 = some (.addi 5 3 0xFFF8) ∧
  -- ST.d: d 25:21, a 20:16, imm16 (R39)
  decodeSeq 0b011011_00111_00010_0000000000001000 = some (.stD 7 2 8) ∧
  -- B.EQ: a 25:21, b 20:16, off16 (R38, R41)
  decodeSeq 0b100000_00001_00010_1111111111111111 = some (.bEq 1 2 0xFFFF) ∧
  -- SEMADD s7, s2, 1.3.6:m17: PFX.C, then opcode 0x2C, sub 15:12, idx 11:0 (R43, R46, R48)
  decodeSeq 0xFC00009E = some (.pfxC 0x9E) ∧ decodeSeq 0xB0E20011 = some (.semadd 7 2 17) ∧
  -- SYSR s4, CUTS (24 R378); TNEXT s9 (R45); XFENCE.O2E (R43)
  decodeSeq 0xD8800984 = some (.sysr 4 38) ∧ decodeSeq 0b110101_01001_00000_00000_00000_000000 = some (.tnext 9) ∧
  decodeSeq 0b101111_00000_00000_0010_000000000000 = some .xfenceO2E ∧
  -- CSETI: imm18 in d, a and imm8; doubleword 15:12, buffer 11:8 (R44)
  decodeSeq 0b110010_00001_00000_0101_0011_00000010 = some (.cseti 3 5 0b00001_00000_00000010) ∧
  -- VEC: opcode 30:24, d 23:18, a 17:12, b 11:6, q 5:4, p 3:0 (R49); (p3) FMA v300, v2, v60 under VPFXR with DH 4 (R52, R56)
  decodeVec none none 0b0_0000000_000001_000010_000011_00_0000 = some (.fadd 0 (.win 1) (.win 2) (.win 3)) ∧
  decodeVec (some ⟨4, 0, 0⟩) none 0x03B02F03 = some (.fma 3 (.win 300) (.win 2) (.win 60)) ∧
  -- FCMP set 2 with q = 1, .GE, and an indirect b (R49, R54, R55); VLD.f with disp6 = -1 (R54, R55)
  decodeVec none none 0b0_0001011_000101_000001_111000_01_0000 = some (.fcmpSet2 0 1 5 (.win 1) (.ind 0)) ∧
  decodeVec none none 0b0_1100000_001000_000010_111111_01_0000 = some (.vld 0 .f (.win 8) 2 0x3FFFFFFF) ∧
  -- MMA acc2, h5, h9 with Z (R58)
  decodeMtx 0x050A4C00 = some (.mma 2 5 9 true) ∧
  -- the other step words: opcode 31:26, sa 25:24, sb 23:22, sc 21:20, f1 19:16, f2 15:12, n 11:0 (R59)
  decodeMvCopy 0b000001_00_01_00_0011_0000_000000000111 = some (.copy 0 1 3 7) ∧
  decodeMvXform 0b000010_00_01_00_0101_0010_000000000100 = some (.enc 0 1 5 2 4) ∧
  decodeDou 0b000111_00_10_01_0010_0000_000000001000 = some (.dgsum 0 2 1 2 8) ∧
  -- stash: id 23:12, n 11:0; carousel: chunk 23:12, format 11:8, bucket 7:0 (R59)
  decodeStash 0b000001_01_000000000101_000000000011 = some (.sput 1 5 3) ∧
  decodeCrsl 0b000001_00_000000001001_0001_11001000 = some (.cred 0 9 1 200) ∧
  -- the zero word is unassigned in every step space (R57)
  decodeMtx 0 = none ∧ decodeMvCopy 0 = none ∧ decodeMvXform 0 = none ∧ decodeDou 0 = none ∧ decodeStash 0 = none ∧ decodeCrsl 0 = none

/-- Every well-formed sequencer instruction decodes from the word that encodes it (02 R38-R46). -/
def Claim.SequencerWordsRoundTrip : Prop :=
  ∀ i w, i.wf = true → encodeSeq i = some w → w < 2 ^ 32 ∧ decodeSeq w = some i

/-- Every well-formed vector instruction decodes from its word and the prefixes it needs (02 R49-R55). -/
def Claim.VectorWordsRoundTrip : Prop :=
  ∀ i pr pi w, i.wf = true → encodeVec i = some (pr, pi, w) → w < 2 ^ 31 ∧ decodeVec pr pi w = some i

/-- Every well-formed step word decodes from its word in the space of its queue (02 R57-R59). -/
def Claim.StepWordsRoundTrip : Prop :=
  ∀ i w, i.wf = true →
    (encodeMtx i = some w → w < 2 ^ 32 ∧ decodeMtx w = some i) ∧ (encodeMvCopy i = some w → w < 2 ^ 32 ∧ decodeMvCopy w = some i) ∧
    (encodeMvXform i = some w → w < 2 ^ 32 ∧ decodeMvXform w = some i) ∧ (encodeDou i = some w → w < 2 ^ 32 ∧ decodeDou w = some i) ∧
    (encodeStash i = some w → w < 2 ^ 32 ∧ decodeStash w = some i) ∧ (encodeCrsl i = some w → w < 2 ^ 32 ∧ decodeCrsl w = some i)

/-! ### The whole machine -/

/-- The invariant holds after reset. -/
def Claim.InvariantAtReset : Prop := State.reset.Inv

/-- Every step from any state that meets the invariant gives one that does: memory keeps its canonical form, L2 sectors their 32 bytes. -/
def Claim.EveryStepKeepsTheInvariant : Prop := ∀ s s', s.Inv → step s = .next s' → s'.Inv

/-- No instruction is refused, and one stops only when it is given to an agent of another kind (02 R38, R49, R57). -/
def Claim.NoInstructionIsRefused : Prop :=
  ∀ i s, (∃ t, exec i s = .next t) ∨ exec i s = .fault .wrongAgent

/-- Every step answers a next state, unless the schedule names a word as an event: what a program does can trap, fault a command or lose a
context, which are next states, and never stops the machine (01 R22; 24 R375-R389). -/
def Claim.EveryTurnAnswersANextState : Prop :=
  ∀ s : State, (∀ i, s.sched.head? = some (.event i) → isEvent i = true) → ∃ t, step s = .next t

/-- The machine right after module reset, before bring-up (15 R268; 22 R367; 24 R378; 04 R104): no core belongs to a context, every register of every context's
block reads zero, so every context is EMPTY, the trap registers hold zero, READY, IDOK, FWERR and REPL are clear. -/
def Claim.ResetState : Prop :=
  (∀ c, (State.reset.core c).holder = none ∧ (State.reset.core c).run = .off) ∧ (∀ x off, State.reset.ctxRegister x off = 0) ∧
    (∀ x, (State.reset.ctx x).st = .empty) ∧ (∀ c n, (State.reset.core c).sys n = 0) ∧ State.reset.mod.ready = false ∧ State.reset.mod.idok = false ∧
    State.reset.mod.fwerr = false ∧ State.reset.mod.repl = false ∧ State.reset.who = .device ∧ State.reset.sched = []

/-! ### The sequencer: registers and arithmetic -/

/-- The sequencer's registers (04 R75, R76): s0 reads zero and a write to it is discarded with its poison; any other register reads what was
last written to it, with its poison; a write changes no other register, ends the
wait for an older result of its own register, and changes nothing else of the core. -/
def Claim.SequencerRegisters : Prop :=
  ∀ (c : Core) (r q : BitVec 5) (v : BitVec 64) (p : Bool),
    c.reg 0 = 0 ∧ c.pois 0 = false ∧ c.write 0 v p = c ∧
    (c.write r v p).reg q = (if q = r ∧ r ≠ 0 then v else c.reg q) ∧
    (c.write r v p).pois q = (if q = r ∧ r ≠ 0 then p else c.pois q) ∧
    (c.write r v p).outst = (if r = 0 then c.outst else c.outst.filter (fun o => o.reg != r)) ∧
    { c.write r v p with regs := c.regs, rpois := c.rpois, outst := c.outst } = c

/-- The integer group (04 R79; poison R78): the result of the table is written to s[d], poisoned when an operand is, the PC moves past the word,
and nothing else changes: no flag, no trap. Says that these complete: the 21 words of
`intTable` (ADD, SUB, MUL, MULH, MULHN, DIV, DIVN, REM, REMN, AND, OR, XOR, SHL, SHR, SAR, MIN, MAX, MINN, MAXN, SLT, SLTN), CLZ, POPC and SEL. -/
def Claim.IntegerGroupFollowsTheTable : Prop :=
  ∀ (s : State) (c : Nat) (d a b k : BitVec 5),
    (s.SeqIssues c [a, b] → ∀ e ∈ intTable, exec (e.1 d a b) s =
      .next (s.setCore c (((s.core c).write d (e.2 ((s.core c).reg a) ((s.core c).reg b))
        ((s.core c).pois a || (s.core c).pois b)).advance 4))) ∧
    (s.SeqIssues c [a] →
      exec (.clz d a) s = .next (s.setCore c (((s.core c).write d (BitVec.ofNat 64 (leadingZeroCount ((s.core c).reg a)))
        ((s.core c).pois a)).advance 4)) ∧
      exec (.popc d a) s = .next (s.setCore c (((s.core c).write d (BitVec.ofNat 64 (oneCount ((s.core c).reg a)))
        ((s.core c).pois a)).advance 4))) ∧
    (s.SeqIssues c [k, a, b] → exec (.sel d k a b) s = .next (s.setCore c
      (((s.core c).write d (if (s.core c).reg k ≠ 0 then (s.core c).reg a else (s.core c).reg b)
        ((s.core c).pois k || (if (s.core c).reg k ≠ 0 then (s.core c).pois a else (s.core c).pois b))).advance 4)))

/-- The arithmetic words with an immediate (04 R80; 02 R40): sign-extended in ADDI, SLTI and MOVHI, zero-extended in ANDI, ORI and XORI.
Says that these complete: ADDI, ANDI, ORI, XORI, SLTI, SHLI, SHRI, SARI and MOVHI. -/
def Claim.ImmediateWordsFollowTheTable : Prop :=
  ∀ (s : State) (c : Nat) (d a : BitVec 5) (imm : BitVec 16) (n : BitVec 6),
    (s.SeqIssues c [a] → ∀ e ∈ immTable, exec (e.1 d a imm) s =
      .next (s.setCore c (((s.core c).write d (e.2 ((s.core c).reg a) imm) ((s.core c).pois a)).advance 4))) ∧
    (s.SeqIssues c [a] → ∀ e ∈ shiftTable, exec (e.1 d a n) s =
      .next (s.setCore c (((s.core c).write d (e.2 ((s.core c).reg a) n.toNat) ((s.core c).pois a)).advance 4))) ∧
    (s.SeqIssues c [] → exec (.movhi d imm) s =
      .next (s.setCore c (((s.core c).write d (BitVec.ofInt 64 (imm.toInt * 2 ^ 16)) false).advance 4)))

/-- Under PFX.I the same words take the 40-bit immediate payload:imm16 and the unit is 8 bytes long (02 R40, R46); the word after the prefix is read
at the PC plus 4. Says that PFX.I (PFX_I) completes with each of the six arithmetic words that it extends; loads and stores under it stand with the loads and
stores. -/
def Claim.PrefixedImmediateWords : Prop :=
  ∀ (s s1 : State) (c w : Nat) (d a : BitVec 5) (imm : BitVec 16) (hi : BitVec 24), s.SeqIssues c [] →
    s.fetch (s.ctxOf c) ((s.core c).pc + 4).toNat 4 = .bytes w s1 → s1.SeqIssues c [a] →
    (∀ e ∈ wideTable, decodeSeq w = some (e.1 d a imm) → exec (.pfxI hi) s = .next (s1.setCore c
      (((s1.core c).write d (e.2 ((s1.core c).reg a) (hi ++ imm)) ((s1.core c).pois a)).advance 8))) ∧
    (decodeSeq w = some (.movhi d imm) → exec (.pfxI hi) s = .next (s1.setCore c
      (((s1.core c).write d ((hi ++ imm).signExtend 64 <<< 16) false).advance 8)))

/-- A word waits at issue until every register that it reads holds its result, and nothing else changes (04 R76): the integer group, the words with an
immediate, the branches. A register that the word only writes keeps no word waiting: the statements of results name only what is read. -/
def Claim.IntegerWordsWaitForResults : Prop :=
  ∀ (s : State) (c : Nat) (d a b k : BitVec 5) (imm : BitVec 16) (n : BitVec 6), s.who = .seq c → (s.core c).ready = true →
    (((s.core c).busy a = true ∨ (s.core c).busy b = true) →
      (∀ e ∈ intTable, exec (e.1 d a b) s = .next (s.setCore c { s.core c with stall := some .result })) ∧
      (∀ e ∈ branchTable, exec (e.1 a b imm) s = .next (s.setCore c { s.core c with stall := some .result })) ∧
      exec (.sel d k a b) s = .next (s.setCore c { s.core c with stall := some .result })) ∧
    ((s.core c).busy a = true →
      (∀ e ∈ immTable, exec (e.1 d a imm) s = .next (s.setCore c { s.core c with stall := some .result })) ∧
      (∀ e ∈ shiftTable, exec (e.1 d a n) s = .next (s.setCore c { s.core c with stall := some .result })) ∧
      exec (.clz d a) s = .next (s.setCore c { s.core c with stall := some .result }) ∧
      exec (.popc d a) s = .next (s.setCore c { s.core c with stall := some .result }))

/-! ### The sequencer: control words, traps and system registers -/

/-- Branches and jumps (02 R41; 04 R83): the target is the word's own address plus 4 × the offset; a word that does not branch goes on at the next
word; JAL links in s31, JR in s[d] after it has read s[a], and JR's b and f fields are zero. Says that these complete: the six
words of `branchTable` (B_EQ, B_NE, B_LT, B_GE, B_LTN, B_GEN), TSTW, J, JAL and JR. -/
def Claim.BranchesAndJumps : Prop :=
  ∀ (s : State) (c : Nat) (d a b : BitVec 5) (off : BitVec 16) (far : BitVec 26),
    (s.SeqIssues c [a, b] → (s.core c).pois a = false → (s.core c).pois b = false → ∀ e ∈ branchTable, exec (e.1 a b off) s =
      .next (s.setCore c { s.core c with
        pc := if e.2 ((s.core c).reg a) ((s.core c).reg b) then (s.core c).pc + 4 * off.signExtend 56 else (s.core c).pc + 4 })) ∧
    (s.SeqIssues c [a] → (s.core c).pois a = false → exec (.tstw a b off) s =
      .next (s.setCore c { s.core c with
        pc := if ((s.core c).reg a).getLsbD b.toNat then (s.core c).pc + 4 * off.signExtend 56 else (s.core c).pc + 4 })) ∧
    (s.SeqIssues c [] → exec (.j far) s = .next (s.setCore c { s.core c with pc := (s.core c).pc + 4 * far.signExtend 56 })) ∧
    (s.SeqIssues c [] → exec (.jal far) s = .next (s.setCore c
      { (s.core c).write 31 (((s.core c).pc + 4).zeroExtend 64) false with pc := (s.core c).pc + 4 * far.signExtend 56 })) ∧
    (s.SeqIssues c [a] → (s.core c).pois a = false → ((s.core c).reg a).toNat % 4 = 0 → ((s.core c).reg a).toNat < 2 ^ 56 →
      exec (.jr d a) s = .next (s.setCore c
        { (s.core c).write d (((s.core c).pc + 4).zeroExtend 64) false with pc := ((s.core c).reg a).setWidth 56 })) ∧
    (∀ w, w / 2 ^ 26 = 0x28 → w % 2 ^ 16 ≠ 0 → decodeSeq w = none)

/-- JR to a target with either of bits 1:0 set takes an alignment trap, whose TVAL is the target (log entry 50), and does not write s[d] (04 R83); a
target of 2^56 and more, which the table never covers, loses the context with class 12 and the target; a poisoned operand of a branch, of TSTW or of JR loses the context with class
10 (R78). A trap or a loss waits until no ring word, ARRIVE or store before it can still fail (log entry 6). -/
def Claim.MisalignedJumpTraps : Prop :=
  ∀ (s : State) (c : Nat) (d a b : BitVec 5) (off : BitVec 16), (s.core c).mayFail = false →
    (s.SeqIssues c [a] → (s.core c).pois a = false → ((s.core c).reg a).toNat % 4 ≠ 0 →
      exec (.jr d a) s = .next (s.trapWith c 2 (s.core c).pc (some ((s.core c).reg a)) {})) ∧
    (s.SeqIssues c [a] → (s.core c).pois a = false → ((s.core c).reg a).toNat % 4 = 0 → 2 ^ 56 ≤ ((s.core c).reg a).toNat →
      exec (.jr d a) s = .next (s.seqLoss c 12 ((s.core c).reg a).toNat)) ∧
    (s.SeqIssues c [a] → (s.core c).pois a = true →
      exec (.jr d a) s = .next (s.seqLoss c 10 0) ∧ exec (.tstw a b off) s = .next (s.seqLoss c 10 0)) ∧
    (s.SeqIssues c [a, b] → ((s.core c).pois a = true ∨ (s.core c).pois b = true) →
      ∀ e ∈ branchTable, exec (e.1 a b off) s = .next (s.seqLoss c 10 0))

/-- Taking a trap (04 R102; 24 R375-R377, R379). In handler mode a trap loses the context with class 13, and a fault that the core's engines, strands or
commands report is held. Outside it EPC, CAUSE and, where the cause has one, TVAL are written, handler mode is set, the
PC is TVEC with bits 1:0 zero, and every queue of the core is stopped. Bits 63:56 of TVEC do not reach the PC (log entry 76). -/
def Claim.TakingATrap : Prop :=
  ∀ (s : State) (c cls : Nat) (epc : BitVec 56) (tval : Option (BitVec 64)) (e : CauseExtra) (f : HeldFault),
    ((s.core c).handler = true → s.trapWith c cls epc tval e = s.seqLoss c 13 0 ∧
      s.seqLoss c 13 0 = s.loseContext (s.ctxOf c) 13 0 (coreField c (s.core c).pc) [] s.mod.self ∧
      s.raiseFault c f = s.setCore c { s.core c with heldFaults := (s.core c).heldFaults ++ [f] }) ∧
    ((s.core c).handler = false →
    ((s.trapWith c cls epc tval e).core c).handler = true ∧
    ((s.trapWith c cls epc tval e).core c).pc = BitVec.ofNat 56 (((s.core c).sys 3).toNat / 4 * 4) ∧
    ((s.trapWith c cls epc tval e).core c).sys 4 = epc.zeroExtend 64 ∧
    ((s.trapWith c cls epc tval e).core c).sys 5 = causeWord cls e ∧
    ((s.trapWith c cls epc tval e).core c).sys 6 = tval.getD ((s.core c).sys 6) ∧
    (∀ q < 6, ((s.trapWith c cls epc tval e).queue (.core c q)).stop = true) ∧
    (∀ r, ((s.trapWith c cls epc tval e).core c).reg r = (s.core c).reg r) ∧
    (∀ n, n ≠ c → (s.trapWith c cls epc tval e).core n = s.core n) ∧
    (s.trapWith c cls epc tval e).ms = s.ms ∧ (s.trapWith c cls epc tval e).ctxs = s.ctxs)

/-- NOP does nothing; TRAP takes trap class 4 with its code, EPC the address of the word after it, TVAL as it was; HALT stops its core as a debug
halt does, and its owner receives one halt record, which may end the launch; where the core has drained, what its commands have landed in stage SRAM
stands for every read from there on (04 R103, R102; 24 R376, R384). TRAP and HALT wait while a ring
word or an ARRIVE before them can still fail (log entry 6). Says that these complete: NOP, TRAP and HALT. -/
def Claim.NopTrapHalt : Prop :=
  ∀ (s : State) (c : Nat) (code : BitVec 5), s.SeqIssues c [] →
    exec .nop s = .next (s.setCore c { s.core c with pc := (s.core c).pc + 4 }) ∧
    ((s.core c).mayFail = false → exec (.trap code) s = .next (s.trapWith c 4 ((s.core c).pc + 4) none { code := code.toNat })) ∧
    ((s.core c).mayFail = false → exec .halt s = .next (((((s.setCore c { s.core c with pc := (s.core c).pc + 4, run := .halted, debug := true }).modCtx (s.ctxOf c)
      (fun x => { x with dbgHalted := (x.dbgHalted ++ [c]).eraseDups })).drainSeen c).record (s.ctxOf c)
        ⟨8, 0, 0, coreField c ((s.core c).pc + 4), 0⟩).endLaunch (s.ctxOf c))) ∧
    (∀ u : State, (u.core c).debug = true → u.drained_ c = true → u.drainSeen c = u.acquireWhere .device (fun w => w.core == c && isSram w.place.key)) ∧
    (∀ u : State, ((u.core c).debug = false ∨ u.drained_ c = false) → u.drainSeen c = u)

/-- ERET (04 R102; 24 R378, R379), once no ring word or ARRIVE before it can still fail (log entry 6): outside handler mode an illegal instruction;
inside it, with nothing asked for through QCTL and STRCTL and no fault of a command on a shared queue, the core leaves handler mode, goes on at EPC with
bits 1:0 zero and without bits 63:56 (log entry 76), clears CUTS.V and restarts its queues; where a fault is held it is taken in the same step, EPC then holding the address at which the
sequencer would have gone on, and what was stopped stays stopped. Says that ERET completes. -/
def Claim.ReturnFromTheHandler : Prop :=
  ∀ (s : State) (c : Nat), s.SeqIssues c [] → (s.core c).mayFail = false →
    ((s.core c).handler = false → exec .eret s = .next (s.trapWith c 1 (s.core c).pc (some 0) {})) ∧
    ((s.core c).handler = true → (s.core c).discards = [] → (s.core c).endStrand = false → s.faultedShared c = none →
      ((s.core c).heldFaults = [] → ∃ t, exec .eret s = .next t ∧ (t.core c).handler = false ∧
        (t.core c).pc = BitVec.ofNat 56 (((s.core c).sys 4).toNat / 4 * 4) ∧ bitAt ((t.core c).sys 38).toNat 31 = false ∧
        (∀ q < 6, (t.queue (.core c q)).stop = false) ∧ (∀ r, (t.core c).reg r = (s.core c).reg r) ∧
        (∀ n, n ≠ c → t.core n = s.core n) ∧ t.ms = s.ms ∧ t.ctxs = s.ctxs) ∧
      (∀ f rest, (s.core c).heldFaults = f :: rest → ∃ t, exec .eret s = .next t ∧ (t.core c).handler = true ∧
        (t.core c).heldFaults = rest ∧ (t.core c).pc = BitVec.ofNat 56 (((s.core c).sys 3).toNat / 4 * 4) ∧
        (t.core c).sys 4 = BitVec.ofNat 64 (((s.core c).sys 4).toNat / 4 * 4 % 2 ^ 56) ∧ (t.core c).sys 6 = f.tval ∧
        (∀ q < 6, (t.queue (.core c q)).stop = true) ∧ t.ms = s.ms))

/-- SYSR and SYSW (04 R104; 24 R378): a read writes the register's value to s[d]; in handler mode the registers of the cut wait for it; TVEC, EPC and
the scratch registers are written; a word that names no register, or SYSW of one that is read-only, is an illegal instruction, and so is SYSW of QCTL and
STRCTL outside handler mode; a register that the word may not write is illegal before a poisoned operand traps (log entry 75). SYSW and the traps wait while a ring word or an ARRIVE before them can still fail (log entry 6). Says that SYSR and SYSW
complete. -/
def Claim.SystemRegisters : Prop :=
  ∀ (s : State) (c : Nat) (d : BitVec 5) (sr : BitVec 10),
    (s.SeqIssues c [] →
      (sr.toNat ∈ sysNumbers → (sr.toNat ∈ cutNumbers → (s.core c).handler = true → bitAt ((s.core c).sys 38).toNat 31 = true) →
        exec (.sysr d sr) s = .next (s.setCore c (((s.core c).write d (s.sysSpec c sr.toNat) false).advance 4))) ∧
      (sr.toNat ∈ cutNumbers → (s.core c).handler = true → bitAt ((s.core c).sys 38).toNat 31 = false →
        exec (.sysr d sr) s = .next (s.setCore c { s.core c with stall := some .cut })) ∧
      (sr.toNat = 2 → ∃ v, exec (.sysr d sr) s = .next
        (({ s with fresh := s.fresh + 1 } : State).setCore c ((({ s.core c with cycle := v } : Core).write d v false).advance 4))) ∧
      (sr.toNat ∉ sysNumbers → sr.toNat ≠ 2 → (s.core c).mayFail = false →
        exec (.sysr d sr) s = .next (s.trapWith c 1 (s.core c).pc (some 0) {}))) ∧
    (s.SeqIssues c [d] → (s.core c).mayFail = false →
      ((sr.toNat = 3 ∨ sr.toNat = 4 ∨ (16 ≤ sr.toNat ∧ sr.toNat ≤ 31)) → (s.core c).pois d = false →
        exec (.sysw d sr) s = .next (s.setCore c (((s.core c).setSys sr.toNat ((s.core c).reg d)).advance 4))) ∧
      (sr.toNat ≠ 3 → sr.toNat ≠ 4 → ¬(16 ≤ sr.toNat ∧ sr.toNat ≤ 31) →
        ((sr.toNat ≠ 39 ∧ sr.toNat ≠ 52) ∨ (s.core c).handler = false) →
        exec (.sysw d sr) s = .next (s.trapWith c 1 (s.core c).pc (some 0) {})) ∧
      ((s.core c).handler = true → (s.core c).pois d = false →
        (sr.toNat = 39 → exec (.sysw d sr) s = .next (s.setCore c { s.core c with
          pc := (s.core c).pc + 4
          discards := (([0, 1, 2, 3, 4, 5, 8] : List Nat).filter (fun b => bitAt ((s.core c).reg d).toNat b)).foldl
            (fun t b => NatSet.mark t b true) (s.core c).discards })) ∧
        (sr.toNat = 52 → exec (.sysw d sr) s = .next (s.setCore c { s.core c with
          pc := (s.core c).pc + 4, endStrand := (s.core c).endStrand || bitAt ((s.core c).reg d).toNat 0 }))))

/-! ### The sequencer: memory -/

/-- Loads (04 R81, R82, R76; 02 R40, R46; 13 R252; 22 R368): one ordinary read of n bytes at the live frame; the register awaits the value, zero- or
sign-extended as the word says, with the poison of its line, and the PC moves on. It reads at issue when every access before it has its place in the order
and no channel there pauses for a lane repair, or when the core's own pending stores cover it and no checked operation stands before it; else it enters the
check queue and reads in its place (log entry 6). Under PFX.I the offset has 40 bits and the unit is 8 bytes long. Says that these complete: the eight loads of `loadTable`
(LD_B, LD_H, LD_W, LD_D, LDS_B, LDS_H, LDS_W, LDS_D), and
PFX.I with each of them. -/
def Claim.LoadsReadMemory : Prop :=
  ∀ (s : State) (c : Nat) (d a : BitVec 5) (imm : BitVec 16) (p : Place), ∀ e ∈ loadTable,
    (∀ ea, ea = ((s.core c).reg a + imm.signExtend 64).toNat → s.SeqIssues c [a] → (s.core c).pois a = false → ea % e.2.1 = 0 →
      (s.ctx (s.ctxOf c)).place false ea = some p →
      (s.readsNow c p e.2.1 → exec (e.1 d a imm) s = .next (s.loaded c d p e.2.1 4 e.2.2.2)) ∧
      (¬ s.readsNow c p e.2.1 → exec (e.1 d a imm) s =
        .next (s.setCore c (((s.core c).enter (.load p e.2.1 e.2.2.1) (some d) false 4 false).advance 4)))) ∧
    (∀ (s1 : State) (w : Nat) (hi : BitVec 24), s.SeqIssues c [] → s.fetch (s.ctxOf c) ((s.core c).pc + 4).toNat 4 = .bytes w s1 →
      s1.SeqIssues c [a] → (s1.core c).pois a = false → decodeSeq w = some (e.1 d a imm) →
      ∀ ea, ea = ((s1.core c).reg a + (hi ++ imm).signExtend 64).toNat → ea % e.2.1 = 0 →
      (s1.ctx (s1.ctxOf c)).place false ea = some p →
      (s1.readsNow c p e.2.1 → exec (.pfxI hi) s = .next (s1.loaded c d p e.2.1 8 e.2.2.2)) ∧
      (¬ s1.readsNow c p e.2.1 → exec (.pfxI hi) s =
        .next (s1.setCore c (((s1.core c).enter (.load p e.2.1 e.2.2.1) (some d) false 8 false).advance 8))))

/-- What a load leaves (04 R76, R81, R94): its register awaits its result, unless it is s0, and no older one; the PC moves on; no register has changed,
nor anything else of the machine but what an ordinary read moves: the caches, leases and logical times. -/
def Claim.LoadsLeaveTheRest : Prop :=
  ∀ (s : State) (c : Nat) (d : BitVec 5) (p : Place) (n ulen : Nat) (ext : Nat → BitVec 64) (r : List (BitVec 8) × State),
    r = s.readPlace (.seq c) p n →
    ((s.loaded c d p n ulen ext).core c).pc = (s.core c).pc + BitVec.ofNat 56 ulen ∧
    ((s.loaded c d p n ulen ext).core c).outst = (if d = 0 then (s.core c).outst else (s.core c).outst.filter (fun o => o.reg != d) ++
      [⟨(s.core c).nextId, d, some (ext (leNat r.1), r.2.ms.poisoned p), true⟩]) ∧
    ((s.loaded c d p n ulen ext).core c).observed = (s.core c).observed ++
      (if r.2.ms.isFull (lineOf p.key) then Tbl.get [] r.2.ms.fullBy (lineOf p.key) else []) ∧
    { (s.loaded c d p n ulen ext).core c with
      pc := (s.core c).pc, outst := (s.core c).outst, observed := (s.core c).observed, nextId := (s.core c).nextId } = s.core c ∧
    (∀ m, m ≠ c → (s.loaded c d p n ulen ext).core m = s.core m) ∧
    { s.loaded c d p n ulen ext with cores := s.cores } = r.2 ∧
    r.2 = { s with ms := r.2.ms, fresh := r.2.fresh, stamps := r.2.stamps }

/-- The data of a load return (04 R76; 95 LOAD_DATA_RETURN): the register takes the value and the poison that it awaits. Says that LOAD_DATA_RETURN completes
for a sequencer's register. -/
def Claim.LoadDataReturn : Prop :=
  ∀ (s : State) (c : Nat) (d : BitVec 5) (v : BitVec 64) (p : Bool) (id : Nat), s.who = .device → d ≠ 0 →
    (s.core c).outst.find? (fun o => o.reg == d && o.load == true) = some ⟨id, d, some (v, p), true⟩ →
    exec (.loadDataReturn (.seq c d)) s = .next (s.setCore c ((s.core c).write d v p)) ∧
    ((s.core c).write d v p).reg d = v ∧ ((s.core c).write d v p).pois d = p ∧ ((s.core c).write d v p).busy d = false

/-- An ordinary read of local, uncompressed memory in one line for which the L2 has room (13 R252; 12 R247; 04 R82) returns the bytes that stand there, with
those of the reader's own pending stores over them, when no engine write is pending there; it changes no byte of memory and nothing else of the machine but
the L2's copies, logical times and the count of free values. -/
def Claim.OrdinaryReadsLeaveMemory : Prop :=
  ∀ (s : State) (g : Agent) (p : Place) (n : Nat), isRemote p.key = false → codecMethod p.comp = false → s.ms.oneLine p n →
    ((∀ w ∈ s.ms.pendW, w.touches p.key n = false) → (s.readPlace g p n).1 =
      (pendingBytes (s.pendingOf g)).foldl (fun bs w => overlay p.key bs w.1.key w.2) (s.ms.peekBytes p n)) ∧
    (s.readPlace g p n).1.length = n ∧
    (∀ q, codecMethod q.comp = false → (s.readPlace g p n).2.ms.peek q = s.ms.peek q) ∧ (s.readPlace g p n).2.ms.mem = s.ms.mem ∧
    (s.readPlace g p n).2 =
      { s with ms := (s.readPlace g p n).2.ms, fresh := (s.readPlace g p n).2.fresh, stamps := (s.readPlace g p n).2.stamps }

/-- Stores (04 R81, R82; 15 R288; 02 R40, R46): one ordinary store of n bytes of s[d], little-endian, to the shadow frame inside a task, which marks a flip
region there; the PC moves on. A store that stands behind checked operations enters their queue, and marks the region and is performed in its place (log
entry 6). Under PFX.I the offset has 40 bits and the unit is 8 bytes long. Says that these complete: the four stores of `storeTable` (ST_B,
ST_H, ST_W, ST_D), and PFX.I with each of them. -/
def Claim.StoresWriteMemory : Prop :=
  ∀ (s : State) (c : Nat) (d a : BitVec 5) (imm : BitVec 16) (p : Place) (m : State), ∀ e ∈ storeTable,
    (∀ ea, ea = ((s.core c).reg a + imm.signExtend 64).toNat → s.SeqIssues c [d, a] → (s.core c).storeCount < 8 → (s.core c).pois a = false →
      (s.core c).pois d = false → ea % e.2 = 0 → (s.ctx (s.ctxOf c)).translated ea = true →
      (s.ctx (s.ctxOf c)).place (s.core c).inTask ea = some p → s.markFor c ea = some m →
      ((s.core c).checkQ = [] → exec (e.1 d a imm) s = .next ((m.storeAt c p
        (leBytes ((s.core c).reg d).toNat e.2)).modCore c (fun co => { co with pc := co.pc + 4 }))) ∧
      ((s.core c).checkQ ≠ [] → exec (e.1 d a imm) s = .next (s.setCore c (((s.core c).enter (.store p (leBytes ((s.core c).reg d).toNat e.2)
        (if (s.core c).inTask then (s.ctx (s.ctxOf c)).flipOf ea else 0) ea) none false 4 false).advance 4)))) ∧
    (∀ (s1 : State) (w : Nat) (hi : BitVec 24), s.SeqIssues c [] → s.fetch (s.ctxOf c) ((s.core c).pc + 4).toNat 4 = .bytes w s1 →
      s1.SeqIssues c [d, a] → (s1.core c).storeCount < 8 → (s1.core c).pois a = false → (s1.core c).pois d = false → decodeSeq w = some (e.1 d a imm) →
      ∀ ea, ea = ((s1.core c).reg a + (hi ++ imm).signExtend 64).toNat → ea % e.2 = 0 → (s1.ctx (s1.ctxOf c)).translated ea = true →
      (s1.ctx (s1.ctxOf c)).place (s1.core c).inTask ea = some p → s1.markFor c ea = some m →
      ((s1.core c).checkQ = [] → exec (.pfxI hi) s = .next ((m.storeAt c p
        (leBytes ((s1.core c).reg d).toNat e.2)).modCore c (fun co => { co with pc := co.pc + 8 }))) ∧
      ((s1.core c).checkQ ≠ [] → exec (.pfxI hi) s = .next (s1.setCore c (((s1.core c).enter (.store p (leBytes ((s1.core c).reg d).toNat e.2)
        (if (s1.core c).inTask then (s1.ctx (s1.ctxOf c)).flipOf ea else 0) ea) none false 8 false).advance 8))))

/-- What a store does at issue (04 R82; 13 R252, R254; 22 R368): it is pending. With no earlier store of the sequencer without its place, one to local
memory takes its place in the order, and one to a line of another W4 is sent to its home and has its place when that acknowledges it; where a channel
pauses for a lane repair, or an earlier store still waits for its place, it waits too. -/
def Claim.StoresArePending : Prop :=
  ∀ (s u : State) (c : Nat) (p : Place) (bs : List (BitVec 8)) (st : PendingStore) (old : List PendingStore),
    old = (s.core c).stores → st = ⟨[lineOf p.key], isRemote p.key, false, 0, 0, 0, [(p, bs)], false, false⟩ →
    u = s.setCore c { s.core c with stores := old ++ [{ st with placed := true, seq := s.seqNo + 1 }] } →
    ((∀ o ∈ old, o.placed = true) → s.ms.pausedIn p bs.length = false →
      (isRemote p.key = false → ∃ t, t = ({ u with seqNo := s.seqNo + 1 } : State).storePlace (.seq c) (.seq c) 0 (s.seqNo + 1) p bs ∧
        s.storeAt c p bs = ({ t with ms := t.ms.clearCovered [(p, bs)] } : State).modCore c (fun co => { co with lastStore := s.seqNo + 1 })) ∧
      (isRemote p.key = true → s.storeAt c p bs = ({ s with outbox := s.outbox ++
        [.store (p.key / 2 ^ 52 - 1) (p.key % 2 ^ 52) (s.stamps.pts (.seq c)) bs] } : State).setCore c
        { s.core c with stores := old ++ [{ st with sent := true }] })) ∧
    ((∀ o ∈ old, o.placed = true) → s.ms.pausedIn p bs.length = true →
      s.storeAt c p bs = s.setCore c { s.core c with stores := old ++ [st] }) ∧
    (∀ pre o rest, old = pre ++ o :: rest → (∀ i ∈ pre, i.placed = true) → o.placed = false →
      ((o.remote = true ∧ o.sent = true) ∨ s.repairing o = true) → s.storeAt c p bs = s.setCore c { s.core c with stores := old ++ [st] })

/-- An ordinary store to local, uncompressed memory in one line for which the L2 has room takes its place in the order (13 R252): from then on every byte
stored reads as stored and every other byte as before. Pending stores of other agents to those bytes have been performed before it, so that theirs do not
come back (04 R82); nothing else changes but the marks of full lines that such a store leaves (06 R140), logical times and what engine reads may still
see. -/
def Claim.OrdinaryStoresWriteTheirBytes : Prop :=
  ∀ (s : State) (src : StoreSrc) (g : Agent) (uid seq : Nat) (p : Place) (bs : List (BitVec 8)), s.Inv → isRemote p.key = false →
    codecMethod p.comp = false → s.ms.oneLine p bs.length →
    (∀ q, codecMethod q.comp = false → (s.storePlace src g uid seq p bs).ms.peek q =
      (if p.key ≤ q.key ∧ q.key < p.key + bs.length then bs.getD (q.key - p.key) 0 else s.ms.peek q)) ∧
    s.storePlace src g uid seq p bs = { s.performMet (some src) [(p.key, bs.length)] with
      ms := (s.storePlace src g uid seq p bs).ms, stamps := (s.storePlace src g uid seq p bs).stamps } ∧
    (s.storePlace src g uid seq p bs).ms.pendW = s.ms.pendW ∧
    (∀ c k o, (o = .seq c ∨ (o = .cluster c k ∧ k < 4)) → (s.performMet (some src) [(p.key, bs.length)]).storesOf o =
      (if o = src then s.storesOf o else (s.storesOf o).filter (fun e => !e.meets [(p.key, bs.length)]))) ∧
    ((∀ c o k, o ∈ s.storesOf (.seq c) ++ s.storesOf (.cluster c k) → o.meets [(p.key, bs.length)] = false) →
      s.performMet (some src) [(p.key, bs.length)] = s)

/-- A pending store is performed, or acknowledged by its home, where it is performed first (04 R82; 13 R252, R254; 06 R140): the oldest one that stands in
the order leaves the list; the oldest one that was sent to another W4 takes its place, and the stores that waited for theirs follow it, and the sequencer's
accesses behind them; one marked .sf makes its lines full and leaves memory as it is. Says that STORE_PERFORMED and REMOTE_STORE_ACK complete. -/
def Claim.PendingStoresComplete : Prop :=
  ∀ (s u t : State) (src : StoreSrc) (st : PendingStore) (pre rest : List PendingStore), s.who = .device → s.storesOf src = pre ++ st :: rest →
    u = (s.setStores src (pre ++ rest)).placeStore src st →
    t = ({ u with ms := u.ms.performed { st with seq := s.seqNo + 1 } } : State).advanceStores src (pre ++ rest).length →
    (st.placed = true → (∀ o ∈ pre, o.placed = false) → exec (.storePerformed src) s =
      .next ({ s with ms := s.ms.performed st }.setStores src (pre ++ rest))) ∧
    (st.remote = true → st.sent = true → st.placed = false → (∀ o ∈ pre, o.remote = false ∨ o.sent = false) → exec (.remoteStoreAck src) s =
      .next (match src with | .seq c => t.drainChecks c (t.core c).checkQ.length | .cluster _ _ => t)) ∧
    (st.sf = false → s.ms.performed st = s.ms) ∧
    (st.sf = true → (∀ l, (s.ms.performed st).isFull l = (s.ms.isFull l || st.lines.contains l)) ∧ (s.ms.performed st).mem = s.ms.mem ∧
      (s.ms.performed st).l2 = s.ms.l2 ∧ (s.ms.performed st).pendW = s.ms.pendW)

/-- The stores of one source take their places in the order of its words (13 R252, R254; 22 R368): behind one that waits for a lane repair, or that has
been sent to another W4 and is not acknowledged, none moves; the oldest one for another W4 is sent, and no later one; a store to this W4 takes its place
once all before it have theirs. -/
def Claim.RemoteStoresGoOneByOne : Prop :=
  ∀ (s : State) (src : StoreSrc) (f : Nat) (pre rest : List PendingStore) (st : PendingStore), s.storesOf src = pre ++ st :: rest →
    (∀ o ∈ pre, o.placed = true) → st.placed = false →
    (s.repairing st = true ∨ (st.remote = true ∧ st.sent = true) → s.advanceStores src f = s) ∧
    (s.repairing st = false → st.remote = true → st.sent = false → s.advanceStores src (f + 1) =
      { s.setStores src (pre ++ { st with sent := true } :: rest) with outbox := s.outbox ++ st.messages (s.stamps.pts (agentOf src st)) }) ∧
    (∀ n, st.messages n = (st.writes.filter (fun w => isRemote w.1.key)).map (fun w =>
      OutMsg.store (w.1.key / 2 ^ 52 - 1) (w.1.key % 2 ^ 52) n w.2)) ∧
    (s.repairing st = false → st.remote = false → s.advanceStores src (f + 1) =
      ((s.setStores src (pre ++ { st with placed := true, seq := s.seqNo + 1 } :: rest)).placeStore src st).advanceStores src f) ∧
    ((∀ o ∈ rest, o.placed = true) → (s.setStores src (pre ++ rest)).advanceStores src f = s.setStores src (pre ++ rest))

/-- The address checks of loads and stores, in their order (04 R81, R78, R82; 15 R288), once no ring word or ARRIVE before them can still fail (log entry
6): a poisoned base loses the context with class 10; an untranslated address with class 12 and the address; a translated one that is no multiple of the
size is an alignment trap whose TVAL is the address; a store of poison to a good address loses the context with class 10; one into a flip region that
another task has marked is a program error at its address. With eight stores pending a store stalls. -/
def Claim.AddressChecksOfLoadsAndStores : Prop :=
  ∀ (s : State) (c : Nat) (d a : BitVec 5) (imm : BitVec 16), (s.core c).mayFail = false →
    ∀ ea, ea = ((s.core c).reg a + imm.signExtend 64).toNat →
    (∀ e ∈ loadTable, s.SeqIssues c [a] →
      ((s.core c).pois a = true → exec (e.1 d a imm) s = .next (s.seqLoss c 10 0)) ∧
      ((s.core c).pois a = false → (s.ctx (s.ctxOf c)).translated ea = false → exec (e.1 d a imm) s = .next (s.seqLoss c 12 ea)) ∧
      ((s.core c).pois a = false → (s.ctx (s.ctxOf c)).translated ea = true → ea % e.2.1 ≠ 0 →
        exec (e.1 d a imm) s = .next (s.trapWith c 2 (s.core c).pc (some (BitVec.ofNat 64 ea)) {}))) ∧
    (∀ e ∈ storeTable, s.SeqIssues c [d, a] →
      (8 ≤ (s.core c).storeCount → exec (e.1 d a imm) s = .next (s.setCore c { s.core c with stall := some .storesFull })) ∧
      ((s.core c).storeCount < 8 → (s.core c).pois a = true → exec (e.1 d a imm) s = .next (s.seqLoss c 10 0)) ∧
      ((s.core c).storeCount < 8 → (s.core c).pois a = false → (s.ctx (s.ctxOf c)).translated ea = false →
        exec (e.1 d a imm) s = .next (s.seqLoss c 12 ea)) ∧
      ((s.core c).storeCount < 8 → (s.core c).pois a = false → (s.ctx (s.ctxOf c)).translated ea = true → ea % e.2 ≠ 0 →
        exec (e.1 d a imm) s = .next (s.trapWith c 2 (s.core c).pc (some (BitVec.ofNat 64 ea)) {})) ∧
      ((s.core c).storeCount < 8 → (s.core c).pois a = false → (s.ctx (s.ctxOf c)).translated ea = true → ea % e.2 = 0 →
        (s.core c).pois d = true → exec (e.1 d a imm) s = .next (s.seqLoss c 10 0)) ∧
      ((s.core c).storeCount < 8 → (s.core c).pois a = false → (s.ctx (s.ctxOf c)).translated ea = true → ea % e.2 = 0 →
        (s.core c).pois d = false → s.markFor c ea = none →
        exec (e.1 d a imm) s = .next (s.trapWith c 3 (s.core c).pc (some (BitVec.ofNat 64 ea)) {})))

/-- CLOAD, CSET and CSETI fill a staging buffer (04 R95, R78): CLOAD its 16 doublewords from 128 bytes at a multiple of 128, each with the poison of its
line, at issue where every access before it has its place and no channel there pauses for a lane repair, else in its place in the check queue (log entry
6); CSET one doubleword with the register's poison; CSETI a sign-extended immediate with none; these two wait for a CLOAD of their buffer. Says that
CLOAD, CSET and CSETI complete. -/
def Claim.StagingBuffers : Prop :=
  ∀ (s : State) (c : Nat) (k n : BitVec 4) (a : BitVec 5) (i18 : BitVec 18) (i8 : BitVec 8) (p : Place) (r : List (BitVec 8) × State),
    r = s.readPlace (.seq c) p 128 →
    ((s.core c).cloading k.toNat = false →
      (s.SeqIssues c [a] → exec (.cset k n a) s = .next (s.setCore c
        (((s.core c).setCb k.toNat n.toNat ((s.core c).reg a) ((s.core c).pois a)).advance 4))) ∧
      (s.SeqIssues c [] → exec (.cseti k n i18) s = .next (s.setCore c (((s.core c).setCb k.toNat n.toNat (i18.signExtend 64) false).advance 4)))) ∧
    ((s.core c).cloading k.toNat = true →
      (s.SeqIssues c [a] → exec (.cset k n a) s = .next (s.setCore c { s.core c with stall := some .checkBusy })) ∧
      (s.SeqIssues c [] → exec (.cseti k n i18) s = .next (s.setCore c { s.core c with stall := some .checkBusy }))) ∧
    (∀ ea, ea = ((s.core c).reg a + 128 * i8.zeroExtend 64).toNat → s.SeqIssues c [a] → (s.core c).pois a = false → ea % 128 = 0 →
      (s.ctx (s.ctxOf c)).place false ea = some p →
      ((s.core c).checkClear = false ∨ s.ms.pausedIn p 128 = true → exec (.cload k a i8) s =
        .next (s.setCore c (((s.core c).enter (.cload k.toNat p) none false 4 false).advance 4))) ∧
      ((s.core c).checkQ = [] → (∀ o ∈ (s.core c).stores, o.placed = true) → s.ms.pausedIn p 128 = false →
        ∃ t, exec (.cload k a i8) s = .next t ∧ (t.core c).pc = (s.core c).pc + 4 ∧ t.ms = r.2.ms ∧
        (∀ i, (t.core c).reg i = (s.core c).reg i) ∧ (∀ m, m ≠ c → t.core m = s.core m) ∧
        (∀ j < 16, Tbl.get 0 (t.core c).cb (16 * k.toNat + j) = BitVec.ofNat 64 (leNat ((r.1.drop (8 * j)).take 8)) ∧
          NatSet.has (t.core c).cbPois (16 * k.toNat + j) = r.2.ms.poisoned (p.plus (8 * j))) ∧
        (∀ j, (j < 16 * k.toNat ∨ 16 * k.toNat + 16 ≤ j) → Tbl.get 0 (t.core c).cb j = Tbl.get 0 (s.core c).cb j ∧
          NatSet.has (t.core c).cbPois j = NatSet.has (s.core c).cbPois j)))

/-- CLEAN and INVAL (04 R106, R78; 12 R250; 22 R368): over a translated range of at most 2^40 bytes CLEAN writes the dirty sectors of the lines it touches
back, in both frames of a flip region, so that their stores stand in the row, and INVAL drops the sectors and leased copies of the frame that the
issuer's stores write, of aligned base and length, in its place behind the accesses before it (log entry 6). CLEAN stalls until the core's stores are
performed and no lane repair holds a sector that it would write, INVAL while a line is pinned. Poison loses the context with class 10, an untranslated
byte with class 12; a longer range is a program error with the length; a misaligned base, or length, is INVAL's alignment trap; the order of these checks
and INVAL's TVAL are the model's choice (log entry 75). They wait until no ring word, ARRIVE or store before can still fail (log entry 6). Says that CLEAN
and INVAL complete. -/
def Claim.CleanAndInvalidate : Prop :=
  ∀ (s : State) (c : Nat) (a b : BitVec 5), s.SeqIssues c [a, b] →
    ∀ base len, base = ((s.core c).reg a).toNat → len = ((s.core c).reg b).toNat →
    ∀ cl, cl = (s.ctx (s.ctxOf c)).rangeKeys (fun e => if e.flip = 0 then [false] else [false, true]) (base / 64 * 64)
      (if len = 0 then 0 else (base + len - 1) / 64 * 64 + 64 - base / 64 * 64) →
    ∀ iv, iv = (s.ctx (s.ctxOf c)).rangeKeys (fun e => [(s.ctx (s.ctxOf c)).frame e (s.core c).inTask]) base len →
    ((s.core c).storeCount ≠ 0 → exec (.clean a b) s = .next (s.setCore c { s.core c with stall := some .storesBusy })) ∧
    ((s.core c).pois a = false → (s.core c).pois b = false → len ≤ 2 ^ 40 →
      (∀ ks, (s.core c).storeCount = 0 → cl = some ks →
        (s.ms.heldDirtyIn ks = false → exec (.clean a b) s = .next (({ s with ms := (s.ms.cleanRanges ks).markRows ks } : State).setCore c
          { s.core c with pc := (s.core c).pc + 4 })) ∧
        (s.ms.heldDirtyIn ks = true → exec (.clean a b) s = .next (s.setCore c { s.core c with stall := some .repair }))) ∧
      (∀ ks, base % 64 = 0 → len % 64 = 0 → iv = some ks →
        (s.ms.pinnedIn ks = true → exec (.inval a b) s = .next (s.setCore c { s.core c with stall := some .pinned })) ∧
        (s.ms.pinnedIn ks = false → (s.core c).checkClear = true →
          exec (.inval a b) s = .next ((s.invalidate ks).setCore c { s.core c with pc := (s.core c).pc + 4 }) ∧
          (s.pendingStores = [] → s.invalidate ks = { s with ms := s.ms.dropRanges ks })) ∧
        (s.ms.pinnedIn ks = false → (s.core c).checkClear = false → exec (.inval a b) s =
          .next (s.setCore c (((s.core c).enter (.inval ks) none false 4 false).advance 4))))) ∧
    ((s.core c).mayFail = false →
      ((s.core c).pois a = true ∨ (s.core c).pois b = true →
        ((s.core c).storeCount = 0 → exec (.clean a b) s = .next (s.seqLoss c 10 0)) ∧ exec (.inval a b) s = .next (s.seqLoss c 10 0)) ∧
      ((s.core c).pois a = false → (s.core c).pois b = false →
        ((s.core c).storeCount = 0 → 2 ^ 40 < len → exec (.clean a b) s = .next (s.trapWith c 3 (s.core c).pc (some (BitVec.ofNat 64 len)) {})) ∧
        ((s.core c).storeCount = 0 → len ≤ 2 ^ 40 → cl = none → exec (.clean a b) s = .next (s.seqLoss c 12 base)) ∧
        (base % 64 ≠ 0 → exec (.inval a b) s = .next (s.trapWith c 2 (s.core c).pc (some (BitVec.ofNat 64 base)) {})) ∧
        (base % 64 = 0 → len % 64 ≠ 0 → exec (.inval a b) s = .next (s.trapWith c 2 (s.core c).pc (some (BitVec.ofNat 64 len)) {})) ∧
        (base % 64 = 0 → len % 64 = 0 → 2 ^ 40 < len →
          exec (.inval a b) s = .next (s.trapWith c 3 (s.core c).pc (some (BitVec.ofNat 64 len)) {})) ∧
        (base % 64 = 0 → len % 64 = 0 → len ≤ 2 ^ 40 → iv = none → exec (.inval a b) s = .next (s.seqLoss c 12 base))))

/-- PTEST writes the translation without faulting, with POIS set where the W4 has retired the page (20 R340); PROBE has no effect on a translated address
and otherwise stops the sequencer alone, with a probe record to the owner (04 R105; 20 R342), once no ring word or ARRIVE before it can still fail (log
entry 6). Says that PTEST and PROBE complete. -/
def Claim.ProbeAndTest : Prop :=
  ∀ (s : State) (c : Nat) (d a : BitVec 5), s.SeqIssues c [a] → (s.core c).pois a = false →
    ((s.ctx (s.ctxOf c)).lookup ((s.core c).reg a).toNat = none →
      exec (.ptest d a) s = .next (s.setCore c (((s.core c).write d 0 false).advance 4))) ∧
    (∀ e, s.shownEntry (s.ctx (s.ctxOf c)) ((s.core c).reg a).toNat = some e →
      exec (.ptest d a) s = .next (s.setCore c (((s.core c).write d (BitVec.ofNat 64 (1 + e.place * 2 + e.comp * 2 ^ 4 + e.rowop.toNat * 2 ^ 7 +
        e.cache.toNat * 2 ^ 8 + e.ft.toNat * 2 ^ 9 + e.pois.toNat * 2 ^ 10 + e.flip * 2 ^ 16 + e.size * 2 ^ 24)) false).advance 4))) ∧
    (∀ e p, (s.ctx (s.ctxOf c)).lookup ((s.core c).reg a).toNat = some e →
      (s.ctx (s.ctxOf c)).place false ((s.core c).reg a).toNat = some p →
      s.shownEntry (s.ctx (s.ctxOf c)) ((s.core c).reg a).toNat = some { e with pois := e.pois || s.ms.rangePois p }) ∧
    ((s.ctx (s.ctxOf c)).translated ((s.core c).reg a).toNat = true →
      exec (.probe a) s = .next (s.setCore c { s.core c with pc := (s.core c).pc + 4 })) ∧
    ((s.ctx (s.ctxOf c)).translated ((s.core c).reg a).toNat = false → (s.core c).mayFail = false →
      exec (.probe a) s = .next (((s.setCore c { s.core c with wait := some ⟨.probe ((s.core c).reg a).toNat, 4, false⟩ }).modCtx (s.ctxOf c)
        (fun x => { x with probes := x.probes ++ [c] })).record (s.ctxOf c) ⟨7, 5, (s.core c).reg a, coreField c (s.core c).pc, 0⟩))

/-! ### The sequencer: checked words -/

/-- A checked word enters the check queue with its captured operands (04 R76, R77, R94): the entry stands last, bears the word's address and the stores
that its effect must let commands see, and the register of its result awaits it; the sequencer goes on at the next word, or waits in this one; no
register changes, nor any other core, memory or context. -/
def Claim.CheckedWordsEnter : Prop :=
  ∀ (s : State) (c : Nat) (op : CheckedOp) (dst : Option (BitVec 5)) (remote : Bool) (hold : Option SeqWait) (t : State),
    t = s.entered c op dst remote hold →
    (∃ e, (t.core c).checkQ = (s.core c).checkQ ++ [e] ∧ e.id = (s.core c).nextId ∧ e.op = op ∧ e.dst = dst ∧ e.remote = remote ∧
      e.addr = (s.core c).pc ∧ e.ulen = 4 ∧ e.holds = hold.isSome ∧ e.see = (s.core c).fence ∧
      (∀ d, dst = some d → d ≠ 0 → (t.core c).busy d = true ∧ ∃ l, ⟨e.id, d, none, l⟩ ∈ (t.core c).outst)) ∧
    (∀ w, hold = some w → (t.core c).wait = some ⟨w, 4, false⟩ ∧ (t.core c).pc = (s.core c).pc) ∧
    (hold = none → (t.core c).wait = (s.core c).wait ∧ (t.core c).pc = (s.core c).pc + 4) ∧
    (t.core c).regs = (s.core c).regs ∧ (t.core c).rpois = (s.core c).rpois ∧ (∀ n, n ≠ c → t.core n = s.core n) ∧
    { t with cores := s.cores } = s

/-- Semaphore words enter the check queue with their operands, s[a][31:0] and s[d][31:0] (04 R77, R84): a SEMWAIT holds the sequencer; a 33rd
distinct semaphore of a task's held adds is a program error (R86), once no ring word or ARRIVE before it can still fail (log entry 6). Says that these
complete: SEMADD, SEMCAS, SEMSET, SEMREAD, SEMWAIT and SEMADDC. -/
def Claim.SemaphoreWordsIssue : Prop :=
  ∀ (s : State) (c : Nat) (d a : BitVec 5) (m : BitVec 9), (s.core c).checkRoom → (s.core c).pois a = false →
    (s.SeqIssues c [a] → exec (.semadd d a m) s =
      .next (s.entered c (.sem c m.toNat .add (((s.core c).reg a).setWidth 32) 0) (some d) false none)) ∧
    (s.SeqIssues c [a, d] → (s.core c).pois d = false → exec (.semcas d a m) s = .next (s.entered c
      (.sem c m.toNat .cas (((s.core c).reg a).setWidth 32) (((s.core c).reg d).setWidth 32)) (some d) false none)) ∧
    (s.SeqIssues c [a] → exec (.semset a m) s = .next (s.entered c (.sem c m.toNat .set (((s.core c).reg a).setWidth 32) 0) none false none)) ∧
    (s.SeqIssues c [] → exec (.semread d m) s = .next (s.entered c (.sem c m.toNat .read 0 0) (some d) false none)) ∧
    (s.SeqIssues c [a] → exec (.semwait a m) s = .next (s.entered c (.sem c m.toNat .wait (((s.core c).reg a).setWidth 32) 0) none false
      (some (.sem c m.toNat (((s.core c).reg a).setWidth 32))))) ∧
    (s.SeqIssues c [a] → (s.commits c = false ∨ (c, m.toNat) ∈ (s.core c).addTargets ∨ (s.core c).addTargets.length < 32) →
      exec (.semaddc a m) s = .next (s.entered c (.sem c m.toNat .addc (((s.core c).reg a).setWidth 32) 0) none false none)) ∧
    (s.SeqIssues c [a] → (s.core c).mayFail = false → s.commits c = true → (c, m.toNat) ∉ (s.core c).addTargets →
      32 ≤ (s.core c).addTargets.length →
      exec (.semaddc a m) s = .next (s.trapWith c 3 (s.core c).pc (some (BitVec.ofNat 64 m.toNat)) {}))

/-- PFX.C names the file of another core of the context for the semaphore word after it (02 R46; 04 R84): each of the six words enters the check queue
with that core's semaphore, for a unit of 8 bytes; a valid coordinate that is no core of the context is a program error at the prefix, an invalid one an
illegal instruction (02 R47). Says that PFX.C (PFX_C) completes. -/
def Claim.PrefixedSemaphoreWord : Prop :=
  ∀ (s s1 : State) (c w : Nat) (coord : BitVec 8) (d a : BitVec 5) (m : BitVec 9), s.SeqIssues c [] →
    s.fetch (s.ctxOf c) ((s.core c).pc + 4).toNat 4 = .bytes w s1 →
    (∀ e ∈ [(Instr.semadd d a m, [a], some d, SemOp.add, ((s1.core c).reg a).setWidth 32, (0 : BitVec 32)),
        (.semcas d a m, [a, d], some d, .cas, ((s1.core c).reg a).setWidth 32, ((s1.core c).reg d).setWidth 32),
        (.semset a m, [a], none, .set, ((s1.core c).reg a).setWidth 32, 0), (.semread d m, [], some d, .read, 0, 0),
        (.semwait a m, [a], none, .wait, ((s1.core c).reg a).setWidth 32, 0),
        (.semaddc a m, [a], none, .addc, ((s1.core c).reg a).setWidth 32, 0)],
      decodeSeq w = some e.1 → s1.SeqIssues c e.2.1 → (∀ r ∈ e.2.1, (s1.core c).pois r = false) → (s1.core c).checkRoom →
      (e.2.2.2.1 = .addc → s1.commits c = false) → coordOk coord.toNat = true → s1.coreIn (s1.ctxOf c) (coreOfCoord coord.toNat) = true →
      ∃ t, exec (.pfxC coord) s = .next t ∧ (∀ r, (t.core c).reg r = (s1.core c).reg r) ∧
        (t.core c).pc = (if e.2.2.2.1 = .wait then (s1.core c).pc else (s1.core c).pc + 8) ∧
        ∃ k, (t.core c).checkQ = (s1.core c).checkQ ++ [k] ∧ k.dst = e.2.2.1 ∧ k.ulen = 8 ∧ k.holds = (e.2.2.2.1 == .wait) ∧
          k.op = .sem (coreOfCoord coord.toNat) m.toNat e.2.2.2.1 e.2.2.2.2.1 e.2.2.2.2.2) ∧
    (decodeSeq w = some (.semadd d a m) → s1.SeqIssues c [a] → (s1.core c).pois a = false → (s1.core c).mayFail = false →
      coordOk coord.toNat = true → s1.coreIn (s1.ctxOf c) (coreOfCoord coord.toNat) = false →
      exec (.pfxC coord) s = .next (s1.trapWith c 3 (s1.core c).pc (some (BitVec.ofNat 64 coord.toNat)) {})) ∧
    ((s.core c).mayFail = false → coordOk coord.toNat = false →
      exec (.pfxC coord) s = .next (s.trapWith c 1 (s.core c).pc (some 0) {}))

/-- A semaphore operation takes effect when the shadow's copy matches (04 R77, R85, R86): the file takes the new count, the old one is the result;
SEMWAIT passes when m ≥ s[a] and else waits among the waiters in arrival order; SEMADDC is held in a task of a COMMIT=1 stage. It waits until every
store of its core has its place in the order (13 R252; log entry 6). Says that CHECKED_OP_EFFECT completes. -/
def Claim.SemaphoreEffects : Prop :=
  ∀ (s : State) (c k m : Nat) (a x : BitVec 32) (e : CheckEntry) (rest : List CheckEntry) (u : State) (old : BitVec 32),
    s.who = .device → (s.core c).checkQ = e :: rest → u = s.popCheck c e rest → old = ((u.core k).sem m).val →
    (∀ sop, e.op = .sem k m sop a x → (∃ o ∈ (s.core c).stores, o.placed = false) → exec (.checkedOpEffect c true) s = .next s) ∧
    ((∀ o ∈ (s.core c).stores, o.placed = true) →
    (e.op = .sem k m .add a x → exec (.checkedOpEffect c true) s =
      .next (((u.putSem k m (old + a) [] e.see).settleResult c e (.value (old.zeroExtend 64))).afterCheck c (s.ctxOf c) rest)) ∧
    (e.op = .sem k m .cas a x → exec (.checkedOpEffect c true) s =
      .next (((u.putSem k m (if old = x then a else old) [] e.see).settleResult c e (.value (old.zeroExtend 64))).afterCheck c (s.ctxOf c) rest)) ∧
    (e.op = .sem k m .set a x → exec (.checkedOpEffect c true) s =
      .next (((u.putSem k m a [] e.see).settleResult c e (.value (old.zeroExtend 64))).afterCheck c (s.ctxOf c) rest)) ∧
    (e.op = .sem k m .read a x → exec (.checkedOpEffect c true) s = .next (((u.modCore c (fun co =>
      { co with observed := co.observed ++ ((u.core k).sem m).rel })).settleResult c e (.value (old.zeroExtend 64))).afterCheck c (s.ctxOf c) rest)) ∧
    (e.op = .sem k m .wait a x → a.toNat ≤ old.toNat → exec (.checkedOpEffect c true) s = .next ((u.modCore c (fun co =>
      { co.pass e with observed := co.observed ++ ((u.core k).sem m).rel })).afterCheck c (s.ctxOf c) rest)) ∧
    (e.op = .sem k m .wait a x → old.toNat < a.toNat → exec (.checkedOpEffect c true) s = .next ((u.modCore k (fun co =>
      co.setSem m { co.sem m with waiters := (co.sem m).waiters ++ [(.seq c, a)] })).afterCheck c (s.ctxOf c) rest)) ∧
    (e.op = .sem k m .addc a x → u.commits c = true → exec (.checkedOpEffect c true) s = .next ((u.hold c (.add k m a)).afterCheck c (s.ctxOf c) rest)) ∧
    (e.op = .sem k m .addc a x → u.commits c = false →
      exec (.checkedOpEffect c true) s = .next ((u.putSem k m (old + a) [] e.see).afterCheck c (s.ctxOf c) rest)))

/-- What a semaphore's new count does (04 R85; 12 R245): with no waiter the file holds the count and nothing else of any core's registers, PC or
semaphores changes; the sequencer that alone waits is released when its value is met, and only then. -/
def Claim.SemaphoreCountAndRelease : Prop :=
  ∀ (s : State) (c m k : Nat) (v a : BitVec 32) (see : Nat) (w : Waiting),
    (((s.core c).sem m).waiters = [] → (((s.putSem c m v [] see).core c).sem m).val = v ∧ (s.putSem c m v [] see).ms = s.ms ∧
      (∀ n j, (n ≠ c ∨ j ≠ m) → ((s.putSem c m v [] see).core n).sem j = (s.core n).sem j) ∧
      (∀ n, ((s.putSem c m v [] see).core n).regs = (s.core n).regs ∧ ((s.putSem c m v [] see).core n).pc = (s.core n).pc)) ∧
    (((s.core c).sem m).waiters = [(.seq k, a)] → (s.core k).wait = some w →
      (((s.putSem c m v [] see).core c).sem m).val = v ∧
      (a.toNat ≤ v.toNat → ((s.putSem c m v [] see).core k).wait = some { w with released := true } ∧
        (((s.putSem c m v [] see).core c).sem m).waiters = []) ∧
      (v.toNat < a.toNat → ((s.putSem c m v [] see).core k).wait = some w ∧
        (((s.putSem c m v [] see).core c).sem m).waiters = [(.seq k, a)]))

/-- A result reaches the register that awaits it (04 R77, R107): at once from the core's own file, ring or queue; a result that travels is written by
REMOTE_RESULT_RETURN. A word that held the sequencer is over. A program error is a trap at the word itself, with the registers, staging buffers and system
registers as they stood there, and gives up what the check queue still holds (log entry 6); in handler mode it loses the context with class 13 (24 R376),
but where a withdrawn ring alone brings it (12 R243) it is held. -/
def Claim.CheckedResultsReachTheirRegister : Prop :=
  ∀ (s : State) (c : Nat) (e : CheckEntry),
    (∀ (d : BitVec 5) (v : BitVec 64) (t : State), e.dst = some d → d ≠ 0 → e.holds = false →
      (s.core c).outst.find? (fun o => o.id == e.id) = some ⟨e.id, d, none, false⟩ → t = s.settleResult c e (.value v) →
      (e.remote = false → (t.core c).reg d = v ∧ (t.core c).pois d = false ∧ (t.core c).busy d = false ∧ (t.core c).pc = (s.core c).pc) ∧
      (e.remote = true → (t.core c).outst.find? (fun o => o.id == e.id) = some ⟨e.id, d, some (v, false), false⟩ ∧
        (t.core c).regs = (s.core c).regs) ∧
      (∀ n, n ≠ c → t.core n = s.core n) ∧ t.ms = s.ms) ∧
    (e.holds = true → s.settleResult c e .unit = s.setCore c { s.core c with pc := (s.core c).pc + BitVec.ofNat 56 e.ulen, wait := none }) ∧
    (∀ n t, (s.core c).handler = false → t = s.settleResult c e (.error n) → (t.core c).handler = true ∧
      (t.core c).sys 4 = e.addr.zeroExtend 64 ∧ (t.core c).sys 5 = causeWord 3 {} ∧ (t.core c).sys 6 = BitVec.ofNat 64 n ∧
      (∀ i, i ≠ 4 → i ≠ 5 → i ≠ 6 → i ≠ 38 → (t.core c).sys i = Tbl.get 0 e.prior.sysr i) ∧
      (t.core c).regs = e.prior.point.regs ∧ (t.core c).rpois = e.prior.point.rpois ∧ (t.core c).cb = e.prior.cb ∧
      (t.core c).cbPois = e.prior.cbPois ∧ (t.core c).checkQ = [] ∧
      (t.core c).outst = e.prior.point.await.map (fun a => ⟨a.1, a.2, none, false⟩) ∧ t.ms = s.ms) ∧
    (∀ n, (s.core c).handler = true →
      (e.op.mayFail = true → s.settleResult c e (.error n) = (s.modCore c (fun co => co.rewind e)).seqLoss c 13 0) ∧
      (e.op.mayFail = false → e.dst = none → ∃ t, s.settleResult c e (.error n) = t ∧
        (t.core c).heldFaults = (s.core c).heldFaults ++ [⟨3, BitVec.ofNat 64 n, 0, 0, none⟩] ∧ (t.core c).regs = (s.core c).regs ∧
        (t.core c).handler = true ∧ (∀ k, k ≠ c → t.core k = s.core k) ∧ t.ms = s.ms ∧ t.ctxs = s.ctxs))

/-- REMOTE_RESULT_RETURN writes the result of s[d] that has come back (04 R107, R96). Says that REMOTE_RESULT_RETURN completes. -/
def Claim.RemoteResultReturn : Prop :=
  ∀ (s : State) (c : Nat) (d : BitVec 5) (v : BitVec 64) (p : Bool) (id : Nat), s.who = .device → d ≠ 0 →
    (s.core c).outst.find? (fun o => o.reg == d && o.load == false) = some ⟨id, d, some (v, p), false⟩ →
    exec (.remoteResultReturn c d) s = .next (s.setCore c ((s.core c).write d v p))

/-- The accesses of words that stand behind checked operations take place in their order, as soon as no checked operation and no store without its place
stands before them, and no lane repair holds them (13 R252; 04 R77; 22 R368; log entry 6): a load reads and its value becomes known to its register; a
store marks its flip region, or is a program error at its address where another task holds it (15 R288), and takes its place; CLOAD, INVAL and the acquires
have their effect. -/
def Claim.AccessesFollowTheChecks : Prop :=
  ∀ (s : State) (c f : Nat) (e : CheckEntry) (rest : List CheckEntry) (u : State), (s.core c).checkQ = e :: rest →
    u = s.modCore c (fun co => { co with checkQ := rest }) →
    ((∀ o ∈ (s.core c).stores, o.placed = true) →
      (∀ p n sg r, e.op = .load p n sg → s.ms.pausedIn p n = false → r = u.readPlace (.seq c) p n → s.drainChecks c (f + 1) =
        ((r.2.observeLine c p).modCore c (fun co => co.known e.id (extendLoad sg n (leNat r.1)) (r.2.ms.poisoned p))).drainChecks c f) ∧
      (∀ k p, e.op = .cload k p → s.ms.pausedIn p 128 = false → s.drainChecks c (f + 1) = (u.cloadAt c k p).drainChecks c f) ∧
      (∀ ks, e.op = .inval ks → s.ms.pinnedIn ks = false → s.drainChecks c (f + 1) = (u.invalidate ks).drainChecks c f) ∧
      (∀ uids, e.op = .acquire uids → s.drainChecks c (f + 1) = (u.acquire (.seq c) uids).drainChecks c f) ∧
      (∀ uids, e.op = .observe uids → s.drainChecks c (f + 1) =
        (u.modCore c (fun co => { co with observed := co.observed ++ uids })).drainChecks c f) ∧
      (e.op = .fence → s.drainChecks c (f + 1) =
        ((u.acquire (.seq c) (s.core c).observed).modCore c (fun co => { co with observed := [] })).drainChecks c f)) ∧
    (∀ p bs id va, e.op = .store p bs id va →
      ((s.core c).share = none ∨ id = 0 → s.drainChecks c (f + 1) = (u.storeAt c p bs).drainChecks c f) ∧
      (∀ sh, (s.core c).share = some sh → id ≠ 0 →
        (∀ x, (s.ctx (s.ctxOf c)).markFlip id sh.task = some x →
          s.drainChecks c (f + 1) = ((u.setCtx (s.ctxOf c) x).storeAt c p bs).drainChecks c f) ∧
        ((s.ctx (s.ctxOf c)).markFlip id sh.task = none →
          s.drainChecks c (f + 1) = (u.settleResult c e (.error va)).drainChecks c f))) ∧
    ((∃ o ∈ (s.core c).stores, o.placed = false) → (∀ p bs id va, e.op ≠ .store p bs id va) → s.drainChecks c (f + 1) = s) ∧
    (e.op.access = false → s.drainChecks c (f + 1) = s)

/-- DRAW (04 R87): its designation enters the check queue; a non-zero reserved field or a lead core outside the context is a program error, once no ring
word or ARRIVE before it can still fail (log entry 6). Says that DRAW completes. -/
def Claim.DrawWord : Prop :=
  ∀ (s : State) (c : Nat) (d a : BitVec 5) (v lead : Nat), s.SeqIssues c [a] → (s.core c).checkRoom → (s.core c).pois a = false →
    v = ((s.core c).reg a).toNat → lead = slice v 16 9 →
    (slice v 19 17 = 0 → coordOk lead = true → s.coreIn (s.ctxOf c) (coreOfCoord lead) = true → exec (.draw d a) s =
      .next (s.entered c (.draw (coreOfCoord lead) (slice v 8 0) (slice v 63 32) (slice v 31 24) (slice v 23 20)) (some d)
        (coreOfCoord lead != c) none)) ∧
    ((s.core c).mayFail = false → slice v 19 17 ≠ 0 ∨ coordOk lead = false ∨ s.coreIn (s.ctxOf c) (coreOfCoord lead) = false →
      exec (.draw d a) s = .next (s.trapWith c 3 (s.core c).pc (some ((s.core c).reg a)) {}))

/-- DRAW's effect (04 R87), in the rule's numbers: c the count, P the crew, rem = N − c, a minimum of 0 meaning 1. At the lead core's file the chunk
min(rem, max(MINC, ceil(rem / P))) is drawn, and the first item with the count is the result. -/
def Claim.DrawEffect : Prop :=
  ∀ (s : State) (c k m n minc crew cur chunk : Nat) (e : CheckEntry) (rest : List CheckEntry) (u : State), s.who = .device →
    (s.core c).checkQ = e :: rest → (∀ o ∈ (s.core c).stores, o.placed = true) → e.op = .draw k m n minc crew → u = s.popCheck c e rest → cur = ((u.core k).sem m).val.toNat →
    chunk = (if n ≤ cur then 0 else min (n - cur) (max (if minc = 0 then 1 else minc) ((n - cur + crew) / (crew + 1)))) →
    exec (.checkedOpEffect c true) s = .next (((u.putSem k m (BitVec.ofNat 32 (cur + chunk)) [] e.see).settleResult c e
      (.value (BitVec.ofNat 64 (chunk * 2 ^ 32 + cur)))).afterCheck c (s.ctxOf c) rest)

/-- Ring words enter the check queue when the context holds the ring in the role the word needs; an undeclared ring, or one not granted in that role,
is a program error (04 R88, R90), once no ring word or ARRIVE before it can still fail (log entry 6). RWAITF and RWAITE hold the sequencer until they
take effect. Says that these complete: RCLAIM, RTAKE, RSTAT, RFILL, RFREE, RWAITF and RWAITE. -/
def Claim.RingWordsIssue : Prop :=
  ∀ (s : State) (c : Nat) (d a : BitVec 5) (q : BitVec 8), (s.core c).checkRoom →
    (s.SeqIssues c [] → ∀ w ∈ [(Instr.rclaim, RingOp.claim), (.rtake, .take), (.rstat, .stat)],
      (∀ h, s.ringFor c q.toNat w.2 = some h →
        exec (w.1 d q) s = .next (s.entered c (.ring q.toNat w.2 0) (some d) (s.ringRemote c h.1 h.2.2) none)) ∧
      (s.ringFor c q.toNat w.2 = none → (s.core c).mayFail = false →
        exec (w.1 d q) s = .next (s.trapWith c 3 (s.core c).pc (some (BitVec.ofNat 64 q.toNat)) {}))) ∧
    (s.SeqIssues c [a] → (s.core c).pois a = false → ∀ w ∈ [(Instr.rfill, RingOp.fill), (.rfree, .free)],
      (∀ h, s.ringFor c q.toNat w.2 = some h → exec (w.1 a q) s =
        .next (s.entered c (.ring q.toNat w.2 ((s.core c).reg a).toNat) none (s.ringRemote c h.1 h.2.2) none)) ∧
      (s.ringFor c q.toNat w.2 = none → (s.core c).mayFail = false →
        exec (w.1 a q) s = .next (s.trapWith c 3 (s.core c).pc (some (BitVec.ofNat 64 q.toNat)) {}))) ∧
    (s.SeqIssues c [] → ∀ w ∈ [(Instr.rwaitf, RingOp.waitF, true), (.rwaite, .waitE, false)],
      (∀ h, s.ringFor c q.toNat w.2.1 = some h → exec (w.1 q) s =
        .next (s.entered c (.ring q.toNat w.2.1 0) none (s.ringRemote c h.1 h.2.2) (some (.ring q.toNat w.2.2)))) ∧
      (s.ringFor c q.toNat w.2.1 = none → (s.core c).mayFail = false →
        exec (w.1 q) s = .next (s.trapWith c 3 (s.core c).pc (some (BitVec.ofNat 64 q.toNat)) {})))

/-- What the ring words do to a ring of their own context (04 R88, R89, R90), and what they answer: claims and takes give the slot's address or 0, a take
first the slots that an aborted task gave back; a fill or free is held until retirement in a task of a COMMIT=1 stage; one of an address that is no slot in
the required state is a program error; waits pass or join the waiters. -/
def Claim.RingEffects : Prop :=
  ∀ (s : State) (c n q addr : Nat) (r : Ring), n = s.ctxOf c → s.ring n q = some r →
    ((r.c - r.r).toNat < 2 ^ r.logsl → s.ringOp c q .claim addr = (.value (BitVec.ofNat 64 (r.base + r.c.toNat % 2 ^ r.logsl * r.slotb)),
      (s.putRing n q { r with c := r.c + 1, claimed := Tbl.put r.c.toNat n r.claimed }).modCore c (fun co =>
        if co.inTask then co.modShare (fun sh => { sh with slots := sh.slots ++ [(q, r.c.toNat)] }) else co))) ∧
    (2 ^ r.logsl ≤ (r.c - r.r).toNat → s.ringOp c q .claim addr = (.value 0, s)) ∧
    (∀ k, r.claimedUnfilled addr = some k →
      (s.commits c = false → s.ringOp c q .fill addr = (.unit, s.putRing n q { r with filled := NatSet.mark r.filled k.toNat true })) ∧
      (s.commits c = true → s.ringOp c q .fill addr =
        (.unit, (s.setRing n q { r with heldM := NatSet.mark r.heldM k.toNat true }).hold c (.fill q k.toNat)))) ∧
    (r.claimedUnfilled addr = none → s.ringOp c q .fill addr = (.error addr, s)) ∧
    (∀ k, r.takenUndone addr = some k →
      (s.commits c = false → s.ringOp c q .free addr = (.unit, s.putRing n q { r with done := NatSet.mark r.done k.toNat true })) ∧
      (s.commits c = true → s.ringOp c q .free addr =
        (.unit, (s.setRing n q { r with heldM := NatSet.mark r.heldM k.toNat true }).hold c (.free q k.toNat)))) ∧
    (r.takenUndone addr = none → s.ringOp c q .free addr = (.error addr, s)) ∧
    (r.chan = false → r.ret = [] → s.ringOp c q .stat addr = (.value (BitVec.ofNat 64 ((r.t - r.r).toNat % 2 ^ 16 * 2 ^ 48 +
      (r.c - r.f).toNat % 2 ^ 16 * 2 ^ 32 + (r.f - r.t).toNat % 2 ^ 16 * 2 ^ 16 + (2 ^ r.logsl - (r.c - r.r).toNat) % 2 ^ 16)), s)) ∧
    ((r.c - r.r).toNat < 2 ^ r.logsl → s.ringOp c q .waitE addr = (.unit, s)) ∧
    (2 ^ r.logsl ≤ (r.c - r.r).toNat → s.ringOp c q .waitE addr = (.blocked, s.setRing n q { r with waitE := r.waitE ++ [c] })) ∧
    ((r.ret ≠ [] ∨ r.f ≠ r.t) → s.ringOp c q .waitF addr = (.unit, s)) ∧
    (r.ret = [] → r.f = r.t → s.ringOp c q .waitF addr = (.blocked, s.setRing n q { r with waitF := r.waitF ++ [c] })) ∧
    (∀ k more, r.ret = k :: more → s.ringOp c q .take addr =
      (.value (BitVec.ofNat 64 (r.base + (BitVec.ofNat 32 k).toNat % 2 ^ r.logsl * r.slotb)),
        (s.putRing n q { r with ret := more, taken := r.taken ++ [(k, n)] }).modCore c (fun co =>
          if co.inTask then { co with observed := co.observed ++ Tbl.get [] r.rel k }.modShare
            (fun sh => { sh with takes := sh.takes ++ [(q, k)] })
          else { co with observed := co.observed ++ Tbl.get [] r.rel k }))) ∧
    (r.ret = [] → r.f = r.t → s.ringOp c q .take addr = (.value 0, s.putRing n q r)) ∧
    (r.ret = [] → r.f ≠ r.t → NatSet.has r.void r.t.toNat = false → s.ringOp c q .take addr =
      (.value (BitVec.ofNat 64 (r.base + r.t.toNat % 2 ^ r.logsl * r.slotb)),
        (s.putRing n q { r with t := r.t + 1, taken := r.taken ++ [(r.t.toNat, n)] }).modCore c (fun co =>
          if co.inTask then { co with observed := co.observed ++ Tbl.get [] r.rel r.t.toNat }.modShare
            (fun sh => { sh with takes := sh.takes ++ [(q, r.t.toNat)] })
          else { co with observed := co.observed ++ Tbl.get [] r.rel r.t.toNat })))

/-- A ring's frontiers after a change (04 R88): F goes on over filled slots alone, to the first claimed slot that is not filled, and R over done slots alone,
to the first taken one that is not done, so a consumer sees slots in claim order; a slot that R passes loses its marks and no other does; the claimed and
taken counts stay. The waiters whose condition then holds are released, and no others. -/
def Claim.RingFrontiersSettle : Prop :=
  (∀ (r v : Ring) (fuel : Nat), (r.c - r.f).toNat + (r.t - r.r).toNat ≤ fuel → v = r.settle fuel →
    v.c = r.c ∧ v.t = r.t ∧ ∃ a b, a ≤ (r.c - r.f).toNat ∧ b ≤ (r.t - r.r).toNat ∧
      v.f = r.f + BitVec.ofNat 32 a ∧ v.r = r.r + BitVec.ofNat 32 b ∧
      (∀ i < a, NatSet.has r.filled (r.f + BitVec.ofNat 32 i).toNat = true) ∧ (∀ i < b, NatSet.has r.done (r.r + BitVec.ofNat 32 i).toNat = true) ∧
      (v.f = r.c ∨ NatSet.has v.filled v.f.toNat = false) ∧ (v.r = r.t ∨ NatSet.has v.done v.r.toNat = false) ∧
      (∀ n, (NatSet.has v.filled n = true ↔ NatSet.has r.filled n = true ∧ ∀ i < b, n ≠ (r.r + BitVec.ofNat 32 i).toNat) ∧
        (NatSet.has v.done n = true ↔ NatSet.has r.done n = true ∧ ∀ i < b, n ≠ (r.r + BitVec.ofNat 32 i).toNat))) ∧
  (∀ (s : State) (n q : Nat) (r v : Ring) (space ready : Bool), r.chan = false → v = r.settle (4 * 2 ^ r.logsl) →
    space = decide ((v.c - v.r).toNat < 2 ^ v.logsl) → ready = (decide (v.ret ≠ []) || decide (v.f ≠ v.t)) →
    (s.putRing n q r).ring n q =
      some { v with waitE := if space then [] else v.waitE, waitF := if ready then [] else v.waitF } ∧
    (∀ k, ((s.putRing n q r).core k).wait = (if (space && v.waitE.contains k) || (ready && v.waitF.contains k) then
        (s.core k).wait.map (fun w => { w with released := true }) else (s.core k).wait) ∧
      { (s.putRing n q r).core k with wait := (s.core k).wait } = s.core k) ∧ (s.putRing n q r).ms = s.ms)

/-- Set words enter the check queue; their state is at the launch front end, so a result travels (04 R91). BWAIT holds the sequencer. Says that these
complete: JOIN, LEAVE, ARRIVE, BWAIT and BTEST. -/
def Claim.SetWordsIssue : Prop :=
  ∀ (s : State) (c : Nat) (d a : BitVec 5) (g : BitVec 6), (s.core c).checkRoom →
    (s.SeqIssues c [] → exec (.join g) s = .next (s.entered c (.set g.toNat .join 0) none true none) ∧
      exec (.leave g) s = .next (s.entered c (.set g.toNat .leave 0) none true none) ∧
      exec (.arrive d g) s = .next (s.entered c (.set g.toNat .arrive 0) (some d) true none)) ∧
    (s.SeqIssues c [a] → (s.core c).pois a = false →
      exec (.bwait a g) s = .next (s.entered c (.set g.toNat .wait (((s.core c).reg a).toNat % 2 ^ 16)) none true
        (some (.set g.toNat (((s.core c).reg a).setWidth 16)))) ∧
      exec (.btest d a g) s = .next (s.entered c (.set g.toNat .test (((s.core c).reg a).toNat % 2 ^ 16)) (some d) true none))

/-- What the set words do (04 R91): a member arrives once and the phase before is its result; an arrival that completes the set steps the phase and
clears every flag; a non-member's arrival, or a second one, is a program error; BTEST answers the difference of phases modulo 2^16. A change after
which the set has a member and every member has arrived completes the phase, whatever its members, and every waiter on another phase is released. -/
def Claim.SetEffects : Prop :=
  ∀ (s : State) (c g val : Nat) (v : MemberSet), v = s.mset (s.ctxOf c) g →
    ((∀ e ∈ v.members, e.1 ≠ .seq c) → s.setOp c g .join val =
      (.unit, s.putSet (s.ctxOf c) g { v with members := v.members ++ [(.seq c, false)] })) ∧
    ((∃ e ∈ v.members, e.1 = .seq c) → s.setOp c g .join val = (.unit, s) ∧ s.setOp c g .leave val =
      (.unit, s.putSet (s.ctxOf c) g { v with members := v.members.filter (fun e => e.1 != .seq c) })) ∧
    ((∀ e ∈ v.members, e.1 ≠ .seq c) → s.setOp c g .leave val = (.unit, s) ∧ s.setOp c g .arrive val = (.error g, s)) ∧
    (v.members.find? (fun e => e.1 == .seq c) = some (.seq c, true) → s.setOp c g .arrive val = (.error g, s)) ∧
    (v.members.find? (fun e => e.1 == .seq c) = some (.seq c, false) → s.setOp c g .arrive val = (.value (v.phase.zeroExtend 64),
      s.putSet (s.ctxOf c) g { v with members := v.members.map (fun e => if e.1 = .seq c then (e.1, true) else e) })) ∧
    s.setOp c g .test val = (.value ((v.phase - BitVec.ofNat 16 val).zeroExtend 64), s) ∧
    (v.phase ≠ BitVec.ofNat 16 val → s.setOp c g .wait val = (.unit, s)) ∧
    (v.phase = BitVec.ofNat 16 val → s.setOp c g .wait val =
      (.blocked, s.setMset (s.ctxOf c) g { v with waiters := v.waiters ++ [(c, BitVec.ofNat 16 val)] })) ∧
    (∀ (n : Nat) (w : MemberSet) (full : Bool) (ph : BitVec 16), full = (!w.members.isEmpty && w.members.all (·.2)) →
      ph = (if full then w.phase + 1 else w.phase) →
      (s.putSet n g w).mset n g = { w with
        phase := ph, members := if full then w.members.map (fun m => (m.1, false)) else w.members
        waiters := w.waiters.filter (fun e => e.2 == ph) } ∧
      (∀ k, ((s.putSet n g w).core k).wait = (if w.waiters.any (fun e => e.1 == k && e.2 != ph) then
          (s.core k).wait.map (fun o => { o with released := true }) else (s.core k).wait) ∧
        { (s.putSet n g w).core k with wait := (s.core k).wait } = s.core k) ∧ (s.putSet n g w).ms = s.ms)

/-- A ring or a set operation takes effect when the shadow's copy matches, and its answer goes to the word that asked (04 R77, R88, R91). -/
def Claim.RingAndSetOperationsTakeEffect : Prop :=
  ∀ (s : State) (c q addr g val : Nat) (op : RingOp) (sop : SetOp) (e : CheckEntry) (rest : List CheckEntry) (u : State), s.who = .device →
    (s.core c).checkQ = e :: rest → (∀ o ∈ (s.core c).stores, o.placed = true) → u = s.popCheck c e rest →
    (e.op = .ring q op addr →
      exec (.checkedOpEffect c true) s = .next (((u.ringOp c q op addr).2.settleResult c e (u.ringOp c q op addr).1).afterCheck c (s.ctxOf c) rest)) ∧
    (e.op = .set g sop val →
      exec (.checkedOpEffect c true) s = .next (((u.setOp c g sop val).2.settleResult c e (u.setOp c g sop val).1).afterCheck c (s.ctxOf c) rest))

/-! ### The sequencer: timelines, commands, tasks -/

/-- TLREAD writes the count and acquires nothing; TLWAIT passes when the count has reached s[a], unsigned, acquiring the writes of every command
numbered up to it, and else waits; TLWAIT_RELEASE ends the wait in the same way (04 R93). Behind checked operations, or stores without their place in the
order, the acquire, or what TLREAD observes, enters the check queue (13 R252; log entry 6). Says that these complete: TLREAD, TLWAIT and TLWAIT_RELEASE. -/
def Claim.Timelines : Prop :=
  ∀ (s : State) (c : Nat) (d a : BitVec 5) (ctr inst : BitVec 4) (q : QId), q = timelineOf c (s.ctxOf c) ctr.toNat inst.toNat →
    (s.SeqIssues c [] → (s.core c).checkClear = true → exec (.tlread d ctr inst) s = .next (s.setCore c ((({ s.core c with
      observed := (s.core c).observed ++ (s.queue q).releasedTo (s.queue q).count } : Core).write d (BitVec.ofNat 64 (s.queue q).count) false).advance 4))) ∧
    (s.SeqIssues c [] → (s.core c).checkClear = false → exec (.tlread d ctr inst) s = .next (s.setCore c
      ((((s.core c).enter (.observe ((s.queue q).releasedTo (s.queue q).count)) none false 0 false).write d
        (BitVec.ofNat 64 (s.queue q).count) false).advance 4))) ∧
    (s.SeqIssues c [a] → (s.core c).pois a = false → ((s.core c).reg a).toNat ≤ (s.queue q).count →
      ((s.core c).checkClear = true → exec (.tlwait a ctr inst) s =
        .next ((s.acquire (.seq c) ((s.queue q).releasedTo ((s.core c).reg a).toNat)).setCore c { s.core c with pc := (s.core c).pc + 4 })) ∧
      ((s.core c).checkClear = false → exec (.tlwait a ctr inst) s = .next (s.setCore c
        (((s.core c).enter (.acquire ((s.queue q).releasedTo ((s.core c).reg a).toNat)) none false 0 false).advance 4)))) ∧
    (s.SeqIssues c [a] → (s.core c).pois a = false → (s.queue q).count < ((s.core c).reg a).toNat → exec (.tlwait a ctr inst) s =
      .next (s.setCore c { s.core c with wait := some ⟨.tl q ((s.core c).reg a).toNat, 4, false⟩ })) ∧
    (∀ n r, s.who = .device → (s.core c).wait = some ⟨.tl q n, 4, r⟩ →
      ((s.core c).checkClear = true → n ≤ (s.queue q).count → exec (.tlwaitRelease c) s =
        .next ((s.acquire (.seq c) ((s.queue q).releasedTo n)).setCore c { s.core c with pc := (s.core c).pc + 4, wait := none })) ∧
      ((s.core c).checkClear = false → n ≤ (s.queue q).count → exec (.tlwaitRelease c) s = .next (s.setCore c
        { ((s.core c).enter (.acquire ((s.queue q).releasedTo n)) none false 0 false).advance 4 with wait := none })) ∧
      ((s.queue q).count < n → exec (.tlwaitRelease c) s = .next s)) ∧
    ((s.core c).checkClear = ((s.core c).checkQ.isEmpty && (s.core c).stores.all (·.placed)))

/-- XFENCE.O2E completes when every store of the issuer is performed, and what the core pushes later must see those stores; XFENCE.E2O acquires the
writes of every command whose completion the issuer has observed (04 R94). Says that XFENCE.O2E (XFENCE_O2E) and XFENCE.E2O
(XFENCE_E2O) complete. -/
def Claim.Fences : Prop :=
  ∀ (s : State) (c : Nat), s.SeqIssues c [] →
    ((s.core c).storeCount = 0 → exec .xfenceO2E s = .next (s.setCore c { s.core c with
      pc := (s.core c).pc + 4, fence := max (s.core c).fence (s.core c).lastStore })) ∧
    ((s.core c).storeCount ≠ 0 → exec .xfenceO2E s = .next (s.setCore c { s.core c with stall := some .storesBusy })) ∧
    ((s.core c).checkClear = true → exec .xfenceE2O s = .next ((s.acquire (.seq c) (s.core c).observed).setCore c
      { s.core c with pc := (s.core c).pc + 4, observed := [] })) ∧
    ((s.core c).checkClear = false → exec .xfenceE2O s = .next (s.setCore c (((s.core c).enter .fence none false 0 false).advance 4)))

/-- Acquiring commands (13 R257): their pending writes, in the order performed, stand in memory, and no write of theirs is pending any more; the bytes that
they write are stored as ordinary stores would be. Pending stores to those bytes have been performed before (04 R82); nothing else of the machine changes
but logical times. -/
def Claim.Acquire : Prop :=
  ∀ (m : MemSys) (uids : List Nat), (m.acquire uids).pendW = m.pendW.filter (fun w => !uids.contains w.uid) ∧
    (uids = [] → m.acquire uids = m) ∧
    (∀ ws, ws = m.pendW.filter (fun w => uids.contains w.uid) → (∀ w ∈ ws, w.dram = false ∧ codecMethod w.place.comp = false) →
      (m.acquire uids).mem = (ws.foldl (fun t w => t.pokeBytes w.place w.data) m).mem ∧
      (m.acquire uids).l2 = (ws.foldl (fun t w => t.pokeBytes w.place w.data) m).l2) ∧
    (∀ (s u : State) (a : Agent), u = s.performMet none ((s.ms.pendW.filter (fun w => uids.contains w.uid)).map (fun w => (w.place.key, w.data.length))) →
      s.acquire a uids = { u with ms := u.ms.acquire uids, stamps := (s.acquire a uids).stamps })

/-- CPUSH (04 R96, R77, R78): bytes 0-7 that name no queue are a command fault with TVAL zero at the CPUSH; a push to a per-core queue with its
tokens, a free place and no chained command enters the check queue and its number, one more than the last pushed one, is in s[d] at issue; a push to a
shared queue enters with its number awaited; a full queue stalls. A mover's or a transform's command with
CHAIN brings the next buffer's matrix command, which needs a place too (08 R200). It waits for a CLOAD of its buffers, and a trap or loss until no ring
word, ARRIVE or store before it can still fail (log entry 6); a poisoned buffer loses the context with class 10, whatever queue it names (log entry 75).
Says that CPUSH completes. -/
def Claim.CommandPush : Prop :=
  ∀ (s : State) (c : Nat) (d : BitVec 5) (k : BitVec 4) (b : Nat) (cmd : Cmd), s.SeqIssues c [] →
    ((s.core c).cloading k.toNat = true → exec (.cpush d k) s = .next (s.setCore c { s.core c with stall := some .checkBusy })) ∧
    ((s.core c).cloading k.toNat = false → (s.core c).bufferPois k.toNat = true → (s.core c).mayFail = false →
      exec (.cpush d k) s = .next (s.seqLoss c 10 0)) ∧
    ((s.core c).cloading k.toNat = false → (s.core c).bufferPois k.toNat = false →
    b = (((s.core c).buffer k.toNat).headD 0).toNat →
    cmd = newCmd ((s.core c).buffer k.toNat) none c ((s.core c).task.map (·.task)) (s.core c).fence →
    (queueOf c (s.ctxOf c) (slice b 63 60) (slice b 59 57) = none → (s.core c).mayFail = false →
      exec (.cpush d k) s = .next (s.trapWith c 6 (s.core c).pc (some 0) {})) ∧
    (∀ sel, queueOf c (s.ctxOf c) (slice b 63 60) (slice b 59 57) = some (.core c sel) → bitAt b 55 = false → (s.core c).checkRoom →
      (s.core c).sqReady cmd = true → s.roomFor c (.core c sel) = true →
      ∃ t, exec (.cpush d k) s = .next t ∧ (t.core c).pc = (s.core c).pc + 4 ∧
        (d ≠ 0 → (t.core c).reg d = BitVec.ofNat 64 ((s.queue (.core c sel)).last + (s.core c).pending c (.core c sel) + 1)) ∧
        (∀ r, r ≠ d → (t.core c).reg r = (s.core c).reg r) ∧ t.ms = s.ms ∧ t.ctxs = s.ctxs ∧ (∀ n, n ≠ c → t.core n = s.core n) ∧
        ∃ e, (t.core c).checkQ = (s.core c).checkQ ++ [e] ∧ e.op = .push (.core c sel) cmd ∧ e.dst = none ∧ e.holds = false) ∧
    (∀ q, queueOf c (s.ctxOf c) (slice b 63 60) (slice b 59 57) = some q → isShared q = true → (s.core c).checkRoom →
      (s.core c).sqReady cmd = true → s.roomFor c q = true → exec (.cpush d k) s = .next (s.entered c (.push q cmd) (some d) true none)) ∧
    (∀ q, queueOf c (s.ctxOf c) (slice b 63 60) (slice b 59 57) = some q → bitAt b 55 = false → (s.core c).checkRoom →
      (s.core c).sqReady cmd = true → s.roomFor c q = false →
      exec (.cpush d k) s = .next (s.setCore c { s.core c with stall := some .queueFull })) ∧
    (∀ cmd2 inst, (slice b 63 60 = 2 ∨ slice b 63 60 = 3) → slice b 59 57 ≤ 1 → k ≠ 15 → bitAt b 55 = true →
      inst = (if slice b 63 60 = 2 then 2 else 4) + slice b 59 57 → (s.core c).cloading (k.toNat + 1) = false →
      (s.core c).bufferPois (k.toNat + 1) = false →
      cmd2 = newCmd ((s.core c).buffer k.toNat) (some ((s.core c).buffer (k.toNat + 1))) c ((s.core c).task.map (·.task)) (s.core c).fence →
      (s.core c).checkRoom → (s.core c).sqReady cmd2 = true → s.roomFor c (.core c inst) = true →
      (s.roomFor c (.core c 1) = false → exec (.cpush d k) s = .next (s.setCore c { s.core c with stall := some .queueFull })) ∧
      (s.roomFor c (.core c 1) = true → ∃ t e, exec (.cpush d k) s = .next t ∧ (t.core c).pc = (s.core c).pc + 4 ∧
        (t.core c).checkQ = (s.core c).checkQ ++ [e] ∧ e.op = .push (.core c inst) cmd2)))

/-- A push takes effect (08 R187, R189; 04 R96): without tokens and a chained command, the command stands at the end of its queue with the next number of
its timeline counter, and the number of a shared queue is the answer. -/
def Claim.PushTakesEffect : Prop :=
  ∀ (s : State) (c : Nat) (q : QId) (k : Cmd) (e : CheckEntry) (rest : List CheckEntry) (u : State), s.who = .device →
    (s.core c).checkQ = e :: rest → e.op = .push q k → k.chain = none → k.sqpop = 0 → k.sqpush = 0 → s.effectReady c e = true → u = s.popCheck c e rest →
    (u.enqueue c q k).1 = (u.queue q).last + 1 ∧
    ((u.enqueue c q k).2.queue q).cmds = (u.queue q).cmds ++ [{ k with num := (u.queue q).last + 1, uid := u.uid + 1 }] ∧
    ((u.enqueue c q k).2.queue q).last = (u.queue q).last + 1 ∧
    exec (.checkedOpEffect c true) s = .next ((match q with
      | .core _ _ => (u.enqueue c q k).2.retestAll c
      | _ => ((u.enqueue c q k).2.retestAll c).settleResult c e (.value (BitVec.ofNat 64 ((u.queue q).last + 1)))).afterCheck c (s.ctxOf c) rest)

/-- CSTAT writes the state of the queue that eng and k name (04 R97): TLLOW, DRAIN, STOP, DEPTH and USED. Says that CSTAT completes. -/
def Claim.QueueState : Prop :=
  ∀ (s : State) (c : Nat) (d : BitVec 5) (eng k : BitVec 4) (q : QId), s.SeqIssues c [] → queueOf c (s.ctxOf c) eng.toNat k.toNat = some q →
    exec (.cstat d eng k) s = .next (s.setCore c (((s.core c).write d (BitVec.ofNat 64 (
      (s.queue q).count % 2 ^ 32 * 2 ^ 32 + (if (s.queue q).cmds = [] then 2 ^ 17 else 0) +
      (if (s.queue q).stop = true ∨ (s.queue q).pre = true then 2 ^ 16 else 0) +
      (match q with | .core _ _ => 16 | _ => 32) * 2 ^ 8 + (s.queue q).cmds.length)) false).advance 4))

/-- TNEXT waits for the ringmaster, which may end the launch; its answer writes the six registers of R98 and the core goes to the entry point of the
stage for the phase (04 R98, R87; 15 R284). Says that TNEXT and TNEXT_ANSWER_ARRIVAL complete. -/
def Claim.TaskReceipt : Prop :=
  ∀ (s : State) (c : Nat) (d : BitVec 5),
    (s.SeqIssues c [] →
      exec (.tnext d) s = .next ((s.setCore c { s.core c with wait := some ⟨.tnext d, 4, false⟩ }).endLaunch (s.ctxOf c))) ∧
    (∀ sh st t, s.who = .device → (s.core c).wait = some ⟨.tnext d, 4, true⟩ → (s.core c).share = some sh →
      s.stage (s.ctxOf c) sh.task.stage = some st → s.task (s.ctxOf c) sh.task = some t → d.toNat + 5 < 32 → d ≠ 0 →
      ∃ u, exec (.tnextAnswerArrival c) s = .next u ∧ (u.core c).wait = none ∧
        (u.core c).pc = BitVec.ofNat 56 (st.entries.getD t.phase 0) ∧
        (u.core c).reg d = t.tag.zeroExtend 64 ∧ (u.core c).reg (d + 1) = BitVec.ofNat 64 (t.phase + 256 * sh.task.stage) ∧
        (u.core c).reg (d + 2) = BitVec.ofNat 64 t.ver ∧ (u.core c).reg (d + 3) = BitVec.ofNat 64 sh.rank ∧
        (u.core c).reg (d + 4) = BitVec.ofNat 64 t.crew.length ∧
        (u.core c).reg (d + 5) = designation (st.items.getD t.phase 0) st.minc t.crew.length (coordOf (t.crew.headD 0)) st.csem ∧
        (∀ r, r ≠ d → r ≠ d + 1 → r ≠ d + 2 → r ≠ d + 3 → r ≠ d + 4 → r ≠ d + 5 → (u.core c).reg r = (s.core c).reg r) ∧
        (u.core c).vec.rr = st.rr ∧ u.ms = s.ms ∧ u.ctxs = s.ctxs ∧ ∀ n, n ≠ c → u.core n = s.core n)

/-- TEND waits until every command of the share has retired, then reports it and goes on at the next word; TABORT aborts the task under COMMIT=1 and
loses the context with class 17 else; outside a task both are program errors (04 R99, R100; 01 R22), once no ring word or ARRIVE before them can still fail
(log entry 6), whose TVAL is 0 (log entry 99). TEND's report and TABORT wait until every word before has taken effect and every store has its place. Says
that TEND, TABORT and TEND_REPORT complete. -/
def Claim.TaskEnd : Prop :=
  ∀ (s : State) (c : Nat),
    (s.SeqIssues c [] → (s.core c).share = none → (s.core c).mayFail = false → exec .tend s = .next (s.trapWith c 3 (s.core c).pc (some 0) {}) ∧
      exec .tabort s = .next (s.trapWith c 3 (s.core c).pc (some 0) {})) ∧
    (∀ sh, (s.core c).share = some sh →
      (s.SeqIssues c [] →
        exec .tend s = .next (s.setCore c { s.core c with wait := some ⟨.tend, 4, false⟩ })) ∧
      (s.SeqIssues c [] → (s.core c).checkClear = true → s.commits c = true → exec .tabort s = .next (s.abortTask (s.ctxOf c) sh.task false)) ∧
      (s.SeqIssues c [] → (s.core c).checkClear = true → s.commits c = false → exec .tabort s = .next (s.seqLoss c 17 0)) ∧
      (s.SeqIssues c [] → (s.core c).checkClear = false → exec .tabort s = .next (s.setCore c { s.core c with stall := some .checkBusy })) ∧
      (∀ r, s.who = .device → (s.core c).wait = some ⟨.tend, 4, r⟩ → (s.core c).checkClear = true → (∀ p ∈ sh.pushed, p.2 ≤ (s.queue p.1).count) →
        exec (.tendReport c) s = .next ((s.modTask (s.ctxOf c) sh.task (fun t => { t with ended := t.ended ++ [(c, { sh with stores := (s.core c).lastStore })] })).modCore c (fun co =>
          { co with pc := co.pc + 4, wait := none, share := none }))))

/-- TQUERY reads one ringmaster counter of a declared stage (04 R101; 15 R280); its value travels; a non-zero reserved bit, a selector above 8 or an
undeclared stage is a program error, once no ring word or ARRIVE before it can still fail (log entry 6). Says that TQUERY completes. -/
def Claim.RingmasterCounters : Prop :=
  ∀ (s : State) (c v n sel : Nat) (d a : BitVec 5) (st : Stage), s.SeqIssues c [a] → (s.core c).pois a = false → v = ((s.core c).reg a).toNat →
    n = slice v 10 8 → sel = slice v 3 0 →
    ((s.core c).mayFail = false → s.stage (s.ctxOf c) n = none ∨ slice v 63 11 ≠ 0 ∨ slice v 7 4 ≠ 0 ∨ 9 ≤ sel →
      exec (.tquery d a) s = .next (s.trapWith c 3 (s.core c).pc (some ((s.core c).reg a)) {})) ∧
    (s.stage (s.ctxOf c) n = some st → slice v 63 11 = 0 → slice v 7 4 = 0 → sel ≤ 8 →
      exec (.tquery d a) s = .next (s.setCore c (((s.core c).await d (some (BitVec.ofNat 64 (
          if sel ≤ 2 then (st.queues.getD sel []).length else if sel = 3 then st.inflight.length
          else if sel = 4 then ceilDiv ((s.ctx (s.ctxOf c)).residentBytes n) (2 ^ 20) else if sel = 5 then st.nver - st.used.length
          else if sel = 6 then s.windowOf (s.ctxOf c) st else if sel = 7 then st.last
          else ageOf s.now (s.ready (s.ctxOf c) st)), false)) false).advance 4)))

/-- The ends of waits and stalls (04 R76, R85, R88, R91, R404; 95): a released SEMWAIT, ring wait or BWAIT goes on after its word; an unreleased one waits
on; a stall whose reason is gone issues again; an interrupt ends an unreleased SEMWAIT without effect, so that the word executes again. Says that
these complete: SEMWAIT_RELEASE, RING_WAIT_RELEASE, BWAIT_RELEASE, STALLED_ISSUE_RESUME and WAIT_INTERRUPTED. -/
def Claim.WaitsAndStalls : Prop :=
  ∀ (s : State) (c k m : Nat) (v : BitVec 32) (q g : Nat) (full : Bool) (w : BitVec 16), s.who = .device →
    ((s.core c).wait = some ⟨.sem k m v, 4, true⟩ →
      exec (.semwaitRelease c) s = .next (s.setCore c { s.core c with pc := (s.core c).pc + 4, wait := none })) ∧
    ((s.core c).wait = some ⟨.sem k m v, 4, false⟩ → exec (.semwaitRelease c) s = .next s) ∧
    ((s.core c).wait = some ⟨.ring q full, 4, true⟩ →
      exec (.ringWaitRelease c) s = .next (s.setCore c { s.core c with pc := (s.core c).pc + 4, wait := none })) ∧
    ((s.core c).wait = some ⟨.set g w, 4, true⟩ →
      exec (.bwaitRelease c) s = .next (s.setCore c { s.core c with pc := (s.core c).pc + 4, wait := none })) ∧
    ((s.core c).stall = some .checkFull → (s.core c).checked.length < 8 →
      exec (.stalledIssueResume c) s = .next (s.setCore c { s.core c with stall := none })) ∧
    ((s.core c).stall = some .checkFull → 8 ≤ (s.core c).checked.length → exec (.stalledIssueResume c) s = .next s) ∧
    ((s.core c).stall = some .storesFull → (s.core c).storeCount < 8 →
      exec (.stalledIssueResume c) s = .next (s.setCore c { s.core c with stall := none })) ∧
    ((s.core c).wait = some ⟨.sem k m v, 4, false⟩ → ∃ t, exec (.waitInterrupted (.seq c)) s = .next t ∧ (t.core c).wait = none ∧
      (t.core c).pc = (s.core c).pc ∧ (t.core c).regs = (s.core c).regs ∧ (((t.core k).sem m).val = ((s.core k).sem m).val) ∧
      (∀ e ∈ ((t.core k).sem m).waiters, e.1 ≠ .seq c) ∧ t.ms = s.ms)

/-! ### The vector engine: what an elementwise word writes -/

/-- What an elementwise word of one cluster, or of every member of its strand, writes (05 R111, R112), stated for elements of one register and no advance of rounding states: in an
active lane every element that the predicate governs takes the word's result, every other keeps its bits; the register's poison follows the three
cases of R112; every other register of every lane is as it was. -/
def Claim.ElementwiseWrite : Prop :=
  ∀ (w : VCx) (s : State) (flagged : Bool) (p n width : Nat) (pois : Nat → Nat → Bool) (f : ElemFn), w.clustersDiffer → width ∈ [4, 8, 16, 32] →
    ∀ v : VecUnit, v = ((w.writeAs flagged p ⟨fun _ => n, width, 1⟩ pois (fun _ => false) f s).core w.core).vec →
    (∀ l ∈ w.lanes, w.active l = true →
      (∀ k < 32 / width, (v.lane w.st n l).toNat / 2 ^ (width * k) % 2 ^ width =
        if bitAt (w.st.pred p l) k then (f l k (Tbl.get 0 w.st.sr l).toNat).1 % 2 ^ width
        else (w.co.vec.lane w.st n l).toNat / 2 ^ (width * k) % 2 ^ width) ∧
      v.lanePois w.st n l =
        (if (List.range (32 / width)).any (fun k => bitAt (w.st.pred p l) k) then
          pois l 0 || w.st.predPois p l || ((List.range (32 / width)).any (fun k => !bitAt (w.st.pred p l) k) && w.co.vec.lanePois w.st n l)
        else w.co.vec.lanePois w.st n l)) ∧
    (∀ k, (∀ l ∈ w.lanes, w.active l = true → k ≠ w.st.regKey n l) →
      Tbl.get 0 v.regs k = Tbl.get 0 w.co.vec.regs k ∧ NatSet.has v.rpois k = NatSet.has w.co.vec.rpois k)

/-- What a word on whole lanes writes (06 R133, R134): the register of every active lane whose predicate has bit 0 set, with its poison; every other
register is as it was, and so is every strand with its status. -/
def Claim.LaneWrite : Prop :=
  ∀ (w : VCx) (s : State) (p n : Nat) (f : Nat → BitVec 32) (pois : Nat → Bool), w.clustersDiffer →
    ∀ v : VecUnit, v = ((w.writeWord p (fun _ => n) f pois s).core w.core).vec →
    (∀ l ∈ w.lanes, w.active l = true → bitAt (w.st.pred p l) 0 = true →
      v.lane w.st n l = f l ∧ v.lanePois w.st n l = (pois l || w.st.predPois p l)) ∧
    (∀ k, (∀ l ∈ w.lanes, w.active l = true → bitAt (w.st.pred p l) 0 = true → k ≠ w.st.regKey n l) →
      Tbl.get 0 v.regs k = Tbl.get 0 w.co.vec.regs k ∧ NatSet.has v.rpois k = NatSet.has w.co.vec.rpois k) ∧
    v.strands = (s.core w.core).vec.strands

/-- Where a member that waited for nothing stands after its word (06 R131; 10 R219, R220): its slot PC is past the unit, it runs, its strand's starvation
count is zero and the cluster's last choice is the strand's slot, with no yield; registers, predicates, status and memory are those that the word left. -/
def Claim.VectorWordsAdvance : Prop :=
  ∀ (s : State) (w : VCx) (t : Strand), (s.core w.core).strand w.st.uid = some t → t.mode = .live → w.rank < t.members.length →
    w.m.wait = .run →
    ∃ u : Strand, ((s.vecStep w .advance).core w.core).strand w.st.uid = some u ∧
      u = { t.modMember w.rank (fun m => { m with pc := m.pc + BitVec.ofNat 56 w.ulen, wait := .run }) with starve := 0 } ∧
      ((s.vecStep w .advance).core w.core).vec.regs = (s.core w.core).vec.regs ∧ (s.vecStep w .advance).ms = s.ms ∧
      Tbl.get 0 ((s.vecStep w .advance).core w.core).vec.last w.m.cluster = 4 * w.st.age + w.m.slot ∧
      NatSet.has ((s.vecStep w .advance).core w.core).vec.yielded w.m.cluster = false ∧
      ∀ n, n ≠ w.core → (s.vecStep w .advance).core n = s.core n

/-! ### Arithmetic -/

/-- Floating-point arithmetic under FMT 0 to 3 (05 R110, R114, R117; R112, R113): each element is the exact result rounded once under VSH, with its
flags; the register is poisoned by the registers read; a word of another FMT takes an illegal-instruction trap. Says that these complete: FADD, FSUB,
FMUL, FMA, FMS, FNMA, FDIV, FRCP, FRSQ, FSQRT, FEXP2, FLOG2, FABS, FNEG, FCLASS, FMIN and FMAX. -/
def Claim.FloatGroup : Prop :=
  ∀ (s : State) (w : VCx) (p : BitVec 4) (d a b : VReg) (f : FFmt) (rd ra rb : LReg), s.VecIssues w →
    (fpFormat w.fmt = none →
      (∀ e ∈ floatTable, exec (e.1 p d a b) s = .next (s.strandFault w.core w.st.uid w.rank 1 0)) ∧
      (∀ e ∈ floatFunctions, exec (e.1 p d a) s = .next (s.strandFault w.core w.st.uid w.rank 1 0)) ∧
      (∀ e ∈ floatExact, exec (e.1 p d a) s = .next (s.strandFault w.core w.st.uid w.rank 1 0))) ∧
    (fpFormat w.fmt = some f → ∀ n, n = slotRegs f.width → w.reg d n = .ok rd → w.reg a n = .ok ra →
    (w.reg b n = .ok rb → ∀ e ∈ floatTable, exec (e.1 p d a b) s = w.done (w.write p.toNat ⟨rd, f.width, 1⟩
      (fun l _ => w.poisIn ra n l || w.poisIn rb n l || (e.2.1 && w.poisIn rd n l)) (fun _ => w.rnd == 4)
      (fun l k u => (e.2.2 (w.mode == .rdn) (f.value (w.elem rd f.width k l)) (f.value (w.elem ra f.width k l))
        (f.value (w.elem rb f.width k l))).finish f w.mode w.sat u) s)) ∧
    (∀ e ∈ floatFunctions, exec (e.1 p d a) s = w.done (w.write p.toNat ⟨rd, f.width, 1⟩ (fun l _ => w.poisIn ra n l) (fun _ => w.rnd == 4)
      (fun l k u => (e.2 (f.value (w.elem ra f.width k l))).finish f w.mode w.sat u) s)) ∧
    (∀ e ∈ floatExact, exec (e.1 p d a) s = w.done (w.write p.toNat ⟨rd, f.width, 1⟩ (fun l _ => w.poisIn ra n l) (fun _ => false)
      (fun l k _ => e.2 f (w.elem ra f.width k l)) s)) ∧
    (w.reg b n = .ok rb → ∀ mx, exec (if mx then .fmax p d a b else .fmin p d a b) s = w.done (w.write p.toNat ⟨rd, f.width, 1⟩
      (fun l _ => w.poisIn ra n l || w.poisIn rb n l) (fun _ => false)
      (fun l k _ => fMinMax f mx (w.elem ra f.width k l) (w.elem rb f.width k l)) s)))

/-- Rounding (03 R62, R67-R69, R74): an exact result is rounded once, to the spacing of its binade or of the subnormals, under the mode; what lies
above the largest finite value overflows as the table of R69 says, with its flags; UF where it is tiny after rounding and inexact; nothing is flushed. An infinity
and a NaN give their codes; a quotient, root or power cut off at 100 bits or more rounds as the number just above its cut. -/
def Claim.RoundingOnce : Prop :=
  ∀ row ∈ topTable, ∀ (mode : RMode) (sat neg dz inv : Bool) (u : Nat) (e : Int), u < 2 ^ 32 →
    ∀ f sg top, f = row.1 → top = row.2 → sg = (if neg then 2 ^ (f.width - 1) else 0) →
    XVal.finish f mode sat u (.ex ⟨neg, 0, e, false⟩) = (sg, {}) ∧
    (∀ m, m ≠ 0 → ∀ (own q : Int) (n n' : Nat), own = e + Nat.log2 m - f.fbits → q = max own (1 - (f.bias : Int) - f.fbits) →
      RoundsTo mode neg u m e q n → RoundsTo mode neg u m e own n' →
      ∀ r, r = XVal.finish f mode sat u (.ex ⟨neg, m, e, false⟩) →
      (n * 2 ^ (q - top.exp).toNat ≤ top.mant * 2 ^ (top.exp - q).toNat →
        (∃ m' e', f.value r.1 = .fin neg m' e' ∧ m' * 2 ^ (e' - q).toNat = n * 2 ^ (q - e').toNat) ∧
        r.2 = { inx := decide (n * 2 ^ (q - e).toNat ≠ m * 2 ^ (e - q).toNat),
                uf := decide (n * 2 ^ (q - e).toNat ≠ m * 2 ^ (e - q).toNat) &&
                  decide (n' * 2 ^ (own - (1 - (f.bias : Int))).toNat < 2 ^ ((1 - (f.bias : Int)) - own).toNat) }) ∧
      (top.mant * 2 ^ (top.exp - q).toNat < n * 2 ^ (q - top.exp).toNat →
        r = match f.kind, decide (f.width = 8) with
          | .plain, _ => (sg + top.code, { of := true, inx := true, sat := 1 })
          | .e4m3, _ => if sat then (sg + 0x7E, { of := true, inx := true, sat := 1 }) else (0x7F, { of := true, inx := true, nanp := true })
          | .ieee, true => if sat then (sg + 0x7B, { of := true, inx := true, sat := 1 }) else (sg + 0x7C, { of := true, inx := true })
          | .ieee, false => (sg + (match mode with
            | .rtz => top.code
            | .rup => if neg then top.code else top.inf
            | .rdn => if neg then top.inf else top.code
            | _ => top.inf), { of := true, inx := true }))) ∧
    (∀ m, 2 ^ 100 ≤ m → XVal.finish f mode sat u (.ex ⟨neg, m, e, true⟩) = XVal.finish f mode sat u (.ex ⟨neg, 2 * m + 1, e - 1, false⟩)) ∧
    (f.kind = .ieee → f.width ≠ 8 ∨ sat = false → XVal.finish f mode sat u (.inf neg dz) = (sg + top.inf, { dz := dz })) ∧
    (sat = true ∧ f.width = 8 ∨ f.kind = .plain → XVal.finish f mode sat u (.inf neg dz) = (sg + top.code, { of := true, sat := 1, dz := dz })) ∧
    (sat = false → f.kind = .e4m3 → XVal.finish f mode sat u (.inf neg dz) = (0x7F, { of := true, nanp := true, dz := dz })) ∧
    (f.kind ≠ .plain → XVal.finish f mode sat u (.nan inv) = (top.nan, { inv := inv, nanp := true }))

/-- Integer arithmetic, shifts and bitwise words (05 R110, R118): integer formats for arithmetic and shifts, every format for the bitwise words, whose
element width is the format's; a clamped IADDS counts in SATCNT; arithmetic and shifts under another FMT take an illegal-instruction trap. Says that these
complete: IADD, ISUB, IMUL, IMULH, IMAD, IMIN, IMAX, ISHL, ISHR, ISAR, IADDS, IABS, IAND, IOR, IXOR and INOT. -/
def Claim.IntegerGroup : Prop :=
  ∀ (s : State) (w : VCx) (p : BitVec 4) (d a b : VReg) (rd ra rb : LReg), s.VecIssues w →
    (intFormat w.fmt = none →
      (∀ e ∈ intWordTable, exec (e.1 p d a b) s = .next (s.strandFault w.core w.st.uid w.rank 1 0)) ∧
      (∀ e ∈ shiftWords, exec (e.1 p d a b) s = .next (s.strandFault w.core w.st.uid w.rank 1 0)) ∧
      exec (.iadds p d a b) s = .next (s.strandFault w.core w.st.uid w.rank 1 0) ∧
      exec (.iabs p d a) s = .next (s.strandFault w.core w.st.uid w.rank 1 0)) ∧
    (∀ k sg, intFormat w.fmt = some (k, sg) → w.reg d 1 = .ok rd → w.reg a 1 = .ok ra →
      (w.reg b 1 = .ok rb → ∀ e ∈ intWordTable, exec (e.1 p d a b) s = w.done (w.write p.toNat ⟨rd, k, 1⟩
        (fun l _ => w.poisIn ra 1 l || w.poisIn rb 1 l || (e.2.1 && w.poisIn rd 1 l)) (fun _ => false)
        (fun l j _ => ((e.2.2 k (intVal k sg (w.elem rd k j l)) (intVal k sg (w.elem ra k j l)) (intVal k sg (w.elem rb k j l)) % 2 ^ k).toNat, {})) s)) ∧
      (w.reg b 1 = .ok rb → ∀ e ∈ shiftWords, exec (e.1 p d a b) s = w.done (w.write p.toNat ⟨rd, k, 1⟩
        (fun l _ => w.poisIn ra 1 l || w.poisIn rb 1 l) (fun _ => false) (fun l j _ => (e.2 k (w.elem ra k j l) (w.elem rb k j l), {})) s)) ∧
      (w.reg b 1 = .ok rb → exec (.iadds p d a b) s = w.done (w.write p.toNat ⟨rd, k, 1⟩
        (fun l _ => w.poisIn ra 1 l || w.poisIn rb 1 l) (fun _ => false) (fun l j _ =>
          let z := intVal k sg (w.elem ra k j l) + intVal k sg (w.elem rb k j l)
          let lo : Int := if sg then -2 ^ (k - 1) else 0
          let hi : Int := if sg then 2 ^ (k - 1) - 1 else 2 ^ k - 1
          if z < lo then ((lo % 2 ^ k).toNat, { sat := 1 }) else if hi < z then ((hi % 2 ^ k).toNat, { sat := 1 }) else ((z % 2 ^ k).toNat, {})) s)) ∧
      exec (.iabs p d a) s = w.done (w.write p.toNat ⟨rd, k, 1⟩ (fun l _ => w.poisIn ra 1 l) (fun _ => false)
        (fun l j _ => ((intVal k sg (w.elem ra k j l)).natAbs % 2 ^ k, {})) s)) ∧
    (∀ k n, k = fmtWidth w.fmt → n = slotRegs k → w.reg d n = .ok rd → w.reg a n = .ok ra →
      (w.reg b n = .ok rb → ∀ e ∈ bitTable, exec (e.1 p d a b) s = w.done (w.write p.toNat ⟨rd, k, 1⟩
        (fun l _ => w.poisIn ra n l || w.poisIn rb n l) (fun _ => false) (fun l j _ => (e.2 (w.elem ra k j l) (w.elem rb k j l), {})) s)) ∧
      exec (.inot p d a) s = w.done (w.write p.toNat ⟨rd, k, 1⟩ (fun l _ => w.poisIn ra n l) (fun _ => false)
        (fun l j _ => (2 ^ k - 1 - w.elem ra k j l, {})) s))

/-- FCMP and ICMP (05 R116, R119; 02 R55): bit j of pd is the compare of element j where the governing predicate is set, bits from e up become zero;
a compare with a NaN is unordered. Says that these complete: FCMP and ICMP in both condition sets (FCMP_SET1,
FCMP_SET2, ICMP_SET1, ICMP_SET2). -/
def Claim.CompareWords : Prop :=
  ∀ (s : State) (w : VCx) (p pd : BitVec 4) (cc : BitVec 2) (a b : VReg) (ra rb : LReg), s.VecIssues w →
    ∀ (g : Nat → Nat → Bool) (k : Nat), w.reg a (slotRegs k) = .ok ra → w.reg b (slotRegs k) = .ok rb →
    ∀ t : Host.Outcome State Fault Refusal, t = w.done (w.writePred p.toNat pd.toNat (2 ^ perSlot k - 1) (256 - 2 ^ perSlot k)
      (fun l => w.poisIn ra (slotRegs k) l || w.poisIn rb (slotRegs k) l)
      (fun l => ((List.range (perSlot k)).map (fun j => if g (w.elem ra k j l) (w.elem rb k j l) then 2 ^ j else 0)).sum) s) →
    (∀ f, fpFormat w.fmt = some f → k = f.width →
      (g = (fun x y => match cc.toNat, fvCmp (f.value x) (f.value y) with
        | 0, o => o == some .eq | 1, o => o != some .eq | 2, o => o == some .lt | _, o => o == some .lt || o == some .eq) →
        exec (.fcmpSet1 p cc pd a b) s = t) ∧
      (g = (fun x y => match cc.toNat, fvCmp (f.value x) (f.value y) with
        | 0, o => o == some .gt | 1, o => o == some .gt || o == some .eq | 2, o => o.isNone | _, o => o.isSome) →
        exec (.fcmpSet2 p cc pd a b) s = t)) ∧
    (∀ sg, intFormat w.fmt = some (k, sg) →
      (g = (fun x y => match cc.toNat with
        | 0 => x == y | 1 => x != y | 2 => decide (intVal k sg x < intVal k sg y) | _ => decide (intVal k sg x ≤ intVal k sg y)) →
        exec (.icmpSet1 p cc pd a b) s = t) ∧
      (g = (fun x y => match cc.toNat with
        | 0 => decide (intVal k sg y < intVal k sg x) | 1 => decide (intVal k sg y ≤ intVal k sg x) | 2 => decide (x < y) | _ => decide (x ≤ y)) →
        exec (.icmpSet2 p cc pd a b) s = t))

/-- Conversions (05 R120-R122): CVT under VSH.RND, CVTSR under SR whatever VSH holds, element k to element k, positions beyond the common count zero;
PACK narrows and UNPACK widens the elements of a span; a block format, equal or wrongly ordered widths and CVTSR to an integer are illegal. Under SR every element written advances the lane's rounding state (R113). Says
that CVT, CVTSR, PACK and UNPACK complete. -/
def Claim.Conversions : Prop :=
  ∀ (s : State) (w : VCx) (p fmt : BitVec 4) (d a : VReg) (fs fd : NumFmt) (rd ra : LReg), s.VecIssues w →
    (NumFmt.ofCode w.fmt = none ∨ NumFmt.ofCode fmt.toNat = none →
      exec (.cvt p d a fmt) s = .next (s.strandFault w.core w.st.uid w.rank 1 0) ∧
      exec (.pack p d a fmt) s = .next (s.strandFault w.core w.st.uid w.rank 1 0) ∧
      exec (.unpack p d a fmt) s = .next (s.strandFault w.core w.st.uid w.rank 1 0)) ∧
    (6 < fmt.toNat → exec (.cvtsr p d a fmt) s = .next (s.strandFault w.core w.st.uid w.rank 1 0)) ∧
    (NumFmt.ofCode w.fmt = some fs → NumFmt.ofCode fmt.toNat = some fd → ∀ ws wd, ws = fmtWidth w.fmt → wd = fmtWidth fmt.toNat →
    (w.reg d (slotRegs wd) = .ok rd → w.reg a (slotRegs ws) = .ok ra → ∀ (sr : Bool) mode, mode = (if sr then .sr else w.mode) →
      (sr = true → fmt.toNat ≤ 6) →
      exec (if sr then .cvtsr p d a fmt else .cvt p d a fmt) s = w.done (w.write p.toNat ⟨rd, wd, 1⟩
        (fun l _ => w.poisIn ra (slotRegs ws) l)
        (fun _ => mode == .sr && cvtRounds fs fd)
        (fun l k u => if k < min (perSlot ws) (perSlot wd) then cvtElem fs fd (w.fmt == fmt.toNat) mode w.sat u (w.elem ra ws k l) else (0, {})) s)) ∧
    (wd < ws → w.reg d 1 = .ok rd → w.reg a (ws / wd) = .ok ra → exec (.pack p d a fmt) s = w.done (w.write p.toNat ⟨rd, wd, 1⟩
      (fun l _ => w.poisIn ra (ws / wd) l) (fun _ => w.mode == .sr && cvtRounds fs fd)
      (fun l k u => cvtElem fs fd false w.mode w.sat u (w.elem ra ws k l)) s)) ∧
    (ws < wd → w.reg d (wd / ws) = .ok rd → w.reg a 1 = .ok ra → exec (.unpack p d a fmt) s = w.done (w.write p.toNat
      ⟨rd, wd, wd / ws / slotRegs wd⟩ (fun l _ => w.poisIn ra 1 l) (fun _ => w.mode == .sr && cvtRounds fs fd)
      (fun l k u => cvtElem fs fd false w.mode w.sat u (w.elem ra ws k l)) s)) ∧
    (ws ≤ wd → exec (.pack p d a fmt) s = .next (s.strandFault w.core w.st.uid w.rank 1 0)) ∧
    (wd ≤ ws → exec (.unpack p d a fmt) s = .next (s.strandFault w.core w.st.uid w.rank 1 0)))

/-- The block words of a strand with one cluster (05 R123-R128; 03 R65, R66, R70): BAMAX writes each block's largest magnitude to its lane, BSCALE
multiplies each element by its block's scale, QNT writes the codes of each block and, in the register after them, its scale, DQNT the products of codes
and scales; a strand or a format that R123 does not admit is illegal. A BAMAX under SR advances the rounding states of the lanes that it writes: the
model's choice, log entry 81. Says that BAMAX, BSCALE, QNT and DQNT complete. -/
def Claim.BlockWords : Prop :=
  ∀ (s : State) (w : VCx) (p fmt : BitVec 4) (d a b : VReg) (f fe : FFmt) (rd ra rb : LReg), s.VecIssues w →
    (w.blockOk p = true → plainFormat w.fmt = some f → ∀ n regs, n = w.blockElems f.width → regs = n / w.rowElems f.width → w.reg a regs = .ok ra →
      (w.reg d 1 = .ok rd → ∀ rs, rs = (List.range (n / 256)).map (fun b =>
          (blockMax ((upFrom (256 * b) 256).map (fun e => f.value (w.spanElem ra f.width e))), w.blockPois ra f.width n b)) →
        (w.mode ≠ .sr →
          exec (.bamax p d a) s = w.done (s.writeScales w rd (rs.map (fun r => (r.1.1, r.2))) (rs.foldl (fun fl r => fl.or r.1.2) {}))) ∧
        (w.mode = .sr → exec (.bamax p d a) s =
          w.done ((s.writeScales w rd (rs.map (fun r => (r.1.1, r.2))) (rs.foldl (fun fl r => fl.or r.1.2) {})).advanceRounding w n))) ∧
      (w.reg d regs = .ok rd → w.reg b 1 = .ok rb → exec (.bscale p d a b) s = w.done (w.write 0 ⟨rd, f.width, regs⟩
        (fun l _ => w.poisIn ra regs l || (List.range regs).any (fun i => w.rp rb (w.elemNo f.width l (i * perSlot f.width) / 256)))
        (fun _ => w.mode == .sr)
        (fun l k u => dequant f w.mode w.sat u (f.value (w.elem ra f.width k l)) ((w.rl rb (w.elemNo f.width l k / 256)).toNat % 2 ^ 24)) s))) ∧
    (w.blockOk p = true → w.fmt = 1 → blockElem fmt.toNat = some fe → ∀ n plain codes, n = w.blockElems fe.width → plain = n / w.rowElems 32 →
      codes = n / w.rowElems fe.width →
      (w.reg a plain = .ok ra → w.reg d (codes + 1) = .ok rd → ∀ blocks, blocks = (List.range (n / 256)).map (fun b =>
          (blockScale fe ((upFrom (256 * b) 256).map (fun e => FFmt.f32.value (w.spanElem ra 32 e))), w.blockPois ra 32 n b)) →
        exec (.qnt p d a fmt) s = w.done ((w.write 0 ⟨rd, fe.width, codes⟩
          (fun l i => (blocks.getD (w.elemNo fe.width l (i * perSlot fe.width) / 256) ((0, false), false)).2) (fun _ => w.mode == .sr)
          (fun l k u => quant fe w.mode u (blocks.getD (w.elemNo fe.width l k / 256) ((0, false), false)).1.1
            (FFmt.f32.value (w.spanElem ra 32 (w.elemNo fe.width l k)))) s).writeScales w (shiftReg rd codes)
              (blocks.map (fun x => (x.1.1, x.2))) { inv := blocks.any (fun x => x.1.2) })) ∧
      (w.reg a (codes + 1) = .ok ra → w.reg d plain = .ok rd → exec (.dqnt p d a fmt) s = w.done (w.write 0 ⟨rd, 32, plain⟩
        (fun l i => w.blockPois ra fe.width n (w.elemNo 32 l i / 256) || w.rp (shiftReg ra codes) (w.elemNo 32 l i / 256)) (fun _ => w.mode == .sr)
        (fun l k u => dequant .f32 w.mode w.sat u (fe.value (w.spanElem ra fe.width (w.elemNo 32 l k)))
          ((w.rl (shiftReg ra codes) (w.elemNo 32 l k / 256)).toNat % 2 ^ 24)) s))) ∧
    (w.blockOk p = false → plainFormat w.fmt = some f → exec (.bamax p d a) s = .next (s.strandFault w.core w.st.uid w.rank 1 0) ∧
      exec (.bscale p d a b) s = .next (s.strandFault w.core w.st.uid w.rank 1 0)) ∧
    (w.blockOk p = false ∨ w.fmt ≠ 1 ∨ blockElem fmt.toNat = none →
      exec (.qnt p d a fmt) s = .next (s.strandFault w.core w.st.uid w.rank 1 0) ∧
      exec (.dqnt p d a fmt) s = .next (s.strandFault w.core w.st.uid w.rank 1 0))

/-! ### Data words -/

/-- Moves (06 R133): MOV copies bits, a pair under FMT 0, and sets no flag; MOVI its immediate, under FMT 0 to register d alone; MOVX adds the strand
lane number; VGETX writes an index register's halves with its poison; VSETX takes an index register from lane 0 of its cluster.
Says that MOV, MOVI, MOVX, VGETX and VSETX complete. -/
def Claim.Moves : Prop :=
  ∀ (s : State) (w : VCx) (p : BitVec 4) (d a : VReg) (x : BitVec 3) (imm : BitVec 32) (rd ra : LReg), s.VecIssues w →
    (∀ k n, k = fmtWidth w.fmt → n = slotRegs k → w.reg d n = .ok rd → w.reg a n = .ok ra → exec (.mov p d a) s =
      w.done (w.writeAs false p.toNat ⟨rd, k, 1⟩ (fun l _ => w.poisIn ra n l) (fun _ => false) (fun l j _ => (w.elem ra k j l, {})) s)) ∧
    (w.reg d 1 = .ok rd →
      (w.fmt = 0 → exec (.movi p d imm) s = w.done (w.writeWord p.toNat rd (fun _ => imm) (fun _ => false) s)) ∧
      (w.fmt ≠ 0 → exec (.movi p d imm) s = w.done (w.writeAs false p.toNat ⟨rd, fmtWidth w.fmt, 1⟩ (fun _ _ => false) (fun _ => false)
        (fun _ j _ => (imm.toNat / 2 ^ (fmtWidth w.fmt * j) % 2 ^ fmtWidth w.fmt, {})) s)) ∧
      (w.reg a 1 = .ok ra → exec (.movx p d a) s =
        w.done (w.writeWord p.toNat rd (fun l => w.rl ra l + BitVec.ofNat 32 l) (fun l => w.rp ra l) s))) ∧
    (w.reg d 2 = .ok rd → ∀ s1, s1 = w.writeWord p.toNat rd (fun _ => (w.m.xr x.toNat).setWidth 32) (fun _ => w.m.xp x.toNat) s →
      exec (.vgetx p d x) s = w.done ({ w with co := s1.core w.core }.writeWord p.toNat (shiftReg rd 1)
        (fun _ => (w.m.xr x.toNat >>> 32).setWidth 32) (fun _ => w.m.xp x.toNat) s1)) ∧
    (w.reg a 2 = .ok ra → ∀ l, l = 32 * w.rank → w.st.predPois p.toNat l = false →
      (bitAt (w.st.pred p.toNat l) 0 = true → exec (.vsetx p x a) s = w.done (s.modCore w.core (fun co => co.modStrand w.st.uid (fun t =>
        t.modMember w.rank (fun m => m.setX x.toNat (w.rl (shiftReg ra 1) l ++ w.rl ra l) (w.rp ra l || w.rp (shiftReg ra 1) l)))))) ∧
      (bitAt (w.st.pred p.toNat l) 0 = false → exec (.vsetx p x a) s = w.done s))

/-- Permutes and broadcasts (06 R134, R135): within the issuing cluster, whole lanes; XPERM over the strand, here of one cluster, where it acts as
PERM; in a strand of several clusters an XPERM issued by one of them alone is illegal. Says that BCAST, PERM, LSHIFT and XPERM complete. -/
def Claim.Permutes : Prop :=
  ∀ (s : State) (w : VCx) (p : BitVec 4) (d a b : VReg) (lane : BitVec 5) (rd ra rb : LReg), s.VecIssues w →
    w.reg d 1 = .ok rd → w.reg a 1 = .ok ra →
    (exec (.bcast p d a lane) s = w.done (w.writeWord p.toNat rd (fun _ => w.rl ra (32 * w.rank + lane.toNat))
      (fun _ => w.rp ra (32 * w.rank + lane.toNat)) s)) ∧
    (w.reg b 1 = .ok rb →
      (exec (.perm p d a b) s = w.done (w.writeWord p.toNat rd (fun l => w.rl ra (32 * w.rank + (w.rl rb l).toNat % 32))
        (fun l => w.rp ra (32 * w.rank + (w.rl rb l).toNat % 32) || w.rp rb l) s)) ∧
      (∀ sh src, sh = ((w.rl rb (32 * w.rank)).setWidth 6).toInt → src = (fun l : Nat => ((l % 32 : Nat) : Int) - sh) →
        exec (.lshift p d a b) s = w.done (w.writeWord p.toNat rd
          (fun l => if 0 ≤ src l ∧ src l ≤ 31 then w.rl ra (32 * w.rank + (src l).toNat) else 0)
          (fun l => w.rp rb (32 * w.rank) || (decide (0 ≤ src l ∧ src l ≤ 31) && w.rp ra (32 * w.rank + (src l).toNat))) s)) ∧
      (w.st.members.length = 1 → exec (.xperm p d a b) s = w.done (w.writeWord p.toNat rd (fun l => w.rl ra ((w.rl rb l).toNat % 32))
        (fun l => w.rp rb l || w.rp ra ((w.rl rb l).toNat % 32)) s)) ∧
      (w.st.members.length ≠ 1 → exec (.xperm p d a b) s = .next (s.strandFault w.core w.st.uid w.rank 1 0)))

/-- Reductions of a strand of one cluster (06 R136; 03 R72): the tree over the elements that take part, whose result goes to each of them, or to each
the result of those numbered up to it; a NaN result is the canonical one and sets NANP; outside FMT 0-3 and 7-12, and under SR for the sums, illegal. A
lone NaN is made canonical, and an inner pair of NaNs sets NANP: the model's choices, log entries 81 and 98.
Says that REDSUM, REDMAX and SCAN complete. -/
def Claim.Reductions : Prop :=
  ∀ (s : State) (w : VCx) (p : BitVec 4) (d a : VReg) (rd ra : LReg) (mx : Bool) (g : Nat → Nat → Nat × Flags), s.VecIssues w →
    w.st.members.length = 1 → w.rank = 0 →
    (w.combine mx = none ∨ (mx = false ∧ w.rnd = 4) →
      exec (if mx then .redmax p d a else .redsum p d a) s = .next (s.strandFault w.core w.st.uid w.rank 1 0) ∧
      (mx = false → exec (.scan p d a) s = .next (s.strandFault w.core w.st.uid w.rank 1 0))) ∧
    (w.combine mx = some g → (mx = true ∨ w.rnd ≠ 4) →
    ∀ k n e, k = fmtWidth w.fmt → n = slotRegs k → e = perSlot k → w.reg d n = .ok rd → w.reg a n = .ok ra →
    ∀ (vals : List (Option Nat)) (bad : Nat → Bool) (fin : Option Nat × Flags → Nat × Flags),
      fin = (fun r => match fpFormat w.fmt with
        | some f => ((quietNan f (r.1.getD 0) (r.1.getD 0)).1, r.2.or (quietNan f (r.1.getD 0) (r.1.getD 0)).2)
        | none => (r.1.getD 0, r.2)) →
      vals = (List.range (32 * e)).map (fun i => if w.takesPart p.toNat k i then some (w.elem ra k (i % e) (i / e)) else none) →
      bad = (fun i => (List.range (32 * e)).any (fun j => j ≤ i && w.takesPart p.toNat k j && w.poisIn ra n (j / e))) →
    (exec (if mx then .redmax p d a else .redsum p d a) s = w.done (w.write p.toNat ⟨rd, k, 1⟩
      (fun l _ => (List.range e).any (fun j => w.takesPart p.toNat k (l * e + j) && bad (32 * e))) (fun _ => false)
      (fun _ _ _ => fin (treeReduce g (32 * e) vals)) s)) ∧
    (mx = false → exec (.scan p d a) s = w.done (w.write p.toNat ⟨rd, k, 1⟩
      (fun l _ => (List.range e).any (fun j => w.takesPart p.toNat k (l * e + j) && bad (l * e + j))) (fun _ => false)
      (fun l j _ => fin (treeReduce g (32 * e) (vals.mapIdx (fun i v => if i ≤ l * e + j then v else none)))) s)))

/-- The words that act over a strand of several clusters when every member issues the same in a synced bundle (06 R135, R136, R143): XPERM takes its
lanes from the whole strand, a selector counting modulo 128 and one past the strand giving zero; REDSUM, REDMAX and SCAN run their tree over all its elements,
all members' FMT and RND alike, else illegal; VBR tests the active lanes of every member. -/
def Claim.JointWords : Prop :=
  ∀ (s : State) (w : VCx) (p : BitVec 4) (d a b : VReg) (cond : BitVec 2) (off : BitVec 18) (rd ra rb : LReg), w.joint = true →
    1 < w.st.members.length →
    (w.reg d 1 = .ok rd → w.reg a 1 = .ok ra → w.reg b 1 = .ok rb → ∀ n src, n = 32 * w.st.members.length →
      src = (fun l => (w.rl rb l).toNat % 128) →
      w.run none (some (.xperm p d a b)) s = .ok (w.writeWord p.toNat rd (fun l => if src l < n then w.rl ra (src l) else 0)
        (fun l => w.rp rb l || (decide (src l < n) && w.rp ra (src l))) s, .advance)) ∧
    (∀ (mx : Bool) (g : Nat → Nat → Nat × Flags), w.combine mx = some g → (mx = true ∨ w.rnd ≠ 4) →
      ((∃ m ∈ w.st.members, m.vsh.toNat % 16 ≠ w.fmt ∨ slice m.vsh.toNat 6 4 ≠ w.rnd) →
        w.run none (some (if mx then .redmax p d a else .redsum p d a)) s = .error .illegal ∧
        (mx = false → w.run none (some (.scan p d a)) s = .error .illegal)) ∧
      ((∀ m ∈ w.st.members, m.vsh.toNat % 16 = w.fmt ∧ slice m.vsh.toNat 6 4 = w.rnd) →
      ∀ k n e N, k = fmtWidth w.fmt → n = slotRegs k → e = perSlot k → N = 32 * w.st.members.length * e → w.reg d n = .ok rd → w.reg a n = .ok ra →
      ∀ (vals : List (Option Nat)) (bad : Nat → Bool) (fin : Option Nat × Flags → Nat × Flags),
        fin = (fun r => match fpFormat w.fmt with
          | some f => ((quietNan f (r.1.getD 0) (r.1.getD 0)).1, r.2.or (quietNan f (r.1.getD 0) (r.1.getD 0)).2)
          | none => (r.1.getD 0, r.2)) →
        vals = (List.range N).map (fun i => if w.takesPart p.toNat k i then some (w.elem ra k (i % e) (i / e)) else none) →
        bad = (fun i => (List.range N).any (fun j => j ≤ i && w.takesPart p.toNat k j && w.poisIn ra n (j / e))) →
        w.run none (some (if mx then .redmax p d a else .redsum p d a)) s = .ok (w.write p.toNat ⟨rd, k, 1⟩
          (fun l _ => (List.range e).any (fun j => w.takesPart p.toNat k (l * e + j) && bad N)) (fun _ => false)
          (fun _ _ _ => fin (treeReduce g N vals)) s, .advance) ∧
        (mx = false → w.run none (some (.scan p d a)) s = .ok (w.write p.toNat ⟨rd, k, 1⟩
          (fun l _ => (List.range e).any (fun j => w.takesPart p.toNat k (l * e + j) && bad (l * e + j))) (fun _ => false)
          (fun l j _ => fin (treeReduce g N (vals.mapIdx (fun i v => if i ≤ l * e + j then v else none)))) s, .advance)))) ∧
    (∀ ls, ls = (upFrom 0 (32 * w.st.members.length)).filter w.active → (∀ l ∈ ls, w.st.predPois p.toNat l = false) →
      ∀ bits : List Bool, bits = (ls.map (fun l => (List.range (perSlot (fmtWidth ((w.st.members.map (fun m => m.vsh.toNat % 16)).getD (l / 32) 1)))).map
        (fun j => bitAt (w.st.pred p.toNat l) j))).flatten →
      ∃ v, w.run none (some (.vbr p cond off)) s = .ok (s, v) ∧
        v = if (match cond.toNat with | 0 => bits.any id | 1 => bits.all id | _ => !bits.any id) = true then
          .goto (w.m.pc + BitVec.ofNat 56 (w.ulen - 16) + 16 * off.signExtend 56) else .advance)

/-- Predicate words (06 R141): bit j of pd in every active lane where bit j of P is set; PANY and PCNT count the bits j < e of pa over the active lanes
of the cluster and write every active lane whose P has bit 0 set. Says that PSET, PAND, POR, PXOR, PNOT, PANY and PCNT complete. -/
def Claim.PredicateWords : Prop :=
  ∀ (s : State) (w : VCx) (p pd pa pb : BitVec 4) (imm : BitVec 8) (d : VReg) (rd : LReg), s.VecIssues w →
    exec (.pset p pd imm) s = w.done (w.writePred p.toNat pd.toNat 255 0 (fun _ => false) (fun _ => imm.toNat) s) ∧
    (∀ e ∈ ([(.pand, (· &&& ·)), (.por, (· ||| ·)), (.pxor, (· ^^^ ·))] : List ((BitVec 4 → BitVec 4 → BitVec 4 → BitVec 4 → Instr) × (Nat → Nat → Nat))),
      exec (e.1 p pd pa pb) s = w.done (w.writePred p.toNat pd.toNat 255 0 (fun l => w.st.predPois pa.toNat l || w.st.predPois pb.toNat l)
        (fun l => e.2 (w.st.pred pa.toNat l) (w.st.pred pb.toNat l)) s)) ∧
    exec (.pnot p pd pa) s = w.done (w.writePred p.toNat pd.toNat 255 0 (fun l => w.st.predPois pa.toNat l)
      (fun l => 255 - w.st.pred pa.toNat l) s) ∧
    (w.reg d 1 = .ok rd → ∀ n bad, n = ((upFrom (32 * w.rank) 32).map (fun l => if w.active l then
        ((List.range (perSlot (fmtWidth w.fmt))).filter (fun j => bitAt (w.st.pred pa.toNat l) j)).length else 0)).sum →
      bad = (upFrom (32 * w.rank) 32).any (fun l => w.active l && w.st.predPois pa.toNat l) →
      exec (.pany p d pa) s = w.done (w.writeWord p.toNat rd (fun _ => if n = 0 then 0 else 1) (fun _ => bad) s) ∧
      exec (.pcnt p d pa) s = w.done (w.writeWord p.toNat rd (fun _ => BitVec.ofNat 32 n) (fun _ => bad) s))

/-- What a predicate write leaves (05 R112, R116; 06 R141), for a word of one cluster and pd other than p0: governed bits take the word's, the bits to
clear become zero unless governed, others stay; the lane's poison follows R112; inactive lanes and other predicates keep every bit. -/
def Claim.PredicateWrite : Prop :=
  ∀ (w : VCx) (s : State) (p pd mask clr : Nat) (pois : Nat → Bool) (f : Nat → Nat), w.joint = false →
    0 < pd → pd < 16 → mask < 256 → w.st.members.length ≤ 4 → (s.core w.core).strand w.st.uid = some w.st →
    ∀ u : Strand, ((w.writePred p pd mask clr pois f s).core w.core).strand w.st.uid = some u →
    (∀ l ∈ w.lanes, w.active l = true → l < 128 → (∀ j < 8,
        bitAt (u.pred pd l) j = if bitAt (w.st.pred p l &&& mask) j then bitAt (f l) j else bitAt (w.st.pred pd l) j && !bitAt clr j) ∧
      u.predPois pd l = (if w.st.pred p l &&& mask = 0 then w.st.predPois pd l
        else pois l || w.st.predPois p l || ((w.st.pred p l &&& mask) != mask && w.st.predPois pd l))) ∧
    (∀ q l, l < 128 → q < 16 → (q ≠ pd ∨ l ∉ w.lanes ∨ w.active l = false) → u.pred q l = w.st.pred q l ∧ u.predPois q l = w.st.predPois q l)

/-! ### Loads and stores of strands -/

/-- The lane addresses of the three load and store forms (06 R137): disp counts 128-byte lines, the stride and the offsets are signed. -/
def Claim.LaneAddresses : Prop :=
  ∀ (w : VCx) (xa xb : BitVec 3) (disp : BitVec 30) (b : VReg) (rb : LReg), w.m.xp xa.toNat = false →
    (∃ f, vldAddr xa disp w = .ok f ∧ ∀ l, f l = w.m.xr xa.toNat + 128 * disp.signExtend 64 + BitVec.ofNat 64 (4 * l)) ∧
    (w.m.xp xb.toNat = false → ∃ f, vldsAddr xa xb w = .ok f ∧ ∀ l, f l = w.m.xr xa.toNat + BitVec.ofNat 64 l * w.m.xr xb.toNat) ∧
    (w.reg b 1 = .ok rb → ∃ f, vldxAddr xa b w = .ok f ∧ ∀ l, f l = w.m.xr xa.toNat + (w.rl rb l).signExtend 64)

/-- Loads of strands (06 R138-R140; 10 R216, R217): the active lanes whose predicate has bit 0 set load 4 bytes each at one point, and the register
awaits them; .f and .fe want every touched line full and take what filled it, .fe empties them in the same step, once no store of the cluster is still to
fill them; while a line is not full the member waits, with its place in the order. A load behind a store that has no place in the order yet stalls (log
entry 6); the stall of a .fe load behind its cluster's own .sf store is the model's choice (log entry 100). Says that VLD, VLDS and VLDX complete: plain, and .f and .fe with
their lines full. -/
def Claim.StrandLoads : Prop :=
  ∀ (s : State) (w : VCx) (p : BitVec 4) (mode : LoadMode) (d b : VReg) (xa xb : BitVec 3) (disp : BitVec 30) (rd : LReg) (f : Nat → BitVec 64)
    (i : Instr) (accs : List LaneAcc), s.VecIssues w → w.reg d 1 = .ok rd → (∀ l ∈ w.lanes, w.active l = true → w.st.predPois p.toNat l = false) →
    (i = .vld p mode d xa disp ∧ vldAddr xa disp w = .ok f ∧
        (mode ≠ .plain → (w.m.xr xa.toNat + 128 * disp.signExtend 64).toNat % 128 = 0) ∨
      i = .vlds p mode d xa xb ∧ vldsAddr xa xb w = .ok f ∨
      i = .vldx p mode d xa b ∧ vldxAddr xa b w = .ok f ∧ ∀ a ∈ accs, offsetPois b w a.lane = false) →
    accs.map (fun a => (a.lane, a.va)) = ((w.lanes.filter (fun l => w.active l && bitAt (w.st.pred p.toNat l) 0)).map (fun l => (l, (f l).toNat))) →
    (∀ a ∈ accs, a.ok (s.ctx (s.ctxOf w.core)) false) → (mode ≠ .plain → ∀ a ∈ accs, isSram a.place.key = true) →
    (w.behind s accs = true → exec i s = .next s) ∧
    (w.behind s accs = false → mode = .plain → exec i s = w.done (s.loadLanes w rd accs)) ∧
    (mode = .fe → w.filling (touchedLines accs) = true → exec i s = .next s) ∧
    (w.behind s accs = false → mode ≠ .plain → (mode = .fe → w.filling (touchedLines accs) = false) → s.linesReady (touchedLines accs) none = true →
      exec i s = w.done ((s.takeLines w.agent mode (touchedLines accs)).loadLanes w rd accs)) ∧
    (w.behind s accs = false → mode ≠ .plain → (mode = .fe → w.filling (touchedLines accs) = false) → s.linesReady (touchedLines accs) none = false →
      exec i s = .next (({ s with uid := s.uid + 1 } : State).vecStep w (.wait (.full (touchedLines accs) (s.uid + 1) false))))

/-- The data of a strand's load come back (10 R217): the lanes that loaded take their values and the poison of their lines, and the register awaits
nothing of that load any more. Says that LOAD_DATA_RETURN completes for a member's register. -/
def Claim.StrandLoadData : Prop :=
  ∀ (s : State) (c u r reg : Nat) (l : VecLoad), s.who = .device →
    (s.core c).vec.pend.filter (fun l => l.strand == u && l.rank == r && l.reg == reg) = [l] →
    exec (.loadDataReturn (.cluster c u r reg)) s = .next (s.modCore c (fun co => { co with vec := { co.vec with
      regs := l.vals.foldl (fun t e => Tbl.set 0 t e.1 e.2.1) co.vec.regs
      rpois := l.vals.foldl (fun t e => NatSet.mark t e.1 e.2.2) co.vec.rpois
      pend := co.vec.pend.filter (fun l => !(l.strand == u && l.rank == r && l.reg == reg)) } }))

/-- Stores of strands (06 R138-R140; 15 R288; 24 R405), inside a task with the flip regions that they mark: each accessing lane stores its register, in
ascending lane order, so that the higher-numbered lane's bytes stand; the store is pending, .sf with the lines that it marks full when performed, behind
the engine writes there that its command acquired; a ninth pending store stalls. Says that VST, VSTS and VSTX complete, plain and .sf. -/
def Claim.StrandStores : Prop :=
  ∀ (s : State) (w : VCx) (p : BitVec 4) (mode : StoreMode) (d b : VReg) (xa xb : BitVec 3) (disp : BitVec 30) (rd : LReg) (f : Nat → BitVec 64)
    (i : Instr) (accs : List LaneAcc) (x : Ctx), s.VecIssues w → w.reg d 1 = .ok rd →
    (s.ctx (s.ctxOf w.core)).markAll w.task (accs.map (·.va)) = some x →
    (∀ l ∈ w.lanes, w.active l = true → w.st.predPois p.toNat l = false) →
    (i = .vst p mode d xa disp ∧ vldAddr xa disp w = .ok f ∧
        (mode = .sf → (w.m.xr xa.toNat + 128 * disp.signExtend 64).toNat % 128 = 0) ∨
      i = .vsts p mode d xa xb ∧ vldsAddr xa xb w = .ok f ∨
      i = .vstx p mode d xa b ∧ vldxAddr xa b w = .ok f ∧ ∀ a ∈ accs, offsetPois b w a.lane = false) →
    accs.map (fun a => (a.lane, a.va)) = ((w.lanes.filter (fun l => w.active l && bitAt (w.st.pred p.toNat l) 0)).map (fun l => (l, (f l).toNat))) →
    (∀ a ∈ accs, a.ok (s.ctx (s.ctxOf w.core)) w.task.isSome ∧ w.rp rd a.lane = false) → (mode = .sf → ∀ a ∈ accs, isSram a.place.key = true) →
    (8 ≤ (Tbl.get [] w.co.vec.stores w.m.cluster).length → exec i s = .next s) ∧
    ((Tbl.get [] w.co.vec.stores w.m.cluster).length < 8 →
      ∀ writes t, writes = accs.map (fun a => (a.place, leBytes (w.rl rd a.lane).toNat 4)) →
      t = (s.setCtx (s.ctxOf w.core) x).acquireWhere w.agent (fun e => w.st.acq.contains e.uid &&
        ((accs.map (fun a => unitsOf a.place.key 4)).flatten).contains (e.place.key / 8)) →
      exec i s = w.done (if accs = [] then t else t.addStore (.cluster w.core w.m.cluster)
        ⟨touchedLines accs, accs.any (fun a => isRemote a.place.key), mode == .sf, w.st.uid, w.rank, 0, writes, false, false⟩))

/-- VSTM (06 R137, R140): the cluster's line of stage SRAM becomes empty when bit 0 of the predicate of its lane 0 is set, and no data is written; it
waits for a store of the cluster that is still to fill that line (log entry 100) or has no place in the order yet (log entry 6); a line elsewhere is a program error, an untranslated one a fatal context error. Says
that VSTM completes. -/
def Claim.StrandEmptiesItsLine : Prop :=
  ∀ (s : State) (w : VCx) (p : BitVec 4) (xa : BitVec 3) (disp : BitVec 6) (va : Nat), s.VecIssues w → w.m.xp xa.toNat = false →
    w.st.predPois p.toNat (32 * w.rank) = false → va = (w.m.xr xa.toNat + 128 * disp.signExtend 64 + BitVec.ofNat 64 (128 * w.rank)).toNat →
    (bitAt (w.st.pred p.toNat (32 * w.rank)) 0 = false → exec (.vstm p xa disp) s = w.done s) ∧
    (bitAt (w.st.pred p.toNat (32 * w.rank)) 0 = true →
      ((s.ctx (s.ctxOf w.core)).place w.task.isSome va = none → exec (.vstm p xa disp) s = .next (s.strandLoss w.core w.rank 12 va [])) ∧
      ∀ pl, (s.ctx (s.ctxOf w.core)).place w.task.isSome va = some pl →
        (isSram pl.key = true → w.filling [lineOf pl.key] = false → s.unplaced w.agent = false →
          exec (.vstm p xa disp) s = w.done { s with ms := s.ms.setFull (lineOf pl.key) false [] }) ∧
        (isSram pl.key = true → w.filling [lineOf pl.key] = true ∨ s.unplaced w.agent = true → exec (.vstm p xa disp) s = .next s) ∧
        (isSram pl.key = false → exec (.vstm p xa disp) s = .next (s.strandFault w.core w.st.uid w.rank 3 va)))

/-! ### Control of strands -/

/-- Branches and the words without operands (06 R143, R145, R148; 02 R55): each target is the bundle's address plus 16 × the offset; VBR tests the elements
of its cluster's active lanes; VEXIT waits at the exit join; VYIELD only lowers the priority. Says that VBR, VJMP, VTSTW, VYIELD,
VNOP and VEXIT complete. -/
def Claim.StrandControl : Prop :=
  ∀ (s : State) (w : VCx) (p : BitVec 4) (cond : BitVec 2) (off : BitVec 18) (bit : BitVec 6) (off12 : BitVec 12), s.VecIssues w →
    ((∀ l ∈ w.lanes, w.active l = true → w.st.predPois p.toNat l = false) → ∀ set : Nat → Nat → Bool,
      set = (fun l j => bitAt (w.st.pred p.toNat l) j) → ∀ any all, any = (w.lanes.filter w.active).any (fun l => (List.range (perSlot (fmtWidth w.fmt))).any (set l)) →
      all = (w.lanes.filter w.active).all (fun l => (List.range (perSlot (fmtWidth w.fmt))).all (set l)) →
      exec (.vbr p cond off) s = .next (s.vecStep w
        (if (match cond.toNat with | 0 => any | 1 => all | _ => !any) = true then .goto (w.m.pc + 16 * off.signExtend 56) else .advance))) ∧
    exec (.vjmp off) s = .next (s.vecStep w (.goto (w.m.pc + 16 * off.signExtend 56))) ∧
    exec (.vtstw bit off12) s = .next (s.vecStep w
      (if w.st.status.getLsbD bit.toNat then .goto (w.m.pc + 16 * off12.signExtend 56) else .advance)) ∧
    exec .vyield s = .next (s.vecStep w .yield) ∧ exec .vnop s = w.done s ∧ exec .vexit s = .next (s.vecStep w (.wait .exit))

/-- VWAIT (06 R147; 13 R252, R257): with m ≥ x[b][31:0] the member goes on and observes the commands whose SADD reached the semaphore; else it
waits among the semaphore's waiters in arrival order; it stalls behind a store of its cluster that has no place in the order yet (log entry 6). Says that
VWAIT completes. -/
def Claim.StrandWait : Prop :=
  ∀ (s : State) (w : VCx) (m : BitVec 9) (xb : BitVec 3) (v : BitVec 32), s.VecIssues w → w.m.xp xb.toNat = false →
    v = (w.m.xr xb.toNat).setWidth 32 → ∀ t : State, t = s.stampLoad (.cluster w.core w.st.uid w.rank) (.sem w.core m.toNat) →
    (s.unplaced w.agent = true → exec (.vwait m xb) s = .next s) ∧
    (s.unplaced w.agent = false → v.toNat ≤ (w.co.sem m.toNat).val.toNat →
      exec (.vwait m xb) s = w.done (t.observes (.cluster w.core w.st.uid w.rank) (w.co.sem m.toNat).rel)) ∧
    (s.unplaced w.agent = false → (w.co.sem m.toNat).val.toNat < v.toNat → exec (.vwait m xb) s = .next ((t.modCore w.core (fun co => co.setSem m.toNat
      { co.sem m.toNat with waiters := (co.sem m.toNat).waiters ++ [(.cluster w.core w.st.uid w.rank, v)] })).vecStep w
        (.wait (.sem w.core m.toNat false false (w.m.pc + 16)))))

/-- VSETSH (05 R109): the operand writes FMT, RND, SAT (inverted) and LNM1 of the issuing cluster's copy alone; under bit 13 it writes SEED and seeds the
cluster's rounding states; RND 5 to 7, and under Q = 1 a non-zero xa[63:24], are illegal. Says that VSETSH_IMM and VSETSH_X complete, both
forms. -/
def Claim.ShapeWrite : Prop :=
  ∀ (s : State) (w : VCx) (op : BitVec 24) (xa : BitVec 3) (i : Instr), s.VecIssues w →
    (w.m.xp xa.toNat = false → 2 ^ 24 ≤ (w.m.xr xa.toNat).toNat → exec (.vsetshX xa) s = .next (s.strandFault w.core w.st.uid w.rank 1 0)) ∧
    ((i = .vsetshImm op ∨ i = .vsetshX xa ∧ w.m.xp xa.toNat = false ∧ w.m.xr xa.toNat = op.zeroExtend 64) →
    (4 < slice op.toNat 6 4 → exec i s = .next (s.strandFault w.core w.st.uid w.rank 1 0)) ∧
    (∀ seed v, slice op.toNat 6 4 ≤ 4 → seed = (if bitAt op.toNat 13 then slice op.toNat 23 14 else slice w.m.vsh.toNat 23 14) →
      v = BitVec.ofNat 24 (seed * 2 ^ 14 + slice op.toNat 12 8 * 2 ^ 8 + (if bitAt op.toNat 7 then 0 else 2 ^ 7) + slice op.toNat 6 0) →
      exec i s = w.done (s.modCore w.core (fun co => co.modStrand w.st.uid (fun t =>
        { t.modMember w.rank (fun m => { m with vsh := v }) with
          sr := if bitAt op.toNat 13 then (upFrom (32 * w.rank) 32).foldl (fun sr l => Tbl.set 0 sr l (BitVec.ofNat 32 (srSeed seed l))) t.sr else t.sr })))))

/-- A prefix issues with the bundle that it prefixes (02 R51-R53): in an unsynced bundle the member's word runs with its prefixes, and its slot PC moves
past the whole unit; a prefix word that does not stand at the slot PC is illegal. Says that VPFXR and VPFXI complete with the word they prefix. -/
def Claim.VectorPrefixes : Prop :=
  ∀ (s s0 s1 : State) (w w1 : VCx) (e : Bool) (dh ah bh : BitVec 4) (imm : BitVec 24) (b own : Nat) (u : VUnit) (i : Instr) (op : VOp) (pre : Instr),
    s.VecIssues w → s.fetchBundle w.core w.st.uid w.m.pc.toNat = .bytes b s0 →
    (pre = .vpfxr e dh ah bh ∧ own = 2 ^ 31 + 0x7F * 2 ^ 24 + e.toNat * 2 ^ 23 + dh.toNat * 2 ^ 8 + ah.toNat * 2 ^ 4 + bh.toNat ∨
      pre = .vpfxi imm ∧ own = 0x7F * 2 ^ 24 + imm.toNat) →
    (b / 2 ^ (32 * w.m.cluster) % 2 ^ 32 ≠ own → exec pre s = .next (s.strandFault w.core w.st.uid w.rank 1 0)) ∧
    (b / 2 ^ (32 * w.m.cluster) % 2 ^ 32 = own → s.unitOf w.core w.st.uid w.m.pc = .ok (u, s1) →
      u.joins w.st = false → s1.vcx w.core w.st.uid w.rank (16 * (u.pfx.length + 1)) false false = some w1 → w1.m = w.m →
      u.instr w.m.cluster = some i → vecOp none i = some op → (∀ e, op w1 s1 = .error e → e ≠ .stall) →
      exec pre s = .next (s1.vecFinish w1 (op w1 s1)))

/-! ### Strands: creation, iterations, joins -/

/-- The start of an iteration (06 R142; 08 R186; 24 R382), for a strand whose command began at iteration `first`: every lane's p12-p15 are ones where
k < D and first ≤ i − k < N, else zeros, and clean; x0-x2 hold the
stream addresses; every member stands at the body and runs; other predicates, index registers and VSH are as they were. -/
def Claim.IterationStart : Prop :=
  ∀ (t : Strand) (k : Cmd) (i : Nat), t.mode = .live → t.members.length ≤ 4 →
    (t.begin k i).iter = i ∧
    (∀ st < 4, ∀ l < 32 * t.members.length,
      (t.begin k i).pred (12 + st) l = (if st < t.d ∧ t.first + st ≤ i ∧ i < t.n + st then 255 else 0) ∧ (t.begin k i).predPois (12 + st) l = false) ∧
    (∀ q < 12, ∀ l < 128, (t.begin k i).pred q l = t.pred q l ∧ (t.begin k i).predPois q l = t.predPois q l) ∧
    (t.begin k i).members.length = t.members.length ∧
    (∀ (r : Nat) (m m' : Member), t.members[r]? = some m → (t.begin k i).members[r]? = some m' →
      m'.pc = BitVec.ofNat 56 k.bodyAddr ∧ m'.wait = .run ∧ m'.vsh = m.vsh ∧ m'.cluster = m.cluster ∧
      (∀ st < 3, m'.xr st = BitVec.ofNat 64 (k.addr st i % 2 ^ 56).toNat ∧ m'.xp st = false) ∧
      (∀ n, 3 ≤ n → m'.xr n = m.xr n ∧ m'.xp n = m.xp n)) ∧
    (t.begin k i).sr = t.sr ∧ (t.begin k i).status = t.status

/-- Strand creation (10 R213; 05 R108; 06 R130, R132, R146; 08 R190; 24 R383): the oldest command in stage 3 without a strand gets one, younger than every other, as
soon as every cluster it names has a free slot and no window overlaps; it has what its command acquired and, in its registers, what those commands landed; it
enters its set and begins its iteration. A first strand has VSH at 0x1F81, predicates and index registers zero; one that resumes a drained command has the
state saved (log entry 57). Says that STRAND_CREATE completes. -/
def Claim.StrandCreation : Prop :=
  ∀ (s : State) (c : Nat) (k : Cmd), s.who = .device → (s.queue (.core c 0)).cmds.find? (fun k => k.stage == 3 && (s.core c).lacksStrand k) = some k →
    (s.core c).vecLive = true → (s.queue (.core c 0)).stop = false → (s.queue (.core c 0)).pre = false → k.fault = false →
    ∀ v t, v = { (s.core c).vec with strands := (s.core c).vec.strands.filter (fun t => t.uid != k.uid) } → t = v.create k →
    (v.admits k = false → exec (.strandCreate c) s = .next s) ∧
    (v.admits k = true →
      (∀ m ∈ t.members, m.pc = BitVec.ofNat 56 k.bodyAddr ∧ m.wait = .run ∧ bitAt k.cl m.cluster = true) ∧
      t.age = v.born + 1 ∧ t.acq = k.acq ∧ t.set = (if k.sete then some k.setg else none) ∧ t.status = k.status ∧ t.iter = k.iter ∧
      (k.kept = none →
        (∀ m ∈ t.members, m.vsh = 0x1F81 ∧ ∀ n, 3 ≤ n → m.xr n = 0 ∧ m.xp n = false) ∧
        (∀ q l, 0 < q → q < 12 → l < 128 → t.pred q l = 0 ∧ t.predPois q l = false) ∧
        ∀ l < 32 * t.members.length, Tbl.get 0 t.sr l = BitVec.ofNat 32 (srSeed 0 l)) ∧
      (∀ r, k.kept = some r → t.sr = r.sr ∧
        (∀ q l, 0 < q → q < 12 → l < 128 → t.pred q l = (Tbl.get 0 r.preds (128 * q + l)).toNat ∧ t.predPois q l = NatSet.has r.ppois (128 * q + l)) ∧
        ∀ (i : Nat) (m : Member) (e : Tbl (BitVec 64) × NatSet × BitVec 24), t.members[i]? = some m → r.members[i]? = some e → m.vsh = e.2.2 ∧
          ∀ n, 3 ≤ n → m.xr n = Tbl.get 0 e.1 n ∧ m.xp n = NatSet.has e.2.1 n) ∧
      ∀ s1, s1 = (List.range t.members.length).foldl (fun s r => s.reachPts (.cluster c k.uid r) k.pts)
          (s.setCore c ({ s.core c with vec := { v with strands := v.strands ++ [t], born := v.born + 1 } }.landNow (fun l => k.acq.contains l.uid))) →
        (k.sete = false → exec (.strandCreate c) s = .next s1) ∧
        (k.sete = true → exec (.strandCreate c) s = .next (s1.joinSet (s1.ctxOf c) k.setg (.strand c k.uid))))

/-- The exit join (06 R145, R142; 24 R381): when every member of a strand has executed VEXIT, the next iteration begins, or after iteration N + D − 2
the strand ends: its slots are free, its set is left, its status is its command's; one that drains stops at its boundary, and its command resumes there
with the state of R130 that the strand had (24 R383; log entry 57).
Says that VEXIT_JOIN completes. -/
def Claim.ExitJoin : Prop :=
  ∀ (s : State) (c u : Nat) (t : Strand) (k : Cmd), s.who = .device → (s.core c).strand u = some t → (s.core c).command u = some k →
    (s.core c).vecLive = true → t.runs = true →
    ((∃ m ∈ t.members, m.wait ≠ .exit) → exec (.vexitJoin c u) s = .next s) ∧
    ((∀ m ∈ t.members, m.wait = .exit) →
      (t.iter < t.n + t.d - 2 → (∀ lo hi, t.mode = .draining lo hi → t.iter < hi) →
        exec (.vexitJoin c u) s = .next (s.modCore c (fun co => co.modStrand u (fun t => t.begin k (t.iter + 1))))) ∧
      (∀ lo hi h, t.iter < t.n + t.d - 2 → t.mode = .draining lo hi → hi ≤ t.iter →
        h = StrandRegs.mk t.preds t.ppois t.sr (t.members.map (fun m => (m.x, m.xpois, m.vsh))) → exec (.vexitJoin c u) s =
        .next ((s.modCmd (.core c 0) t.uid (fun k => { k with iter := lo, status := t.status, part := true, kept := some h })).modCore c
          (fun co => co.modStrand t.uid (fun t => { t with mode := .drained })))) ∧
      (t.n + t.d - 2 ≤ t.iter → exec (.vexitJoin c u) s = .next ((s.modCmd (.core c 0) t.uid (fun k =>
        { k with stage := 4, iter := t.iter + 1, status := t.status, part := false })).dropStrand c t.uid)))

/-- A synced bundle issues once, when every member waits at it (06 R144, R139, R147): each member's own word in ascending rank, or one word over the
strand when all execute the same cross-cluster word; a word that traps stops the bundle before any of them, one that stalls holds it; where a line is not
full, all begin to wait; while the virtual cycle counter pauses, none issues. The event gives the strand's clusters a cycle, in which a strand alone on its core
issues its bundle. Says that SYNC_BUNDLE_JOIN completes. -/
def Claim.SyncBundleJoin : Prop :=
  ∀ (s s1 s2 : State) (c u : Nat) (t : Strand), s.who = .device → (s.core c).strand u = some t →
    (t.joinPc = none → s.tryBundle c u = none ∧ exec (.syncBundleJoin c u) s = .next s) ∧
    (t.joinPc.isSome = true → exec (.syncBundleJoin c u) s = .next (s.cycleIn c (t.members.map (·.cluster)))) ∧
    (t.joinPc.isSome = true → (s.core c).vec.strands = [t] → (∀ m ∈ t.members, m.cluster < 4) → s.tryBundle c u = some s1 →
      exec (.syncBundleJoin c u) s = .next (s1.modVec c (fun v => v.vccOn 1))) ∧
    ((s.core c).vec.vccPaused = true → s.tryBundle c u = none) ∧
    (∀ pc un, t.joinPc = some pc → (s.core c).vecLive = true → t.runs = true → (s.core c).vec.vccPaused = false → s.unitOf c u pc = .ok (un, s1) →
      (∀ i w v, (∀ m ∈ t.members, un.instr m.cluster = some i) → crossWord i = true → s1.vcx c u 0 un.len true true = some w →
        w.run none (some i) s1 = .ok (s2, v) →
        s.tryBundle c u = some ((s2.stepAll c u un.len v t.members.length).checkSync c u 0)) ∧
      ((∀ i, (∀ m ∈ t.members, un.instr m.cluster = some i) → crossWord i = false) →
        (∀ ws, s1.runMembers c u un t.status (List.range t.members.length) = .ok (s2, ws) → s.tryBundle c u = some
          (if ws = [] then ((s2.scheduleLoads s1 c u un).completeJoint c u).checkSync c u 0
            else (({ s1 with uid := s1.uid + 1 } : State).beginWaits c u (s1.uid + 1) un (List.range t.members.length)).checkSync c u 0)) ∧
        (∀ r e, s1.runMembers c u un t.status (List.range t.members.length) = .error (r, e) →
          s.tryBundle c u = if e = .stall then none else some (s1.vecTrap c u r e))))

/-- The choice in a cycle (10 R219, R220): nothing happens where no word is ready; a starved strand issues its synced bundle, else its word in the
lowest free cluster, and that is no choice of record; a strand whose clusters are all free issues its ready synced bundle; under GTO a cluster takes the strand of
its previous choice, else the oldest, under RR the next slot in rotation; one that has yielded only when no other is ready. -/
def Claim.VectorCycles : Prop :=
  (∀ (s : State) (c : Nat) (cls : List Nat), (∀ e ∈ (s.core c).membersIn cls, s.arrive c e.1 e.2 = s ∧ s.tryUnit c e.1 e.2 = none) →
    (∀ t ∈ (s.core c).vec.strands, s.tryBundle c t.uid = none) → s.cycleIn c cls = s) ∧
  (∀ (c : Nat) (k : Ready) (y : Cycle) (t : Strand),
    (t.starve < 256 → y.pass1 c k t = y) ∧
    (k.joins.contains t.uid = true → (∀ m ∈ t.members, m.cluster ∈ y.free) →
      ∀ y', y' = ⟨y.s.joinBundle c t.uid, y.free.filter (fun n => !t.members.any (fun m => m.cluster == n)), t.uid :: y.done⟩ →
      y.pass2 c k t = y' ∧ (256 ≤ t.starve → y.pass1 c k t = y')) ∧
    (k.joins.contains t.uid = false → y.pass2 c k t = y ∧
      ∀ (r : Nat) (m : Member), t.members[r]? = some m → m.cluster ∈ y.free → (t.uid, r) ∈ k.alone →
        (∀ r' < r, ∀ m' : Member, t.members[r']? = some m' → m'.cluster ∉ y.free ∨ (t.uid, r') ∉ k.alone) → 256 ≤ t.starve →
        y.pass1 c k t = ⟨(y.s.issueUnit c t.uid r).keepChoices y.s c, y.free.filter (· != m.cluster), t.uid :: y.done⟩)) ∧
  (∀ (v : VecUnit) (cl : Nat) (ms : List Ripe), (∀ e ∈ ms, e.slot < 4) →
    (ms = [] → v.choose cl ms = none) ∧
    (∀ e, v.choose cl ms = some e → e ∈ ms ∧
      (NatSet.has v.yielded cl = true → (∃ f ∈ ms, 4 * f.age + f.slot ≠ Tbl.get 0 v.last cl) → 4 * e.age + e.slot ≠ Tbl.get 0 v.last cl)) ∧
    (NatSet.has v.yielded cl = false → ms ≠ [] →
      (v.rr = false → (∀ f ∈ ms, 4 * f.age + f.slot ≠ Tbl.get 0 v.last cl) → v.choose cl ms = ms.head?) ∧
      (v.rr = false → ∀ f ∈ ms, 4 * f.age + f.slot = Tbl.get 0 v.last cl →
        ∃ e, v.choose cl ms = some e ∧ 4 * e.age + e.slot = Tbl.get 0 v.last cl) ∧
      (v.rr = true → Tbl.get 0 v.last cl ≠ 0 → ∃ e, v.choose cl ms = some e ∧
        ∀ f ∈ ms, (e.slot + 3 - Tbl.get 0 v.last cl % 4) % 4 ≤ (f.slot + 3 - Tbl.get 0 v.last cl % 4) % 4)))

/-- The ends of a member's waits (06 R140, R147; 10 R219, R222; 24 R381): a released VWAIT goes on after its word, those of a synced bundle together; a
full/empty wait whose lines are not full, or are another's first, goes on waiting; the virtual cycle counter goes on once its late loads have come; a
strand whose count is 256 gets a cycle, whose pass 1 it issues in; a strand that has not drained in time is kept whole. Says that VWAIT_RELEASE,
FULL_WAIT_RELEASE of a member, VCC_RESUME, STARVATION_COUNT_EXPIRY and STRAND_DRAIN_TIMEOUT complete. -/
def Claim.StrandEvents : Prop :=
  ∀ (s : State) (c u r : Nat) (t : Strand) (m : Member), s.who = .device → (s.core c).strand u = some t → t.members[r]? = some m →
    (∀ a b next, m.wait = .sem a b true false next → exec (.vwaitRelease c u r) s = .next (s.modCore c (fun co => co.modStrand u (fun t =>
      t.modMember r (fun m => { m with wait := .run, pc := next }))))) ∧
    (∀ a b next, m.wait = .sem a b true true next → exec (.vwaitRelease c u r) s =
      .next (s.modCore c (fun co => co.modStrand u Strand.completeJoint))) ∧
    (∀ a b j next, m.wait = .sem a b false j next → exec (.vwaitRelease c u r) s = .next s) ∧
    (∀ ls k j, m.wait = .full ls k j → s.linesReady ls (some k) = false → exec (.fullWaitRelease (.cluster c u r)) s = .next s) ∧
    (∀ ls k un s1 s2 ws, m.wait = .full ls k true → (s.core c).vecLive = true → t.runs = true →
      (∀ m' ∈ t.members, ∀ ls', m'.wait = .full ls' k true → s.linesReady ls' (some k) = true) → s.unitOf c u m.pc = .ok (un, s1) →
      s1.runMembers c u un t.status (t.waiting k) = .ok (s2, ws) →
      exec (.fullWaitRelease (.cluster c u r)) s = .next (((s2.scheduleLoads s1 c u un).completeJoint c u).checkSync c u 0)) ∧
    (∀ ls k, m.wait = .full ls k true →
      (∃ m' ∈ t.members, ∃ ls', m'.wait = .full ls' k true ∧ s.linesReady ls' (some k) = false) →
      exec (.fullWaitRelease (.cluster c u r)) s = .next s) ∧
    (∀ ls k un s1 w1 i op, m.wait = .full ls k false → s.linesReady ls (some k) = true → (s.core c).vecLive = true → t.runs = true →
      s.unitOf c u m.pc = .ok (un, s1) → s1.vcx c u r un.len false false = some w1 → un.instr w1.m.cluster = some i → vecOp (some k) i = some op →
      exec (.fullWaitRelease (.cluster c u r)) s = .next (s1.vecFinish w1 (op w1 s1))) ∧
    exec (.vccResume c) s = .next (s.modCore c (fun co => { co with vec := { co.vec with syncLoads := co.vec.syncLoads.filter co.vec.late } })) ∧
    (t.starve < 256 → exec (.starvationCountExpiry c u) s = .next s) ∧
    (256 ≤ t.starve → exec (.starvationCountExpiry c u) s = .next (s.cycleIn c [0, 1, 2, 3])) ∧
    (∀ lo hi, t.mode = .draining lo hi → exec (.strandDrainTimeout c u) s = .next (s.modCore c (fun co =>
      (co.modStrand u (fun t => { t with mode := .kept, members := t.members.map (Member.stop t.whole) })).leaveSems [u]))) ∧
    ((∀ lo hi, t.mode ≠ .draining lo hi) → exec (.strandDrainTimeout c u) s = .next s)

/-! ### Step words: what every engine shares -/

/-- Engine reads (13 R256-R259; 20 R338; 22 R368; 24 R405): while no channel of HBM pauses, a range whose every byte is translated is read, n bytes of it; contexts,
cores and the module's registers stay as they are; an untranslated first byte is a fatal context error at its address. What a read gives of one line is what stands
at its place, with the engine writes over it, wherever the command must see the stores and the writes there, and each byte carries the poison of its line;
a range is read line by line. -/
def Claim.EngineReads : Prop :=
  ∀ (s : State) (k : Cmd) (x va n : Nat),
    (s.Readable x va n → s.ChannelsRun → ∃ bs s', s.engRead k x va n = .ok (bs, s') ∧ bs.length = n ∧ s'.ctxs = s.ctxs ∧ s'.cores = s.cores ∧ s'.mod = s.mod) ∧
    (0 < n → (s.ctx x).place false va = none → s.engRead k x va n = .error (.fatal va)) ∧
    (∀ n1 n2, n = n1 + n2 → (va + n1) % 64 = 0 → s.engRead k x va n =
      (s.engRead k x va n1).bind (fun r => (r.2.engRead k x (va + n1) n2).map (fun t => (r.1 ++ t.1, t.2)))) ∧
    (∀ p, 0 < n → va % 64 + n ≤ 64 → (s.ctx x).place false va = some p →
      (s.ms.pausedIn p n = true → s.engRead k x va n = .error .paused) ∧
      (s.ms.pausedIn p n = false → isRemote p.key = false → ∃ (bs : List Byte) (f : Nat),
        s.engRead k x va n = .ok (bs.map (fun b => (b, (s.ms.checkBlock p).poisoned p)), { s with ms := s.ms.checkBlock p, fresh := f }) ∧
        ∀ ws, ws = (s.ms.pendW ++ k.ahead.map (·.2)).filter (fun w => w.touches p.key n) →
          (∀ h ∈ s.ms.hist, h.seq ≤ k.see ∨ ∀ u ∈ unitsOf p.key n, h.place.key ≠ 8 * u) →
          (∀ w ∈ ws, w.uid ∈ k.acq ∨ w.done = true ∧ w.uid = k.uid) →
          bs = overWrites p.key (s.ms.peekBytes p n) ws))

/-- Engine writes (13 R256; 08 R194, R195; 15 R288; 22 R368): while no channel of HBM pauses, a range that the command may write is written, and stays pending until an agent
acquires the command: memory itself and the caches' copies are as they were; the writes of other commands stay pending in their order. A range is written line
by line; of one line the bytes are appended to what is pending, unit after unit at their own places, a flip region is marked, and a line that takes data of a
poisoned line is poisoned. -/
def Claim.EngineWrites : Prop :=
  ∀ (s : State) (k : Cmd) (x va : Nat) (ord : Bool) (bs : List PByte),
    (s.Writable x k.task va bs.length → s.ChannelsRun → ∃ t k', s.engWrite k x va bs = .ok (t, k') ∧ t.ms.mem = s.ms.mem ∧ t.ms.l2 = s.ms.l2 ∧ t.cores = s.cores ∧
      (∃ ws, t.ms.pendW = s.ms.pendW ++ ws ∧ ∀ w ∈ ws, w.uid = k.uid) ∧
      k' = { k with cover := k'.cover, status := k'.status }) ∧
    (∀ b1 b2, bs = b1 ++ b2 → (va + b1.length) % 64 = 0 → s.engWriteOrd k x va ord bs =
      (s.engWriteOrd k x va ord b1).bind (fun r => r.1.engWriteOrd r.2 x (va + b1.length) ord b2)) ∧
    (bs ≠ [] → va % 64 + bs.length ≤ 64 → s.engWriteOrd k x va ord bs = s.engPut k x va ord bs ∧
      ((s.ctx x).place k.task.isSome va = none → s.engPut k x va ord bs = .error (.fatal va)) ∧
      ∀ p, (s.ctx x).place k.task.isSome va = some p → s.ms.pausedIn p bs.length = false →
        ((s.ctx x).markAll k.task [va] = none → s.engPut k x va ord bs = .error .fault) ∧
        ∀ x', (s.ctx x).markAll k.task [va] = some x' → ∃ t k', s.engPut k x va ord bs = .ok (t, k') ∧ t.ctx x = x' ∧ t.ms.mem = s.ms.mem ∧
          (isRemote p.key = false → t.outbox = s.outbox) ∧
          (anyBad bs = true → t.ms.poisoned p = true ∧ k'.status = addFlags k.status { poison := true }) ∧
          ∃ ws : List EngineWrite, t.ms.pendW = s.ms.pendW ++ ws ∧
            (∀ i (w : EngineWrite), ws[i]? = some w → w.uid = k.uid ∧ w.dram = false ∧ w.done = ord ∧ w.core = k.pusher ∧
              w.place = p.plus (((ws.take i).map (fun v => v.data.length)).sum) ∧ w.place.key % 8 + w.data.length ≤ 8) ∧
            ((ws.map (·.data)).flatten).length = bs.length ∧
            (ord = true ∨ (∀ w ∈ s.ms.pendW, w.uid ≠ k.uid ∨ w.done = true ∨ w.touches p.key bs.length = false) →
              (ws.map (·.data)).flatten = pbytes bs))

/-- Where a step leaves its command (08 R188, R194): at the next word of the body, at the first word of the next iteration, or after the last of both in stage
4; what it made stands; and how one that fails ends (02 R60; 04 R81; 18 R315; 22 R368): a command fault, an untranslated address or consumed poison that lose the context, a
malformed stream, a channel that pauses and leaves the step as it was. A shared engine that another context holds runs no step (R187). -/
def Claim.StepsAndTheirEnds : Prop :=
  ∀ (s : State) (q : QId) (k : Cmd),
    (k.step + 1 < k.body.length → k.next = { k with step := k.step + 1 }) ∧
    (k.body.length ≤ k.step + 1 → k.iter + 1 < k.iterations → k.next = { k with step := 0, iter := k.iter + 1 }) ∧
    (k.body.length ≤ k.step + 1 → k.iterations ≤ k.iter + 1 → k.next = { k with step := 0, iter := k.iterations, stage := 4 }) ∧
    (∀ fits op t k', s.StepIssues q k → fits q = true → op q k (s.serve q) = .ok (t, k') → stepWord fits op s = .next (t.putCmd q k'.next)) ∧
    (∀ fits op e, s.StepIssues q k → fits q = true → op q k (s.serve q) = .error e →
      stepWord fits op s = .next (match e with
        | .fault => s.cmdFault q k
        | .fatal a => s.loseContext (s.cmdCtx q) 12 (BitVec.ofNat 64 a) (coreField k.pusher 0) [] s.mod.self
        | .poison pages => s.loseContext (s.cmdCtx q) 10 0 (coreField k.pusher 0) pages s.mod.self
        | .malformed a d => s.faultAt q k.uid 7 (BitVec.ofNat 64 a) d
        | .wait t => t
        | .paused => s
        | .after t k' e => if e.waitsChannel then s else stepEnds q e k' (t.putCmd q k'))) ∧
    (∀ fits op, s.who = .engine q → fits q = true → (s.queue q).running = some k → s.runs q k = false ∨ s.engineHere q = false → stepWord fits op s = .next s)

/-! ### The movers -/

/-- COPY and FILL (08 R196): with aligned addresses the units are read once each and written; FILL repeats the 8-byte pattern, and a unit below 8 bytes is a
command fault, as a misaligned address is. Says that COPY and FILL complete. -/
def Claim.CopyAndFill : Prop :=
  ∀ (s s1 s2 : State) (q : QId) (k k2 : Cmd) (sa sb : BitVec 2) (f1 : BitVec 4) (n : BitVec 12) (a b : Nat) (bs : List PByte) (u len : Nat),
    s.StepIssues q k → isMvCopy q = true → u = 2 ^ f1.toNat → len = (if n = 0 then 4096 else n.toNat) * u → k.AtAddr sb.toNat u b →
    (k.AtAddr sa.toNat u a → s.engRead k (s.cmdCtx q) a len = .ok (bs, s1) → s1.engWrite k (s.cmdCtx q) b bs = .ok (s2, k2) →
      exec (.copy sa sb f1 n) s = stepDone q s2 k2) ∧
    (k.AtAddr sa.toNat 8 a → 3 ≤ f1.toNat → s.engRead k (s.cmdCtx q) a 8 = .ok (bs, s1) →
      s1.engWrite k (s.cmdCtx q) b ((List.replicate ((len + 7) / 8) bs).flatten.take len) = .ok (s2, k2) →
      exec (.fill sa sb f1 n) s = stepDone q s2 k2) ∧
    (f1.toNat < 3 → exec (.fill sa sb f1 n) s = .next (s.cmdFault q k)) ∧
    (k.here sa.toNat = (a : Int) → a < 2 ^ 56 → a % u ≠ 0 → exec (.copy sa sb f1 n) s = .next (s.cmdFault q k))

/-- GATHER and SCATTER (08 R197): unit j moves between the list's position and the table's unit idx(j), in list order; an index of 0xFFFFFFFF skips its
unit; of two scatters to one unit the later remains, and the poison of both sources. Says that GATHER and SCATTER complete. -/
def Claim.GatherAndScatter : Prop :=
  ∀ (s s1 s2 : State) (q : QId) (k k2 : Cmd) (sa sb sc : BitVec 2) (f1 : BitVec 4) (n : BitVec 12) (t p : Nat) (idx : List Nat) (u x : Nat),
    s.StepIssues q k → isMvCopy q = true → u = 2 ^ f1.toNat → x = s.cmdCtx q → k.AtAddr sc.toNat u t →
    (k.AtAddr sb.toNat u p → readIndices q k s sa.toNat (count12 n) = .ok (idx, s1) →
      (idx.zip (upFrom 0 idx.length)).foldlM (fun (acc : State × Cmd) e =>
        if e.1 = 0xFFFFFFFF then .ok acc
        else do
          let (bs, s) ← acc.1.engRead acc.2 x (t + e.1 * u) u
          s.engWrite acc.2 x (p + e.2 * u) bs) (s1, k) = .ok (s2, k2) →
      exec (.gather sa sb sc f1 n) s = stepDone q s2 k2) ∧
    (k.AtAddr sa.toNat 1 p → readIndices q k s sb.toNat (count12 n) = .ok (idx, s1) →
      (idx.zip (upFrom 0 idx.length)).foldlM (fun (acc : State × Cmd) e =>
        if e.1 = 0xFFFFFFFF then .ok acc
        else do
          let (bs, s) ← acc.1.engRead acc.2 x (p + e.2 * u) u
          if (idx.drop (e.2 + 1)).contains e.1 then .ok (s.taintAt acc.2 x (t + e.1 * u) u bs)
          else s.engWrite acc.2 x (t + e.1 * u) bs) (s1, k) = .ok (s2, k2) →
      exec (.scatter sa sb sc f1 n) s = stepDone q s2 k2)

/-- MCAST (08 R198; 06 R132): the source is read once, and each receiver of the stream's list gets a landing of its own, at the offset from the list's base in its near
slice or, for a register receiver, from its rows; a landing outside them is a command fault. When a landing takes place its bytes stand as pending writes in
the receiver's slice of stage SRAM, byte after byte from the offset, or wait as whole registers of its lanes, each poisoned by its own bytes (R195), under a name of
their own; the receiver's semaphore takes its add. Says that MCAST and MCAST_LANDING complete. -/
def Claim.Multicast : Prop :=
  ∀ (s s1 : State) (q : QId) (k : Cmd) (sa sc : BitVec 2) (f1 : BitVec 4) (n : BitVec 12) (a : Nat) (bs : List PByte) (len : Nat) (o : Int)
    (rs : List Landing),
    len = count12 n * 2 ^ f1.toNat → o = k.here sc.toNat - (k.baseAddr sc.toNat : Int) → rs = k.recs.filter (fun r => r.idx == sc.toNat) →
    (s.StepIssues q k → isMvCopy q = true →
      ((∃ r ∈ rs, s.landingOk r o len = false) → exec (.mcast sa sc f1 n) s = .next (s.cmdFault q k)) ∧
      ((∀ r ∈ rs, s.landingOk r o len = true) → k.AtAddr sa.toNat 1 a → s.engRead k (s.cmdCtx q) a len = .ok (bs, s1) →
        ∃ lands, exec (.mcast sa sc f1 n) s = stepDone q s1 { k with lands := k.lands ++ lands } ∧ lands.length = rs.length ∧
          ∀ j (h : j < lands.length) (h' : j < rs.length), lands[j].core = rs[j].core ∧ lands[j].toReg = rs[j].toReg ∧ lands[j].bytes = bs ∧
            lands[j].sem = rs[j].sem ∧ lands[j].add = rs[j].add ∧
            lands[j].offs = (if rs[j].toReg then (s1.core rs[j].core).lbv * 512 + o.toNat else (((s1.core rs[j].core).lbs : Int) + o).toNat))) ∧
    (∀ l num, s.who = .device → (s.queue q).cmds.find? (fun k => k.num == num) = some k → k.lands.find? (fun j => j.idx == l.idx) = some l →
      exec (.mcastLanding q num l.idx) s = .next ((s.land q k l).drainSeen k.pusher)) ∧
    (∀ l num, s.who = .device → (s.queue q).cmds.find? (fun k => k.num == num) = some k → k.lands.find? (fun j => j.idx == l) = none →
      exec (.mcastLanding q num l) s = .next s) ∧
    (∀ l : Landing, (∀ w ∈ s.ms.pendW, w.uid ≤ s.uid) → ∃ t : State,
      s.land q k l = (if l.add = 0 then t else
        t.putSem l.core l.sem (((t.core l.core).sem l.sem).val + BitVec.ofNat 32 l.add) ((s.uid + 1) :: k.acq) k.relSee) ∧
      t.ms.mem = s.ms.mem ∧ t.ms.l2 = s.ms.l2 ∧
      (l.toReg = false → ∀ p, p = physPlace (sramBase + l.core * sliceStep + l.offs) → (t.core l.core).vec = (s.core l.core).vec ∧
        (∀ i : Nat, ∀ b : PByte, l.bytes[i]? = some b → b.2 = true → t.ms.poisoned (p.plus i) = true) ∧
        ∃ ws : List EngineWrite, t.ms.pendW = s.ms.pendW ++ ws ∧ (ws.map (·.data)).flatten = pbytes l.bytes ∧
          ∀ i (w : EngineWrite), ws[i]? = some w → w.uid = s.uid + 1 ∧ w.place.key = p.key + ((ws.take i).map (fun v => v.data.length)).sum) ∧
      (l.toReg = true → t.ms = s.ms ∧ (t.core l.core).vec.regs = (s.core l.core).vec.regs ∧
        ∃ new : List LaneLanding, (t.core l.core).vec.landing = (s.core l.core).vec.landing ++ new ∧ new.length = l.bytes.length / 4 ∧
          ∀ i (e : LaneLanding), new[i]? = some e → e.uid = s.uid + 1 ∧ e.key = (l.offs + 4 * i) / 512 * 128 + (l.offs + 4 * i) % 512 / 4 ∧
            e.bits = BitVec.ofNat 32 (leNat (pbytes ((l.bytes.drop (4 * i)).take 4))) ∧ e.pois = anyBad ((l.bytes.drop (4 * i)).take 4)))

/-- CHSEND (08 R199; 16 R302): a step with window and no earlier sender takes window and a sequence number and sends; else it waits its turn, which
CHSEND_WINDOW_GRANT gives to the step that has waited longest; a ring that is no producer end, or a send longer than a slot, is a command fault. A slot is on its way until
its last byte has landed; its publish follows then, outside a task whose effects are held. Says that CHSEND and CHSEND_WINDOW_GRANT complete. -/
def Claim.ChannelSend : Prop :=
  ∀ (s s1 : State) (q : QId) (k k1 : Cmd) (sa : BitVec 2) (r : BitVec 8) (n : BitVec 12) (a : Nat) (e : Ring) (x : Nat), x = s.cmdCtx q →
    (s.StepIssues q k → isMvCopy q = true →
      (s.producerEnd x r.toNat = none → exec (.chsend sa r n) s = .next (s.cmdFault q k)) ∧
      (s.producerEnd x r.toNat = some e → e.slotb < n.toNat * 128 → exec (.chsend sa r n) s = .next (s.cmdFault q k)) ∧
      (s.producerEnd x r.toNat = some e → n.toNat * 128 ≤ e.slotb → k.AtAddr sa.toNat 128 a → k.chSeq = none → k.chWait = none →
        (s.firstSender x r.toNat = none → 1 ≤ e.win.w →
          sendSlot q r.toNat e.win.sent a n.toNat k (s.setRing x r.toNat { e with win := { e.win with w := e.win.w - 1, sent := e.win.sent + 1 } }) = .ok (s1, k1) →
          exec (.chsend sa r n) s = stepDone q s1 k1) ∧
        (s.firstSender x r.toNat ≠ none ∨ e.win.w = 0 → exec (.chsend sa r n) s =
          .next (({ s with uid := s.uid + 1 } : State).putCmd q { k with chWait := some (s.uid + 1) })))) ∧
    (∀ c ring t, s.who = .device → s.producerEnd c ring = some e → s.firstSender c ring = some (q, k, t) →
      (1 ≤ e.win.w → exec (.chsendWindowGrant c ring) s = .next ((s.setRing c ring { e with win := { e.win with w := e.win.w - 1, sent := e.win.sent + 1 } }).putCmd q
        { k with chWait := none, chSeq := some (ring, e.win.sent) })) ∧
      (e.win.w = 0 → exec (.chsendWindowGrant c ring) s = .next s)) ∧
    (∀ seq bs, s.engRead k x a (128 * n.toNat) = .ok (bs, s1) → k.task = none → ∃ t k', sendSlot q r.toNat seq a n.toNat k s = .ok (t, k') ∧
      t = s1.send (.chData (match s1.ring x r.toNat with | some e => e.chEnd.peer | none => 0) r.toNat seq (pbytes bs) (poisonPieces bs)) ∧
      k'.chSeq = none ∧ k'.chWait = none ∧ k'.sends = k.sends ++ [(r.toNat, seq)]) ∧
    (∀ seq, (s.queue q).cmds.find? (fun k => k.sends.contains (r.toNat, seq)) = some k → k.task = none →
      ∃ t, t = s.modCmd q k.uid (fun k => { k with sends := k.sends.erase (r.toNat, seq) }) ∧ s.sent q r.toNat seq =
        t.send (.chPublish (match t.ring x r.toNat with | some e => e.chEnd.peer | none => 0) r.toNat seq (BitVec.ofNat 16 k.tag) false))

/-- The transform words (08 R201-R203): convert reads and writes block after block; compress writes the metadata words and then the sectors of its blocks;
expand each block from its metadata word's method and length; ENC appends each coded tile and its index entry, as one tile shows, and writes the
descriptor back; DEC writes a tile's plain bytes once every check of its segments has passed. Says that XFORM_CONVERT, XFORM_COMPRESS, XFORM_EXPAND, ENC and DEC
complete. -/
def Claim.TransformWords : Prop :=
  ∀ (s s1 s2 s3 s4 : State) (q : QId) (k k2 k3 k4 : Cmd) (sa sb : BitVec 2) (f1 f2 m : BitVec 4) (n : BitVec 12) (a b x cnt : Nat),
    s.StepIssues q k → isMvXform q = true → x = s.cmdCtx q → cnt = (if n = 0 then 4096 else n.toNat) → k.AtAddr sa.toNat 1 a → k.AtAddr sb.toNat 1 b →
    (∀ src dst, src = BlkFmt.ofCode f1.toNat → dst = BlkFmt.ofCode f2.toNat →
      (upFrom 0 cnt).foldlM (fun (acc : State × Cmd) i => do
        let (bs, s) ← acc.1.engRead acc.2 x (a + i * src.bytes) src.bytes
        s.engWrite (acc.2.flag (convertBlock src dst bs).2) x (b + i * dst.bytes) (convertBlock src dst bs).1) (s, k) = .ok (s2, k2) →
      exec (.xformConvert sa sb f1 f2 n) s = stepDone q s2 k2) ∧
    (∀ bs parts, s.engRead k x a (4096 * cnt) = .ok (bs, s1) →
      parts = (chunks 4096 cnt bs).map (fun blk => ((compressBlock m.toNat (pbytes blk)).1, (compressBlock m.toNat (pbytes blk)).2, anyBad blk)) →
      s1.engWrite k x b ((parts.map (fun p => (leBytes p.2.1 8).map (fun y => (y, p.2.2)))).flatten ++
        List.replicate (256 * ceilDiv (8 * cnt) 256 - 8 * cnt) (0, false) ++ (parts.map (fun p => p.1.map (fun y => (y, p.2.2)))).flatten) = .ok (s2, k2) →
      exec (.xformCompress sa sb m n) s = stepDone q s2 k2) ∧
    (∀ md i pos, s.engRead k x a (8 * cnt) = .ok (md, s1) →
      (chunks 8 cnt md).foldlM (fun (acc : State × Cmd × Nat × Nat) c => do
        let (s, k, i, pos) := acc
        let len := 256 * (16 - leNat (pbytes c) / 4 % 16)
        let (sec, s) ← s.engRead k x pos len
        let (s, k) ← ({ s with fresh := s.fresh + 4096 } : State).engWrite k x (b + 4096 * i)
          (expandOne m.toNat (leNat (pbytes c)) (anyBad c) sec s.fresh)
        .ok (s, k, i + 1, pos + len)) (s1, k, 0, a + 256 * ceilDiv (8 * cnt) 256) = .ok (s3, k3, i, pos) →
      exec (.xformExpand sa sb 0 m n) s = stepDone q s3 k3) ∧
    (∀ db d d2, s.engRead k x b 16 = .ok (db, s1) → anyBad db = false → d = EncDesc.ofBytes (pbytes db) → d.app % 64 = 0 → d.tile + cnt ≤ 2 ^ 24 →
      (upFrom 0 cnt).foldlM (fun (acc : State × Cmd × EncDesc) i => encTile x (a + 8192 * i) f1.toNat m.toNat acc) (s1, k, d) = .ok (s3, k3, d2) →
      s3.engWriteOrd k3 x b true (clean d2.bytes) = .ok (s4, k4) → exec (.enc sa sb f1 m n) s = stepDone q s4 k4) ∧
    (∀ db bs d freqs coded, cnt = 1 → s.engRead k x b 16 = .ok (db, s1) → anyBad db = false → d = EncDesc.ofBytes (pbytes db) → d.app % 64 = 0 →
      d.tile + 1 ≤ 2 ^ 24 → (s1.core k.pusher).table m.toNat = some freqs → s1.engRead k x a 8192 = .ok (bs, s2) →
      encodeTile f1.toNat freqs m.toNat (pbytes bs) = some coded → d.app + 64 * ceilDiv coded.length 64 < 2 ^ 40 → coded.length < 2 ^ 24 →
      s2.engWrite k x (d.tb + d.app) (coded.map (fun y => (y, anyBad bs))) = .ok (s3, k3) →
      s3.engWrite k3 x (d.tb + 8 * d.tile) ((leBytes (coded.length * 2 ^ 40 + d.app) 8).map (fun y => (y, anyBad bs))) = .ok (s4, k4) →
      ∀ s5 k5, s4.engWriteOrd k4 x b true (clean ({ d with tile := d.tile + 1, app := d.app + 64 * ceilDiv coded.length 64 } : EncDesc).bytes) = .ok (s5, k5) →
      exec (.enc sa sb f1 m n) s = stepDone q s5 k5) ∧
    ((upFrom 0 cnt).foldlM (fun (acc : State × Cmd) i => do
        let (plain, bad, s) ← acc.1.readTile acc.2 x acc.2.pusher f1.toNat (a + 8 * i) (acc.2.baseAddr sa.toNat)
        s.engWrite acc.2 x (b + 8192 * i) (plain.map (fun y => (y, bad)))) (s, k) = .ok (s2, k2) → exec (.dec sa sb f1 n) s = stepDone q s2 k2)

/-! ### The DOUs -/

/-- The row words (08 R204; 20 R329-R334): every row of the operands lies in a ROWOP range and is clean of poison, else a command fault with no row
changed; under COH the sources are cleaned and the targets dropped from the caches; then row after row is read and written by the DRAM. An operation in the
array reads its sources through the correcting code: it finds their uncorrectable errors, marks the lines poisoned and faults (R332); what a step leaves of errors
that no read has found is the model's (log entry 84). Says that DCOPY, DNOT, DAND, DOR and DXOR complete. -/
def Claim.RowWords : Prop :=
  ∀ (s v t s0 s1 s2 : State) (q : QId) (k k2 : Cmd) (sa sb sc : BitVec 2) (n : BitVec 12) (b x cnt : Nat)
    (e : Instr × Bool × List (BitVec 2) × (List (List Byte) → List Byte)) (as : List Nat) (rows : List (List Nat × Option Nat)), s.StepIssues q k →
    isDou q = true → x = s.cmdCtx q → v = s.serve q → cnt = (if n = 0 then 4096 else n.toNat) →
    e ∈ ([(.dcopy sa sb n, true, [sa], fun ins => ins.getD 0 []), (.dnot sa sb n, false, [sa], fun ins => (ins.getD 0 []).map (fun b => ~~~b)),
      (.dand sa sb sc n, false, [sa, sc], fun ins => (ins.getD 0 []).zipWith (· &&& ·) (ins.getD 1 [])),
      (.dor sa sb sc n, false, [sa, sc], fun ins => (ins.getD 0 []).zipWith (· ||| ·) (ins.getD 1 [])),
      (.dxor sa sb sc n, false, [sa, sc], fun ins => (ins.getD 0 []).zipWith (· ^^^ ·) (ins.getD 1 []))] : List _) →
    as.length = e.2.2.1.length → (∀ p ∈ e.2.2.1.zip as, k.AtAddr p.1.toNat 1024 p.2) → k.AtAddr sb.toNat 1024 b →
    rows = (upFrom 0 cnt).map (fun r => (as.filterMap (fun a => v.rowKey x false (a + 1024 * r)), v.rowKey x k.task.isSome (b + 1024 * r))) →
    ((∃ a ∈ as, v.rowCheck x false rowMode a (1024 * cnt) = .error .fault) →
      (∀ a ∈ as, v.rowCheck x false rowMode a (1024 * cnt) = .ok () ∨ v.rowCheck x false rowMode a (1024 * cnt) = .error .fault) →
      exec e.1 s = .next (s.cmdFault q k)) ∧
    ((∀ a ∈ as, v.rowCheck x false rowMode a (1024 * cnt) = .ok ()) → v.rowCheck x k.task.isSome rowMode b (1024 * cnt) = .ok () →
      ∀ bad, bad = ((rows.filter (inArray e.2.1 (douStack q))).map (·.1)).flatten.filter (fun r => NatSet.has v.ms.rowErr (r / 1024)) →
      (e.2.1 = false → bad ≠ [] →
        exec e.1 s = .next ((({ v with ms := v.ms.findErrors bad } : State).putCmd q k).cmdFault q k)) ∧
      (e.2.1 = true ∨ bad = [] →
        t = as.foldl (fun s a => s.douClean k x a (1024 * cnt)) v → t.douInval k x b (1024 * cnt) = .ok s0 →
        (upFrom 0 cnt).foldlM (fun (s : State) r => do
          let (ins, s) ← as.foldlM (fun (acc : List (List Byte) × State) a => do
            let (bs, s) ← acc.2.douRead (acc.2.rowCmd k x (b + 1024 * r)) x (a + 1024 * r) 1024
            .ok (acc.1 ++ [bs], s)) ([], s)
          s.douWrite k x (b + 1024 * r) (e.2.2.2 ins)) s0 = .ok s1 →
        rows.foldl (State.rowErrors s1.ms e.2.1 (douStack q)) (s1, k) = (s2, k2) →
        exec e.1 s = stepDone q s2 k2)) ∧
    (∀ a d, inArray e.2.1 (douStack q) ([a], some d) = true ↔
      slice d 38 36 = douStack q ∧ slice a 38 36 = slice d 38 36 ∧ slice a 35 16 % 512 = slice d 35 16 % 512 ∧
        (e.2.1 = false → slice (slice a 35 16) 19 12 = slice (slice d 35 16) 19 12))

/-- DFILL writes its 8-byte pattern over rows; DGSUM the sums of the rows that each bag names, rounded after every addition, to stage SRAM (08 R204, R205; 20
R335), once the list and every row have passed their checks. What DFILL leaves of errors that no read has found is the model's (log entry 84). Says that DFILL and DGSUM
complete. -/
def Claim.FillAndGatherSum : Prop :=
  ∀ (s v t s0 s1 s2 s3 s4 s5 : State) (q : QId) (k k2 k5 : Cmd) (sa sb sc : BitVec 2) (f1 : BitVec 4) (n : BitVec 12) (a b x : Nat), s.StepIssues q k →
    isDou q = true → x = s.cmdCtx q → v = s.serve q →
    (∀ pat cnt, cnt = (if n = 0 then 4096 else n.toNat) → k.AtAddr sa.toNat 8 a → k.AtAddr sb.toNat 1024 b →
      v.rowCheck x false plainHbm a 8 = .ok () → v.rowCheck x k.task.isSome rowMode b (1024 * cnt) = .ok () →
      t = v.douClean k x a 8 → t.douInval k x b (1024 * cnt) = .ok s0 → s0.douRead k x a 8 = .ok (pat, s1) →
      (upFrom 0 cnt).foldlM (fun (s : State) r => s.douWrite k x (b + 1024 * r) (List.replicate 128 pat).flatten) s1 = .ok s2 →
      ((upFrom 0 cnt).map (fun r => (([] : List Nat), s2.rowKey x k.task.isSome (b + 1024 * r)))).foldl (State.rowErrors s2.ms false (douStack q)) (s2, k) =
        (s3, k2) →
      exec (.dfill sa sb n) s = stepDone q s3 k2) ∧
    (∀ head cnts idx e counts rows w cb, k.AtAddr sa.toNat 1 a → k.AtAddr sb.toNat 1 b → w = (if f1.toNat = 2 then 2 else 4) → cb = (4 * n.toNat + 7) / 8 * 8 →
      v.gatherRead k x a 8 = .ok (head, s1) → s1.gatherRead k x (a + 8) cb = .ok (cnts, s2) →
      bagsOf (if f1.toNat = 2 then 512 else 256) n.toNat (leNat head) ((chunks 4 (cb / 4) cnts).map leNat) = some (e, counts) →
      s2.gatherRead k x (a + 8 + cb) (4 * counts.foldl (· + ·) 0) = .ok (idx, s3) →
      (∀ va, b ≤ va → va < b + 4 * e * n.toNat → ∃ en p, (s3.ctx x).lookup va = some en ∧ (s3.ctx x).place k.task.isSome va = some p ∧ isSram p.key = true) →
      ((chunks 4 (counts.foldl (· + ·) 0) idx).map leNat).foldlM (fun (acc : List (List Nat) × State) (j : Nat) => do
        let va ← asAddr (k.here sc.toNat + ((1024 * j : Nat) : Int))
        let (bs, s) ← acc.2.gatherRead k x va (w * e)
        s.tableRow x va
        .ok (acc.1 ++ [rowElems (f1.toNat == 2) bs], s)) ([], s3) = .ok (rows, s4) →
      ∀ sums, sums = ((splitBags counts rows).map sumRows).flatten →
      s4.engWrite (k.flag (sums.foldl (fun f r => f.or r.2) {})) x b (clean ((sums.map (fun r => leBytes r.1 4)).flatten)) = .ok (s5, k5) →
      exec (.dgsum sa sb sc f1 n) s = stepDone q s5 k5)

/-! ### Stash and carousel -/

/-- The stash words (08 R206; 16 R291-R296), of a command of a task of a declared stage: SPUT reads its units and enters them, SDROP discards, both held where the
stage commits; SGET writes a present tensor of its own size and in every case the record of R206; SQRY writes the record to its address too; SPREF
prefetches. Says that SPUT, SGET, SDROP, SPREF and SQRY complete. -/
def Claim.StashWords : Prop :=
  ∀ (s v s1 s2 s3 : State) (x die : Nat) (k k2 k3 : Cmd) (sa : BitVec 2) (slot n : BitVec 12) (t : TaskId) (st : Stage) (a : Nat) (bs : List PByte),
    s.StepIssues (.stash x die) k → v = s.serve (.stash x die) → k.task = some t → s.stage x t.stage = some st →
    (∀ k', k' = (if anyBad bs then k.flag { poison := true } else k) → k.AtAddr sa.toNat 4096 a → v.engRead k x a (4096 * count12 n) = .ok (bs, s1) →
      exec (.sput sa slot n) s = stepDone (.stash x die)
        (if st.commit then s1.hold k'.pusher (.put (.stash x die) t.stage k'.tag slot.toNat (count12 n) (pbytes bs) (poisonPieces bs))
          else s1.putStash x die t.stage k'.tag slot.toNat (count12 n) (pbytes bs) (poisonPieces bs)) k') ∧
    exec (.sdrop slot) s = stepDone (.stash x die) (if st.commit then v.hold k.pusher (.drop (.stash x die) t.stage k.tag slot.toNat)
      else v.modCtx x (fun c => c.dropStash die t.stage k.tag slot.toNat)) k ∧
    (∀ m bytes poison sp pf cls, (s.ctx x).stashed die t.stage k.tag slot.toNat = some ⟨die, t.stage, k.tag, slot.toNat, cls, .present m bytes poison sp pf⟩ →
      k.AtAddr sa.toNat 4096 a → m = count12 n → v.engWrite k x a (withPieces bytes poison) = .ok (s2, k2) →
      writeRecordAt x (cls * 2 ^ 52 + 2 ^ 48 + m) s2 k2 = .ok (s3, k3) → exec (.sget sa slot n) s = stepDone (.stash x die) s3 k3) ∧
    (∀ m bytes poison sp pf cls, (s.ctx x).stashed die t.stage k.tag slot.toNat = some ⟨die, t.stage, k.tag, slot.toNat, cls, .present m bytes poison sp pf⟩ →
      k.AtAddr sa.toNat 4096 a → m ≠ count12 n → writeRecordAt x (cls * 2 ^ 52 + 3 * 2 ^ 48 + m) v k = .ok (s3, k3) →
      exec (.sget sa slot n) s = stepDone (.stash x die) s3 k3) ∧
    (∀ cls, (s.ctx x).stashed die t.stage k.tag slot.toNat = some ⟨die, t.stage, k.tag, slot.toNat, cls, .dropped⟩ → k.AtAddr sa.toNat 4096 a →
      writeRecordAt x (2 * 2 ^ 48) v k = .ok (s3, k3) → exec (.sget sa slot n) s = stepDone (.stash x die) s3 k3) ∧
    ((s.ctx x).stashed die t.stage k.tag slot.toNat = none → k.AtAddr sa.toNat 4096 a → writeRecordAt x 0 v k = .ok (s3, k3) →
      exec (.sget sa slot n) s = stepDone (.stash x die) s3 k3) ∧
    (∀ r, r = recordOf ((s.ctx x).stashed die t.stage k.tag slot.toNat) none → k.AtAddr sa.toNat 4096 a →
      v.engWrite k x a (clean (leBytes r 8)) = .ok (s2, k2) → writeRecordAt x r s2 k2 = .ok (s3, k3) →
      exec (.sqry sa slot) s = stepDone (.stash x die) s3 k3) ∧
    exec (.spref slot) s = stepDone (.stash x die) (match (s.ctx x).stashed die t.stage k.tag slot.toNat with
      | some e => v.modCtx x (fun c => c.prefetch st e)
      | none => v) k

/-- What a put does (16 R293, R294; 18 R323): the tensor of its name goes; the new one stays in the store of a class 0 stage while the quota holds, else goes
to HBM while its backing has room, else to the second tier while that has room, else it is dropped. What a prefetch does, and the look-ahead (16 R296, R298): at
every change of the B queue one is asked for, of the tags of its first two entries; each event prefetches one name that was present there when the look-ahead began,
until none is left. Says that STASH_LOOKAHEAD completes. -/
def Claim.StashClasses : Prop :=
  ∀ (c c' : Ctx) (st : Stage) (die stage tag slot n spill : Nat) (bytes : List (BitVec 8)) (poison : List Nat), c' = c.unstash die stage tag slot →
    spill = spillBytes n bytes → ∀ enter, enter = (fun (cls : Nat) (v : StashState) => { c' with stash := c'.stash ++ [⟨die, stage, tag, slot, cls, v⟩] }) →
    ∀ beyondQuota hbmFull tierFull : Prop, (beyondQuota ↔ st.quota * 2 ^ 16 < c'.residentBytes stage + 4096 * n) →
    (hbmFull ↔ c'.hbk.getD die 0 * 2 ^ 20 < c'.backingBytes die 1 + spill) → (tierFull ↔ c'.tbk.getD die 0 * 2 ^ 20 < c'.backingBytes die 2 + spill) →
    (∀ e ∈ c'.stash, e.named die stage tag slot = false) ∧
    (st.cls = 0 → ¬ beyondQuota → c.enterStash st die stage tag slot n bytes poison = enter 0 (.present n bytes poison 0 false)) ∧
    (st.cls = 1 ∨ st.cls = 0 ∧ beyondQuota →
      (¬ hbmFull → c.enterStash st die stage tag slot n bytes poison = enter 1 (.present n bytes poison spill false)) ∧
      (hbmFull → ¬ tierFull → c.enterStash st die stage tag slot n bytes poison = enter 2 (.present n bytes poison spill false)) ∧
      (hbmFull → tierFull → c.enterStash st die stage tag slot n bytes poison = enter 3 .dropped)) ∧
    (st.cls = 2 → ¬ tierFull → c.enterStash st die stage tag slot n bytes poison = enter 2 (.present n bytes poison spill false)) ∧
    (st.cls = 2 → tierFull → c.enterStash st die stage tag slot n bytes poison = enter 3 .dropped) ∧
    (3 ≤ st.cls → c.enterStash st die stage tag slot n bytes poison = enter 3 .dropped) ∧
    (∀ e m bs ps sp pf, e.state = .present m bs ps sp pf → c.stashed e.die e.stage e.tag e.slot = some e →
      (sp ≠ 0 → pf = false → c.residentBytes e.stage + 4096 * m ≤ st.quota * 2 ^ 16 →
        (c.prefetch st e).stashed e.die e.stage e.tag e.slot = some { e with state := .present m bs ps sp true }) ∧
      (sp = 0 ∨ pf = true ∨ st.quota * 2 ^ 16 < c.residentBytes e.stage + 4096 * m → c.prefetch st e = c)) ∧
    (∀ qs, (st.setQueues qs).looks = if qs.getD 1 [] = st.queues.getD 1 [] then st.looks
      else st.looks ++ [{ tags := ((qs.getD 1 []).take 2).map (·.tag), names := none }]) ∧
    (∀ (s : State) (x : Nat), s.who = .device →
      (s.stage x stage = none → exec (.stashLookahead x stage) s = .next s) ∧
      (s.stage x stage = some st → st.looks = [] → exec (.stashLookahead x stage) s = .next s) ∧
      (∀ l rest names, s.stage x stage = some st → st.looks = l :: rest →
        names = l.names.getD ((l.tags.map (fun t => ((s.ctx x).stash.filter (fun e => e.stage == stage && e.tag == t.toNat)).map
          (fun e => (e.die, e.tag, e.slot)))).flatten) →
        (names = [] → exec (.stashLookahead x stage) s = .next (s.setStage x stage { st with looks := rest })) ∧
        (∀ m ms u, names = m :: ms → u = s.setStage x stage { st with looks := if ms = [] then rest else { l with names := some ms } :: rest } →
          exec (.stashLookahead x stage) s = .next (match (u.ctx x).stash.find? (fun e => (e.die, e.tag, e.slot) == m && e.stage == stage) with
            | some e => u.modCtx x (fun c => c.prefetch st e)
            | none => u))))

/-- The carousel's words (08 R207; 21 R346-R351): CRED and CGATH put a step for their chunk among those in progress, in the order of its command, CBAR a
barrier of its bucket, and what can be done at once is done; with 256 in progress the word waits. A step begins by the checks of R347, with its entry's
fields, its ring distance and its actions; another format is a command fault. Stated where the context is not saved (21 R355). Says that CRED, CGATH and
CBAR complete. -/
def Claim.CarouselWords : Prop :=
  ∀ (s : State) (x die : Nat) (k : Cmd) (sa : BitVec 2) (chunk : BitVec 12) (fmt : BitVec 4) (bucket : BitVec 8),
    s.StepIssues (.crsl x die) k → s.InHand (.crsl x die) →
    ∀ v, v = s.serve (.crsl x die) →
    (∀ (i : Instr) (t : CrslStep) (xx : Ctx),
      ((i = .cred sa chunk fmt bucket ∧ t = k.taken (s.uid + 1) die false sa chunk.toNat fmt.toNat bucket.toNat) ∨
        (i = .cgath sa chunk fmt bucket ∧ t = k.taken (s.uid + 1) die true sa chunk.toNat fmt.toNat bucket.toNat) ∨
        (i = .cbar bucket ∧ t = k.crslStep (s.uid + 1) die .bar bucket.toNat 0 0)) →
      xx = { s.ctx x with crsl := (s.ctx x).crsl.filter (fun u => !u.same t) } →
      (xx.inProgress die < 256 → exec i s = .next (((({ v with uid := s.uid + 1 } : State).setCtx x { xx with crsl := insertStep t xx.crsl }).putCmd
        (.crsl x die) k.next).pumpDie x die)) ∧
      (256 ≤ xx.inProgress die → exec i s = .next (({ v with uid := s.uid + 1 } : State).pumpDie x die))) ∧
    (∀ t st, ¬ (t.fmt = 1 ∨ t.fmt = 2 ∨ t.fmt = 13 ∨ t.fmt = 14) → s.openStep k x t st = .error .fault) ∧
    (∀ t st t' s', s.openStep k x t st = .ok (t', s') → t'.kind = t.kind ∧ t'.rank < t'.p ∧ t'.orank < t'.p ∧ t'.chunk = t.chunk ∧ t'.slots % 128 = 0 ∧
      t'.todo = (if t.kind = .gather then cgathActs else credActs) ((t'.rank + t'.p - t'.orank) % t'.p) ((t'.p - 1) / 2) (t'.p - 1 - (t'.p - 1) / 2))

/-- Consumes and arrivals of the carousel (21 R345, R351-R353), where the context is not saved: a consume takes one from CORE's semaphore when it holds one
and else waits among its waiters; an arrival's header is read as it was written; one that the die's ring port has brought whole is taken from its flits; what the
acting step awaits is taken at once, another is held, and with 256 held it waits at the port; one for an empty context goes. Says that CAROUSEL_CONSUME, CAROUSEL_REDUCE_ARRIVAL and CAROUSEL_GATHER_ARRIVAL complete. -/
def Claim.CarouselEvents : Prop :=
  ∀ (s : State) (x die chunk : Nat), s.who = .device → (s.ctx x).st ≠ .saved →
    ((s.ctx x).acting die chunk = none → exec (.carouselConsume x die chunk) s = .next s) ∧
    (∀ t rest, (s.ctx x).acting die chunk = some t → t.todo = .consume false :: rest →
      (1 ≤ ((s.core t.core).sem t.ssem).val.toNat →
        exec (.carouselConsume x die chunk) s = .next ((s.consumeSem t.core t.ssem x t.sid).pumpAll x die chunk)) ∧
      (((s.core t.core).sem t.ssem).val = 0 → exec (.carouselConsume x die chunk) s =
        .next ((s.modStep x t.sid (fun t => { t with todo := .consume true :: rest })).modCore t.core (fun co =>
          co.setSem t.ssem { co.sem t.ssem with waiters := (co.sem t.ssem).waiters ++ [(.carousel x t.sid, 1)] })))) ∧
    (∀ m : RingMsg, m.src < 256 → m.bump < 16 → m.fmt < 16 → m.bucket < 256 → m.chunk < 4096 → ringMsgOf (ringWire m) m.poison = m) ∧
    (∀ m : RingMsg, s.crslStalls x die m = true ↔ (s.ctx x).st ≠ .empty ∧ 256 ≤ ((s.ctx x).crslHeld.filter (fun e => e.1 == die)).length ∧
      ∀ t j rest, (s.ctx x).acting die m.chunk = some t → t.todo = .take j :: rest → t.wants (die, m) = false) ∧
    (∀ wire w, w = payloadsOf wire →
      (w.isPrefixOf (s.port (6 + die)).got = false → s.takeWire die wire = none) ∧
      (w.isPrefixOf (s.port (6 + die)).got = true → s.takeWire die wire =
        some (s.setPort (6 + die) { s.port (6 + die) with got := (s.port (6 + die)).got.drop w.length }))) ∧
    (∀ (m : RingMsg) wire poison i v h, m = ringMsgOf wire poison →
      i = (if m.gather then Instr.carouselGatherArrival x die ⟨wire, poison⟩ else .carouselReduceArrival x die ⟨wire, poison⟩) →
      h = v.modCtx x (fun xx => { xx with crslHeld := xx.crslHeld ++ [(die, m)] }) →
      (s.takeWire die wire = none ∨ s.crslStalls x die m = true → exec i s = .next s) ∧
      (s.takeWire die wire = some v → s.crslStalls x die m = false →
        ((s.ctx x).st = .empty → exec i s = .next v) ∧
        ((s.ctx x).st ≠ .empty → exec i s = .next (h.pumpAll x die m.chunk)) ∧
        ((s.ctx x).st ≠ .empty → (s.ctx x).acting die m.chunk = none → exec i s = .next h)))

/-! ### The matrix engine -/

/-- MMA and MMABS (07 R159-R163): with room for one more result and no earlier command's on the accumulator, the tiles that the handles give are checked,
prepared and multiplied (a coded B operand through its index entry); the result is held until MATRIX_STEP_CHECK; MMABS moves both cursors on; a pair of formats outside R159's table is a command fault. Says that MMA and MMABS complete. -/
def Claim.MatrixProducts : Prop :=
  ∀ (s s1 s2 : State) (q : QId) (k k1 : Cmd) (bs z : Bool) (acc : BitVec 3) (hA hB : BitVec 6) (a b : Tile) (kt g : Nat) (tr : Bool) (h h1 : HeldStep)
    (core : Nat) (empties pins : List Nat) (runsB : List (Int × Nat)), s.StepIssues q k → isMtx q = true → core = mtxCore q k →
    (s.queue q).heldBefore k.uid acc.toNat = false → ((s.queue q).cmds.map (fun j => j.held.length)).sum < 4 →
    ∀ w, w = encMtx (if bs then 2 else 1) acc.toNat hA.toNat hB.toNat z.toNat 0 0 →
    (mmaTiles q k s w k.iter = .ok (a, b, kt, g, tr) → (b.coded = true → codedRuns q k s b = .ok runsB) →
      (b.coded = false → runsB = (bRuns bs b ((s.core core).mtx.cursor hB.toNat) kt).1 ++ (bRuns bs b ((s.core core).mtx.cursor hB.toNat) kt).2) →
      prepare q k s [(a, (aRuns bs a ((s.core core).mtx.cursor hA.toNat) ((s.core core).mtx.mark acc.toNat) kt).1 ++
          (aRuns bs a ((s.core core).mtx.cursor hA.toNat) ((s.core core).mtx.mark acc.toNat) kt).2),
        (b, runsB)] = .ok (s1, k1, empties, pins) →
      h = ⟨acc.toNat, [], [], 0, empties, pins, BitVec.ofNat 32 w, k1.iter, k1.step, (s.core core).mtx.cursor hA.toNat, (s.core core).mtx.cursor hB.toNat, false⟩ →
      formStep q k1 s1 k1.held h = .ok (h1, s2) →
      exec (if bs then .mmabs acc hA hB z else .mma acc hA hB z) s = stepDone q
        (if bs then s2.modMtx core (fun m => { m with kc := bumpCursors kt m.kc [(hA.toNat, (s.core core).mtx.cursor hA.toNat), (hB.toNat, (s.core core).mtx.cursor hB.toNat)] }) else s2)
        { k1 with held := k1.held ++ [h1] }) ∧
    (∀ ta tb, s.tile q k k.iter hA.toNat = .ok ta → s.tile q k k.iter hB.toNat = .ok tb → mmaShape bs ta.fmt tb.fmt = none →
      exec (if bs then .mmabs acc hA hB z else .mma acc hA hB z) s = .next (s.cmdFault q k))

/-- The pairs of formats that MMA and MMABS take (07 R159): Kt, the size of a group, and whether its products are truncated. -/
def Claim.MatrixShapes : Prop :=
  ∀ (bs : Bool) (fa fb : Nat), mmaShape bs fa fb =
    (if bs then (if fa ∈ [13, 14] ∧ fb ∈ [13, 14] then some (64, 32, false) else if fa = 15 ∧ fb = 15 then some (128, 32, false) else none)
     else if (fa ∈ [4, 5] ∧ fb ∈ [4, 5]) ∨ (fa = 9 ∧ fb = 9) then some (64, 32, false)
     else if fa = 6 ∧ fb = 6 then some (128, 32, false)
     else if fa ∈ [2, 3] ∧ fb ∈ [2, 3] then some (32, 16, true) else none)

/-- Sums and products are exact before their one rounding (03 R71; 05 R114; 07 R159): at any scale 2^B that makes every term an integer, the sum of a group of finite
products, and the sum of two values, is the sum of the terms; a product multiplies magnitudes and adds exponents. -/
def Claim.SumsAreExact : Prop :=
  ∀ (ps : List (Bool × Nat × Int)) (na nb dn : Bool) (ma mb B : Nat) (ea eb : Int) (at_ : Bool → Nat → Int → Int),
    at_ = (fun (n : Bool) (m : Nat) (e : Int) => (if n then -1 else 1) * (m : Int) * 2 ^ (e + B).toNat) →
    ((∀ p ∈ ps, 0 ≤ p.2.2 + B) → ∃ n m e, groupExact false none (ps.map (fun p => some (.fin p.1 p.2.1 p.2.2))) = .ex ⟨n, m, e, false⟩ ∧ 0 ≤ e + B ∧
      at_ n m e = (ps.map (fun p => at_ p.1 p.2.1 p.2.2)).sum) ∧
    (0 ≤ ea + B → 0 ≤ eb + B → ∃ n m e, fvAdd dn (.fin na ma ea) (.fin nb mb eb) = .ex ⟨n, m, e, false⟩ ∧ 0 ≤ e + B ∧
      at_ n m e = at_ na ma ea + at_ nb mb eb) ∧
    fvMul (.fin na ma ea) (.fin nb mb eb) = some (.fin (na != nb) (ma * mb) (ea + eb))

/-- The check of a held result (07 R160, R172; 24 R384): the oldest result passes and is committed: its rows and poison are its accumulator's, its status joins its
command's, its lines are unpinned and emptied, and no other row changes; one that fails runs again, with those after it on its accumulator, and RERUN counts it; for the
second time it aborts the task or loses the context, and the core is suspect. Says that MATRIX_STEP_CHECK completes. -/
def Claim.MatrixStepCheck : Prop :=
  ∀ (s : State) (c : Nat) (k : Cmd) (h : HeldStep) (rest : List HeldStep), s.who = .device →
    ((s.queue (.core c 1)).cmds.find? (fun k => !k.held.isEmpty) = none → ∀ ok, exec (.matrixStepCheck c ok) s = .next s) ∧
    ((s.queue (.core c 1)).cmds.find? (fun k => !k.held.isEmpty) = some k → k.held = h :: rest →
      exec (.matrixStepCheck c true) s = .next ((s.commitHeld (.core c 1) k h).drainSeen k.pusher) ∧
      (∀ held s1, h.again = false →
        reform (.core c 1) { k with status := addRerun k.status } h.acc [] ({ h with again := true } :: rest) s = (held, s1, none) →
        exec (.matrixStepCheck c false) s = .next (s1.putCmd (.core c 1) { k with status := addRerun k.status, held := held })) ∧
      (h.again = true → exec (.matrixStepCheck c false) s = .next ((s.suspect c).abortOrLose c 11 false))) ∧
    (∀ u, u = s.commitHeld (.core c 1) k h → h.acc < 8 → h.rows.length ≤ 96 → h.poison.length = h.rows.length → (∀ r ∈ h.rows, r.length = 128) →
      (∀ a r j, a < 8 → r < 96 → j < 128 → Tbl.get 0 (u.core c).mtx.acc ((a * 96 + r) * 128 + j) =
        if a = h.acc ∧ r < h.rows.length then (h.rows.getD r []).getD j 0 else Tbl.get 0 (s.core c).mtx.acc ((a * 96 + r) * 128 + j)) ∧
      (∀ a r, a < 8 → r < 96 → NatSet.has (u.core c).mtx.apois (a * 96 + r) =
        if a = h.acc ∧ r < h.rows.length then h.poison.getD r false else NatSet.has (s.core c).mtx.apois (a * 96 + r)) ∧
      (∀ l ∈ h.empties, u.ms.isFull l = false) ∧ (∀ l, l ∉ h.empties → u.ms.isFull l = s.ms.isFull l) ∧
      u.ms.mem = s.ms.mem ∧ u.ms.pins = (s.ms.unpin k.uid h.pins).pins ∧
      ((s.queue (.core c 1)).cmds.find? (fun j => j.uid == k.uid) = some k →
        (u.queue (.core c 1)).cmds.find? (fun j => j.uid == k.uid) = some { k with held := k.held.tail, status := joinStatus k.status h.status }))

/-- Accumulator words, each where every earlier step on its accumulator has been committed (07 R158, R167-R173): AZERO zeroes every row where i0 = 0; AWM sets the
watermark; AWAIT lets what the command stored stand before its later steps; ACVT, at i0 = n0 − 1, converts every row below the watermark to its format and back;
ACHK, there too, poisons the rows with an uncorrectable error and sets POISON, and keeps a correct accumulator; else they wait. Says that AZERO,
AWM, AWAIT, ACHK and ACVT complete. -/
def Claim.AccumulatorWords : Prop :=
  ∀ (s : State) (q : QId) (k : Cmd) (acc : BitVec 3) (n : BitVec 8) (core : Nat), s.StepIssues q k → isMtx q = true → core = mtxCore q k →
    (committed q k s acc.toNat = .ok () →
      (k.iter % k.count 0 = 0 → exec (.azero acc) s = stepDone q (s.modMtx core (fun m =>
        (upFrom 0 96).foldl (fun m r => m.setRow acc.toNat r (List.replicate 128 0) false) m)) k) ∧
      exec (.awm acc n) s = stepDone q (s.modMtx core (fun m => { m with wm := Tbl.set 96 m.wm acc.toNat n.toNat })) k ∧
      exec (.await acc n) s = stepDone q { s with ms := s.ms.settleOwn k.uid } k ∧
      (k.iter % k.count 0 + 1 = k.count 0 →
        (∀ lost, lost = (upFrom (acc.toNat * 96) 96).filter (fun r => NatSet.has (s.core core).mtx.aerr r) → exec (.achk acc) s =
          if lost = [] then stepDone q s k
          else stepDone q (s.modMtx core (fun m => { m with
            apois := lost.foldl (fun t r => NatSet.mark t r true) m.apois
            aerr := NatSet.clearRange m.aerr (acc.toNat * 96) (acc.toNat * 96 + 96) })) (k.flag { poison := true })) ∧
        ∀ f, f = (NumFmt.ofCode n.toNat).getD (.flt .f32) → exec (.acvt acc n) s =
          stepDone q (mapRows q k acc.toNat false (fun _ e =>
            (((NumFmt.flt .f32).convert .rne true 0 (f.value (f.convert .rne true 0 (FFmt.f32.value e)).1)).1, (f.convert .rne true 0 (FFmt.f32.value e)).2)) s).1
            (mapRows q k acc.toNat false (fun _ e =>
            (((NumFmt.flt .f32).convert .rne true 0 (f.value (f.convert .rne true 0 (FFmt.f32.value e)).1)).1, (f.convert .rne true 0 (FFmt.f32.value e)).2)) s).2)) ∧
    (k.iter % k.count 0 ≠ 0 → exec (.azero acc) s = stepDone q s k) ∧
    (k.iter % k.count 0 + 1 ≠ k.count 0 → exec (.achk acc) s = stepDone q s k ∧ exec (.acvt acc n) s = stepDone q s k) ∧
    ((s.queue q).heldBefore k.uid acc.toNat = true ∨ (∃ h ∈ k.held, h.acc = acc.toNat) →
      exec (.awm acc n) s = .next s ∧ exec (.await acc n) s = .next s)

/-- ALOAD, ASCALE and ASTORE (07 R167-R169, R174): ALOAD reads a tile and writes each element, exactly converted, to its row; ASCALE multiplies every row below the
watermark by a row of f32 scales, rounded once; ASTORE converts the rows below the watermark, saturated with RNE, and writes them to its tile. Says that ALOAD, ASCALE and
ASTORE complete. -/
def Claim.AccumulatorTiles : Prop :=
  ∀ (s s1 s2 : State) (q : QId) (k k1 k2 : Cmd) (acc : BitVec 3) (h : BitVec 6) (n : BitVec 8) (core : Nat) (t : Tile) (rows : List (List (Nat × Bool))),
    s.StepIssues q k → isMtx q = true → core = mtxCore q k → committed q k s acc.toNat = .ok () → s.tile q k k.iter h.toNat = .ok t →
    (k.iter % k.count 0 = 0 → t.fmt ∈ [1, 2, 3] → t.check .other t.fmt = true → readPlain q k s t ((s.core core).mtx.mark acc.toNat) = .ok (rows, s1, k1) →
      ∀ out : List (List (Nat × Flags) × Bool), out = rows.map (fun r => (r.map (fun e =>
          cvtElem ((NumFmt.ofCode t.fmt).getD (.flt .f32)) (.flt .f32) (t.fmt == 1) .rne true 0 e.1), r.any (·.2))) →
      ∃ fl, exec (.aload acc h) s = stepDone q (s1.modMtx (mtxCore q k1) (fun m =>
        (out.mapIdx (fun i r => (i, r))).foldl (fun m r => m.setRow acc.toNat r.1 (r.2.1.map (·.1)) r.2.2) m)) (k1.flag fl)) ∧
    (k.iter % k.count 0 ≠ 0 → exec (.aload acc h) s = stepDone q s k) ∧
    (k.iter % k.count 0 + 1 = k.count 0 → t.fmt = 1 → t.check .other 1 = true → readPlain q k s t 1 = .ok (rows, s1, k1) →
      exec (.ascale acc h) s = stepDone q
        (mapRows q k1 acc.toNat ((rows.headD []).any (·.2)) (fun j e =>
          (fvMulX (FFmt.f32.value e) (FFmt.f32.value ((rows.headD []).getD j (0, false)).1)).finish .f32 .rne true 0) s1).1
        (mapRows q k1 acc.toNat ((rows.headD []).any (·.2)) (fun j e =>
          (fvMulX (FFmt.f32.value e) (FFmt.f32.value ((rows.headD []).getD j (0, false)).1)).finish .f32 .rne true 0) s1).2) ∧
    (k.iter % k.count 0 + 1 ≠ k.count 0 → exec (.ascale acc h) s = stepDone q s k ∧ exec (.astore acc h n) s = stepDone q s k) ∧
    (∀ runs ps f out (es : List (List PByte)), k.iter % k.count 0 + 1 = k.count 0 → k.statusBit = false ∨ ((t.staddr : Int) + k.stoff) % 8 = 0 →
      t.check .other n.toNat = true → t.fe ≠ 2 → runs = t.runs (codeWidth n.toNat) ((s.core core).mtx.mark acc.toNat) 128 →
      s.runPlaces (s.cmdCtx q) k.task.isSome runs = .ok ps → t.placesOk ps = true → f = (NumFmt.ofCode n.toNat).getD (.flt .f32) →
      out = (s.accRows core acc.toNat ((s.core core).mtx.mark acc.toNat) []).map (fun r => r.1.map (fun e =>
        (((cvtElem (.flt .f32) f (n.toNat == 1) .rne true 0 e).1, r.2), (cvtElem (.flt .f32) f (n.toNat == 1) .rne true 0 e).2))) →
      es = (if t.tr then transposeN 128 (out.map (fun r => r.map (·.1))) else out.map (fun r => r.map (·.1))).map (bytesOf (codeWidth n.toNat)) →
      writeRuns (s.cmdCtx q) runs es s (k.flag (out.foldl (fun (fl : Flags) r => r.foldl (fun (fl : Flags) e => fl.or e.2) fl) {})) = .ok (s2, k2) →
      exec (.astore acc h n) s = stepDone q
        (if t.fe = 1 then { s2 with ms := (sramLines ps).foldl (fun (m : MemSys) l => m.setFull l true [k2.uid]) s2.ms } else s2)
        { k2 with statAddr := some (((t.staddr : Int) + k.stoff) % 2 ^ 64).toNat })

/-- HSET, HVER and CTBL (07 R156, R157, R165): HSET reads a handle's 64-byte image and its cursor is 0; HVER gives the command a version for it; CTBL reads a
coding table of 392 bytes; each waits while a step that may run again uses what it changes. Says that HSET, HVER and CTBL complete. -/
def Claim.HandleWords : Prop :=
  ∀ (s s1 : State) (q : QId) (k : Cmd) (h : BitVec 6) (st : BitVec 2) (n tn : BitVec 8) (core : Nat) (bs : List (BitVec 8)), s.StepIssues q k → isMtx q = true →
    core = mtxCore q k →
    ((s.queue q).uses h.toNat = false →
      (readImage q k s st 64 64 = .ok (bs, s1) → exec (.hset h st) s = stepDone q (s1.modMtx core (fun m =>
        { m with handles := Tbl.set 0 m.handles h.toNat (leNat bs), kc := Tbl.set 0 m.kc h.toNat 0 })) k) ∧
      exec (.hver h n) s = stepDone q s { k with hver := Tbl.set 0 k.hver h.toNat (n.toNat + 1) }) ∧
    ((s.queue q).uses h.toNat = true → exec (.hset h st) s = .next s ∧ exec (.hver h n) s = .next s) ∧
    ((∃ j ∈ (s.queue q).cmds, ∃ e ∈ j.held, bitAt ((s.core core).mtx.handle (wordH2 e.word.toNat)) 126 = true) → exec (.ctbl tn st) s = .next s) ∧
    ((∀ j ∈ (s.queue q).cmds, ∀ e ∈ j.held, bitAt ((s.core core).mtx.handle (wordH2 e.word.toNat)) 126 = false) → readImage q k s st 8 392 = .ok (bs, s1) →
      exec (.ctbl tn st) s = stepDone q (s1.modMtx core (fun m => { m with tabs := Tbl.set none m.tabs tn.toNat (readTable bs) })) k)

/-- The waits of matrix steps (07 R162, R163; 24 R376): a step that waits for full lines or pins tries again; without a running command nothing happens; after a quota
stall's 2^20 cycles the core takes a pin-timeout trap at the command. Says that PIN_WAIT_RELEASE, FULL_WAIT_RELEASE of a matrix step and
PIN_TIMEOUT complete. -/
def Claim.MatrixWaits : Prop :=
  ∀ (s : State) (c : Nat) (k : Cmd) (w : Word) (op : EngOp), s.who = .device →
    ((s.queue (.core c 1)).running = none → exec (.pinWaitRelease c) s = .next s ∧ exec (.fullWaitRelease (.matrix c)) s = .next s ∧
      exec (.pinTimeout c) s = .next s) ∧
    ((s.queue (.core c 1)).running = some k →
      (k.body[k.step]? = some w → (decodeStep (.core c 1) w.toNat).bind mtxOp = some op →
        exec (.pinWaitRelease c) s = .next (((s.mtxAhead (.core c 1)).engineTurn (.core c 1) op).forgetAhead (.core c 1)) ∧
        exec (.fullWaitRelease (.matrix c)) s = .next (((s.mtxAhead (.core c 1)).engineTurn (.core c 1) op).forgetAhead (.core c 1))) ∧
      (k.quotaStall = false → exec (.pinTimeout c) s = .next s) ∧
      (k.quotaStall = true → (s.queue (.core c 1)).canRun k = true → exec (.pinTimeout c) s = .next
        ((s.modCmd (.core c 1) k.uid (fun k => { k with quotaStall := false })).faultAt (.core c 1) k.uid 8 (BitVec.ofNat 64 k.num) 0)))

/-! ### Commands on their queues -/

/-- The stages of a command (08 R187, R188, R198, R60; 07 R176; 24 R379): the head check faults a malformed command; one that is well formed waits, and a
part-way one goes on; when its waits are met it begins, a shared engine when it is free, and a body or a list that is malformed faults at the head; a queue
that is stopped does nothing; a chained command goes on once its mover has landed its last byte. Says that COMMAND_HEAD_CHECK, COMMAND_WAITS_MET and
CHAINED_COMMAND_START complete. -/
def Claim.CommandStages : Prop :=
  ∀ (s s1 : State) (q : QId) (k k1 : Cmd) (ws : List Word), s.who = .device → s.InHand q →
    (s.engineFree q = false → s.startRun q k = s) ∧
    (s.engineFree q = true →
      (beginRun q k s = .ok (s1, k1) → s.startRun q k = (s1.putCmd q k1).serve q) ∧
      (beginRun q k s = .error .fault → s.startRun q k = (s.putCmd q { k with stage := 1 }).cmdFault q { k with stage := 1 })) ∧
    (s.heldBack q = true → exec (.commandHeadCheck q) s = .next s) ∧
    (s.heldBack q = false → s.atHead q = none → exec (.commandHeadCheck q) s = .next s) ∧
    (s.heldBack q = false → s.atHead q = some k →
      (s.headOk q k = false → exec (.commandHeadCheck q) s = .next (s.cmdFault q k)) ∧
      (s.headOk q k = true → fetchBody q k s = .error .fault → exec (.commandHeadCheck q) s = .next (s.cmdFault q k)) ∧
      (s.headOk q k = true → fetchBody q k s = .ok (ws, s1) →
        exec (.commandHeadCheck q) s = .next (if k.part then s1.startRun q k else s1.enterWaits q k))) ∧
    ((s.retest q).heldBack q = true → exec (.commandWaitsMet q) s = .next (s.retest q)) ∧
    ((s.retest q).heldBack q = false → ((s.retest q).queue q).cmds.find? (fun k => k.stage == 2) = some k →
      exec (.commandWaitsMet q) s = .next (if k.met then (s.retest q).startRun q k else s.retest q)) ∧
    (∀ c landed, (s.queue (.core c 1)).cmds = [k] → landed = ((s.queue (.core c 2)).cmds ++ (s.queue (.core c 4)).cmds).filter (fun j =>
        decide (4 ≤ j.stage) && j.lands.isEmpty && j.sends.isEmpty) →
      ((∀ j ∈ landed, k.waitOn ≠ some j.uid) →
        exec (.chainedCommandStart c) s = .next (s.setQueue (.core c 1) { s.queue (.core c 1) with cmds := [k] })) ∧
      (∀ mv, landed = [mv] → k.waitOn = some mv.uid → exec (.chainedCommandStart c) s = .next (s.setQueue (.core c 1)
        { s.queue (.core c 1) with cmds := [{ k with waitOn := none, acq := k.acq ++ mv.owns }] })))

/-- The end of a command (08 R188, R190, R192; 13 R258; 04 R93): once every write is performed it completes, with its status word where STATUS asks for it;
the oldest command of its queue then signals, in one step: its tokens, its SADD, its number in the timeline, with those that an abort has discarded
behind it. Says that COMMAND_COMPLETE and COMMAND_SIGNAL complete. -/
def Claim.CommandEnd : Prop :=
  ∀ (s s1 : State) (q : QId) (k k1 : Cmd) (num : Nat), s.who = .device → s.InHand q →
    ((s.queue q).cmds.find? (fun k => k.num == num) = some k →
      (s.performed q k = false → exec (.commandComplete q num) s = .next s) ∧
      (s.performed q k = true → completeCmd q k s = .ok (s1, k1) → exec (.commandComplete q num) s = .next (s1.putCmd q k1)) ∧
      (k.statusBit = false → ∃ k1, completeCmd q k s = .ok (s, k1) ∧ k1.stage = 5)) ∧
    (∀ rest, (s.queue q).cmds = k :: rest →
      ((k.num ≠ num ∨ k.stage ≠ 5) → exec (.commandSignal q num) s = .next s) ∧
      (k.num = num → k.stage = 5 → (∀ c sel, q = .core c sel → (s.core c).tokenRoom k.sig (selEngine sel) = true) →
        exec (.commandSignal q num) s = .next ((s.signal q k).drainSeen k.pusher)) ∧
      (∀ t, k.sadd = 0 → (∀ j ∈ rest, j.uid ≠ k.uid) → t = s.setQueue q { s.queue q with
          cmds := rest, count := (match rest with | j :: _ => j.num - 1 | [] => (s.queue q).last), retired := (s.queue q).retired ++ [(k.num, k.releases)] } →
        (isShared q = true → s.signal q k = t.retestAll k.pusher) ∧
        (∀ c sel u, q = .core c sel → u = t.modCore c (fun co => co.pushTokens k.sig (selEngine sel) ⟨k.releases, k.relSee⟩) →
          s.signal q k = (u.setQueue (.core c 1) { u.queue (.core c 1) with cmds := (u.queue (.core c 1)).cmds.map k.unchain }).retestAll k.pusher)))

/-! ### Events: cuts, the ringmaster, channels -/

/-- The cut and what a handler asks for (24 R377, R378, R380): with the per-core queues empty CUT_COMPLETE puts every count into CUTC0-CUTC5, sets CUTS.V and
clears the progress registers; after the cut a QCTL bit discards the head of its stopped queue, with its strand if it is a VEC command, and bit 8 the faulted
command of the shared queue: the counter passes it; STRCTL ends the faulted strand as at the end of its final iteration, with its status in its command, which
goes on to its completion. Says that CUT_COMPLETE, QCTL_DISCARD and STRCTL_END_STRAND complete. -/
def Claim.CutsAndRequests : Prop :=
  ∀ (s : State) (c : Nat), s.who = .device →
    ((s.core c).cutting = false → exec (.cutComplete c) s = .next s) ∧
    ((s.core c).cutting = true → (∀ q < 6, (s.queue (.core c q)).cmds = []) → s.faultedShared c = none →
      ∃ t, exec (.cutComplete c) s = .next t ∧ (t.core c).cutting = false ∧ (t.core c).sys 38 = BitVec.ofNat 64 (2 ^ 31) ∧
        (∀ q < 6, (t.core c).sys (32 + q) = BitVec.ofNat 64 (s.queue (.core c q)).count ∧ (t.core c).sys (40 + q) = 0) ∧
        (t.core c).sys 46 = 0 ∧ (t.core c).regs = (s.core c).regs ∧ (t.core c).pc = (s.core c).pc ∧
        (∀ r, (r < 32 ∨ 46 < r) → (t.core c).sys r = (s.core c).sys r) ∧ t.ms = s.ms ∧ t.ctxs = s.ctxs ∧ ∀ n, n ≠ c → t.core n = s.core n) ∧
    (∀ bit, (NatSet.has (s.core c).discards bit = false ∨ (s.core c).cutting = true) → exec (.qctlDiscard c bit) s = .next s) ∧
    (∀ bit k rest u v, NatSet.has (s.core c).discards bit = true → (s.core c).cutting = false → bit < 6 →
      u = s.modCore c (fun co => { co with discards := NatSet.mark co.discards bit false }) →
      ((u.queue (.core c bit)).stop = false → exec (.qctlDiscard c bit) s = .next u) ∧
      ((u.queue (.core c bit)).stop = true → (u.queue (.core c bit)).cmds = k :: rest → (∀ j ∈ rest, j.uid ≠ k.uid) →
        v = (if bit = 0 then u.dropStrand c k.uid else u) →
        exec (.qctlDiscard c bit) s = .next ((({ v with ms := { v.ms with pins := v.ms.pins.filter (fun p => p.uid != k.uid) } } : State).setQueue (.core c bit) { u.queue (.core c bit) with
          cmds := rest, retired := (u.queue (.core c bit)).retired ++ [(k.num, [])]
          count := match rest with | j :: _ => j.num - 1 | [] => (u.queue (.core c bit)).last }).retestAll k.pusher))) ∧
    (∀ q k u, NatSet.has (s.core c).discards 8 = true → (s.core c).cutting = false →
      u = s.modCore c (fun co => { co with discards := NatSet.mark co.discards 8 false }) →
      (u.faultedShared c = none → exec (.qctlDiscard c 8) s = .next u) ∧
      (u.faultedShared c = some q → (∀ a b, q ≠ .core a b) → (u.queue q).cmds.find? (fun k => k.fault && k.pusher == c) = some k →
        ∃ t : State, exec (.qctlDiscard c 8) s = .next (t.retestAll k.pusher) ∧ (t.queue q).cmds = (u.queue q).cmds.filter (fun j => j.uid != k.uid) ∧
          (∀ x d, q = .crsl x d → (t.ctx x).crsl = (u.ctx x).crsl.filter (fun e => e.uid != k.uid)) ∧ t.cores = u.cores)) ∧
    ((s.core c).endStrand = false → exec (.strctlEndStrand c) s = .next s) ∧
    (∀ t u, (s.core c).endStrand = true → (s.core c).faultStrand.bind (s.core c).strand = some t →
      u = s.modCore c (fun co => { co with endStrand := false }) →
      exec (.strctlEndStrand c) s = .next ((u.endStrand c t).modCore c (fun co => { co with faultStrand := none })) ∧
      u.endStrand c t = (u.setQueue (.core c 0) ((u.queue (.core c 0)).modCmd t.uid (fun k =>
        { k with stage := 4, iter := t.iter + 1, status := t.status, part := false }))).dropStrand c t.uid)

/-- Rounds of the ringmaster (15 R279, R282, R284): a change of the one declared stage of a running context runs its round, which dispatches nothing while no task is
ready or waits to be rerun; none runs while the context does not run, is being pre-empted or has a task to retire (a retirement goes before every round: the readings of log entries 44
and 45). Says that RINGMASTER_ROUND completes. -/
def Claim.RingmasterRounds : Prop :=
  ∀ (s : State) (x n : Nat) (st : Stage), s.who = .device → (s.ctx x).stages = [(n, some st)] →
    (((s.ctx x).st ≠ .running ∨ (s.ctx x).preempting = true ∨ s.retireDue x = true) → exec (.ringmasterRound x n) s = .next s) ∧
    ((s.ctx x).st = .running → (s.ctx x).preempting = false → s.retireDue x = false →
      exec (.ringmasterRound x n) s = .next (s.round x n) ∧
      (st.tasks.find? (·.waiting) = none → st.queues = [[], [], []] → s.round x n = s.setStage x n { st with waits := none }) ∧
      (∀ ch crew u, u = s.setStage x n { st with waits := none } → u.choose x n { st with waits := none } = some ch →
        (u.crewFor { st with waits := none } ch = some crew → s.round x n = u.dispatch x n { st with waits := none } ch crew) ∧
        (∀ p a m, ch = .fresh p a m → u.crewFor { st with waits := none } ch = none →
          s.round x n = u.setStage x n { st with waits := some (p, a) })))

/-- The crew (15 R284; 25 R394): cores are taken one at a time from those free, each the lowest-numbered within 50 WU of the lowest wear among the free ones left. -/
def Claim.CrewsFollowWear : Prop :=
  ∀ (s : State) (f : Nat) (free : List Nat), free.Nodup →
    (s.pick f free).length = min f free.length ∧ (s.pick f free).Nodup ∧ (∀ c ∈ s.pick f free, c ∈ free) ∧
    (∀ c rest, s.pick f free = c :: rest →
      (∃ d ∈ free, (∀ e ∈ free, (s.wrec d).wear ≤ (s.wrec e).wear) ∧ (s.wrec c).wear ≤ (s.wrec d).wear + 50 * wearUnit ∧
        ∀ e ∈ free, (s.wrec e).wear ≤ (s.wrec d).wear + 50 * wearUnit → c ≤ e) ∧
      rest = s.pick (f - 1) (free.filter (· != c)))

/-- dispatch (15 R284): every core of the crew gets its rank, its wait in TNEXT is released, its held effects are none; the stage counts the task, and a forward task joins
the in-flight list with the version CUR. A per-core queue holds commands of its own core. -/
def Claim.DispatchStartsTheCrew : Prop :=
  ∀ (s : State) (x n p m : Nat) (st : Stage) (a : Arrival) (crew : List Nat), crew ≠ [] → crew.Nodup →
    ((s.core (crew.headD 0)).sem st.csem).waiters = [] →
    (∀ sel, ∀ k ∈ (s.queue (.core (crew.headD 0) sel)).cmds, k.pusher = crew.headD 0) →
    (∀ i c, crew[i]? = some c →
      ((s.dispatch x n st (.fresh p a m) crew).core c).share =
        some { task := ⟨n, st.nextTask⟩, rank := i, nextPc := (s.core c).pc, pushed := [], held := [], slots := [], takes := [] } ∧
      ((s.dispatch x n st (.fresh p a m) crew).core c).wait = (s.core c).wait.map (fun w => { w with released := true })) ∧
    (∀ c, c ∉ crew → ((s.dispatch x n st (.fresh p a m) crew).core c) = s.core c) ∧
    (((s.dispatch x n st (.fresh p a m) crew).core (crew.headD 0)).sem st.csem).val = 0 ∧
    (∃ u, (s.dispatch x n st (.fresh p a m) crew).stage x n = some u ∧ u.nextTask = st.nextTask + 1 ∧ u.last = p ∧ u.waits = none ∧
      u.inflight = (if p = 0 then st.inflight ++ [(a.tag, st.cur)] else st.inflight) ∧ (∀ i < 3, u.queues.getD i [] =
        if i = p then (st.queues.getD i []).erase a else st.queues.getD i [])) ∧
    (s.dispatch x n st (.fresh p a m) crew).ms = s.ms

/-- Retirement (15 R285, R286, R288; 13 R261): not before every core of the crew has reported; then a task of a COMMIT=0 stage flips its regions, one of a COMMIT=1
stage commits, and the stage goes on. Points 2 to 4 of R285: the stage counts the task; the tag arrives in the next declared phase; at the last phase the tag
leaves the in-flight list, with its stash names; a phase-2 retirement counts towards a version advance, which goes to the first free slot after CUR, and waits
while none is free. The commit takes its steps in R261's order: stores and writes acquired, flips, held adds of each rank by ascending semaphore, ring marks,
then puts, drops and publishes in execution order. Says that TASK_RETIRE completes. -/
def Claim.TaskRetirement : Prop :=
  (∀ (s : State) (x n k : Nat) (st : Stage) (t : Task) (l : Launch), s.who = .device → s.stage x n = some st → s.task x ⟨n, k⟩ = some t →
    (s.ctx x).launch = some l →
    ((t.waiting = true ∨ ∃ c ∈ t.crew, ∀ e ∈ t.ended, e.1 ≠ c) → exec (.taskRetire x n k) s = .next s) ∧
    (t.waiting = false → (∀ c ∈ t.crew, ∃ e ∈ t.ended, e.1 = c) → (s.ctx x).st = .running →
      (∀ u, st.commit = false → u = (s.modCtx x (fun c => c.flip t.id)).setStage x n (st.retire t s.now l.mbn) →
        exec (.taskRetire x n k) s = .next ((if t.phase = st.lastPhase then u.modCtx x (fun c => c.dropTag n t.tag) else u).endLaunch x)) ∧
      (∀ u v st', st.commit = true → u = s.commitTask x t → u.stage x n = some st' → v = u.setStage x n (st'.retire t u.now l.mbn) →
        exec (.taskRetire x n k) s = .next ((if t.phase = st.lastPhase then v.modCtx x (fun c => c.dropTag n t.tag) else v).endLaunch x)))) ∧
  (∀ (st r a b : Stage) (t : Task) (now mbn p : Nat), r = st.retire t now mbn →
    r.tasks = st.tasks.filter (fun u => u.id != t.id) ∧
    (∀ p < 3, r.retiredN.getD p 0 = st.retiredN.getD p 0 + if p = t.phase then 1 else 0) ∧ r.nextTask = st.nextTask ∧ r.cores = st.cores ∧
    ((t.phase = 0 ∧ st.declares 1 = true ∧ st.bsrc = 0x100 ∧ p = 1) ∨ (t.phase = 1 ∧ st.declares 2 = true ∧ p = 2) →
      (∀ i < 3, r.queues.getD i [] = st.queues.getD i [] ++ if i = p then [⟨t.tag, now, st.arrived⟩] else []) ∧ r.arrived = st.arrived + 1 ∧
      (p = 1 → r.looks = st.looks ++ [{ tags := ((r.queues.getD 1 []).take 2).map (·.tag) }])) ∧
    (¬(t.phase = 0 ∧ st.declares 1 = true ∧ st.bsrc = 0x100) → ¬(t.phase = 1 ∧ st.declares 2 = true) →
      r.queues = st.queues ∧ r.arrived = st.arrived ∧ r.looks = st.looks) ∧
    r.inflight = (if t.phase = st.lastPhase then st.inflight.filter (fun e => e.1 != t.tag) else st.inflight) ∧
    r.wcount = st.wcount + (if t.phase = 2 then 1 else 0) ∧
    (a = (if t.phase = st.lastPhase then { st with inflight := r.inflight }.advance else st) →
      b = (if t.phase = 2 then
        { a with due := a.due || decide (st.vper ≠ 0 ∧ (st.wcount + 1) % st.vper = 0 ∧ st.fdisp < mbn) }.advance else a) → r.cur = b.cur ∧ r.due = b.due)) ∧
  (∀ (st : Stage), (st.due = false → st.advance = st) ∧
    (∀ i v, st.due = true → i < st.nver → v = (st.cur + 1 + i) % st.nver → v ∉ st.cur :: st.inflight.map (·.2) →
      (∀ j < i, (st.cur + 1 + j) % st.nver ∈ st.cur :: st.inflight.map (·.2)) → st.advance = { st with cur := v, due := false }) ∧
    ((∀ i < st.nver, (st.cur + 1 + i) % st.nver ∈ st.cur :: st.inflight.map (·.2)) → st.advance = st)) ∧
  (∀ (s a b c d : State) (x : Nat) (t : Task) (ms : List EngineWrite), ms = s.ms.pendW.filter (fun w => (s.pushedUids t).contains w.uid) →
    a = ({ s with stamps := s.stamps.storeAll ((t.crew.map (fun c => s.stamps.pts (.seq c))).foldl max 0) (s.commitPlaces x t) } : State).performMet none
      (ms.map (fun w => (w.place.key, w.data.length))) →
    b = { a with ms := a.ms.acquire (s.pushedUids t) }.modCtx x (fun c => c.flip t.id) →
    c = (List.range t.crew.length).foldl (fun u r => (addsOf (t.fxOf r)).foldl (fun u e =>
      u.putSem e.1.1 e.1.2 (((u.core e.1.1).sem e.1.2).val + e.2) (s.pushedUids t) t.lastStore) u) b →
    d = t.heldFx.foldl (fun u f => u.commitRing x f) c → s.commitTask x t = t.heldInOrder.foldl (fun u f => u.commitRest x f) d) ∧
  (∀ (held : List HeldFx), (∀ k m v, HeldFx.add k m v ∈ held → m < 512) →
    (addsOf held).Pairwise (fun e f => e.1.1 * 512 + e.1.2 < f.1.1 * 512 + f.1.2) ∧
    (∀ k m v, HeldFx.add k m v ∈ held → ∃ w, ((k, m), w) ∈ addsOf held) ∧
    (∀ k m w, ((k, m), w) ∈ addsOf held →
      w = (held.filterMap (fun f => match f with | .add k' m' v => if k' = k ∧ m' = m then some v else none | _ => none)).foldl (· + ·) 0)) ∧
  (∀ (c : Ctx) (id : TaskId) (i : Nat) (f : Flip), Tbl.find i c.flips = some (some f) → Tbl.find i (c.flip id).flips =
    some (some (if f.mark = some id then { f with live := !f.live, mark := none } else f))) ∧
  (∀ (s : State) (x q n on oq role : Nat) (r : Ring), s.findRing x q = some (on, oq, role) → s.ring on oq = some r →
    s.commitRing x (.fill q n) = s.putRing on oq { r with filled := NatSet.mark r.filled n true, heldM := NatSet.mark r.heldM n false } ∧
    s.commitRing x (.free q n) = s.putRing on oq { r with done := NatSet.mark r.done n true, heldM := NatSet.mark r.heldM n false }) ∧
  (∀ (s : State) (x q seq n stage slot y die : Nat) (tag : BitVec 16) (r : Ring) (bytes : List (BitVec 8)) (poison : List Nat),
    (s.ring x q = some r → s.commitRest x (.publish q seq tag) = s.send (.chPublish r.chEnd.peer q seq tag false)) ∧
    s.commitRest x (.put (.stash y die) stage tag.toNat slot n bytes poison) = s.putStash x die stage tag.toNat slot n bytes poison ∧
    s.commitRest x (.drop (.stash y die) stage tag.toNat slot) = s.modCtx x (fun c => c.dropStash die stage tag.toNat slot))

/-- The ends of tensor channels (16 R302-R305; 22 R361): the first byte of a send that lands claims its slot, whose lines begin anew, and a landing writes its bytes
there under the one name of the slot; a publish marks the slot filled, or void; each slot that the filled frontier passes and that is not void gives the arrival
of its tag, on the F queue of the stage that the channel feeds, or on its B queue; an advertisement that raises the freed total widens the producer's window, any
other is dropped. What a failed peer had sent is dropped. Says that CHANNEL_LANDING, CHANNEL_PUBLISH and CHANNEL_ADVERTISEMENT complete. -/
def Claim.ChannelEnds : Prop :=
  ∀ (s s1 : State) (x q seq first : Nat) (r r1 : Ring) (bs : List (BitVec 8)) (pz void : Bool) (tag : BitVec 16) (freed : BitVec 32), s.who = .device →
    (s.consumerEnd x q = none → exec (.channelLanding x q seq first bs pz) s = .next s ∧ exec (.channelPublish x q seq tag void) s = .next s) ∧
    (s.ring x q = some r → NatSet.has s.mod.failed r.chEnd.peer = true → exec (.channelLanding x q seq first bs pz) s = .next s ∧
      exec (.channelPublish x q seq tag void) s = .next s ∧ exec (.channelAdvertisement x q freed) s = .next s) ∧
    (∀ n, s.consumerEnd x q = some r → NatSet.has s.mod.failed r.chEnd.peer = false → n = BitVec.ofNat 32 seq →
      (r.slots ≤ (n - r.r).toNat → exec (.channelLanding x q seq first bs pz) s = .next s) ∧
      (∀ w cover, (n - r.r).toNat < r.slots → r1 = r.claimFor x n.toNat (s.uid + 1) →
        cover = (if (Tbl.find n.toNat r.claimed).isSome then r1.chEnd.cover
          else r1.chEnd.cover.filter (fun e => !(s.slotLines x (r.slotAddr n) r.slotb).contains e.1)) →
        ({ s with uid := s.uid + 1 } : State).engWrite
          { newCmd [] none 0 none 0 with uid := (Tbl.get [] r1.rel n.toNat).headD 0, pusher := Config.cores, cover := cover } x
          (r.slotAddr n + first) (bs.map (fun b => (b, pz))) = .ok (s1, w) →
        exec (.channelLanding x q seq first bs pz) s = .next (s1.setRing x q { r1 with chEnd := { r1.chEnd with cover := w.cover } })) ∧
      (r1 = (if void then r.claimFor x n.toNat (s.uid + 1) else r) →
        exec (.channelPublish x q seq tag void) s = .next (({ s with uid := s.uid + 1 } : State).settleChannel x q { r1 with
          filled := NatSet.mark r1.filled n.toNat true, void := NatSet.mark r1.void n.toNat void
          chEnd := { r1.chEnd with tags := Tbl.set 0 r1.chEnd.tags n.toNat tag } })) ∧
      (∀ u, Tbl.find n.toNat r.claimed = none →
        (r.claimFor x n.toNat u).c = r.c + 1 ∧ Tbl.find n.toNat (r.claimFor x n.toNat u).claimed = some x) ∧
      (∀ u v, Tbl.find n.toNat r.claimed = some v → r.claimFor x n.toNat u = r)) ∧
    (s.settleChannel x q r = ((((List.range (r.settled.f - r.f).toNat).map (fun i => (r.f + BitVec.ofNat 32 i).toNat)).filter
      (fun n => !NatSet.has r.void n)).foldl (fun u n => u.channelArrival x q (Tbl.get 0 r.chEnd.tags n)) s).putRing x q r) ∧
    (∀ n st, s.stage x n = some st → (s.channelArrival x q tag).stage x n =
      some (if st.fsrc = q then st.arrive 0 tag s.now else if st.bsrc = q then st.arrive 1 tag s.now else st)) ∧
    (∀ (st : Stage) (p : Nat), p < 3 → (st.arrive p tag s.now).arrived = st.arrived + 1 ∧
      ∀ i < 3, (st.arrive p tag s.now).queues.getD i [] = st.queues.getD i [] ++ if i = p then [⟨tag, s.now, st.arrived⟩] else []) ∧
    (∀ d, s.ring x q = some r → d = freed - BitVec.ofNat 32 r.win.freed →
      (r.chan = true → r.orole = 0 → r.win.joined = true → d ≠ 0 → d.toNat < 2 ^ 31 → NatSet.has s.mod.failed r.chEnd.peer = false →
        exec (.channelAdvertisement x q freed) s = .next (s.setRing x q { r with win := { r.win with
          freed := freed.toNat, w := r.slots - (BitVec.ofNat 32 r.win.sent - freed).toNat } })) ∧
      ((r.chan = false ∨ r.orole ≠ 0 ∨ r.win.joined = false ∨ d = 0 ∨ 2 ^ 31 ≤ d.toNat) → exec (.channelAdvertisement x q freed) s = .next s))

/-! ### Events: the launch front end -/

/-- Packets of the launch ring (15 R270-R276; 24 R381, R382): a packet is carried out when it is whole at the head and of its kind, and no lane repair keeps it
from being read (22 R368); the head goes on; one that breaks a rule is rejected with its code. LOAD-LTT places the context's cores, table and rings;
DECLARE-STAGE declares its stage; LAUNCH raises the curtain and goes to the W4s of the list, and a generation that is not the context's is a curtain fault;
PREEMPT stops every core and queue, and its head moves when the save is over, as LAUNCH's does; RESUME lets every core go on where it stopped; KILL ends
the context, and one behind a packet still carried out does not wait for it (24 R393; log entry 86). Set-up that fails its block's check is poisoned by its
reading (18 R322; log entry 95). A core that another context took meanwhile rejects RESUME (log entry 19). Says that LOAD_LTT, DECLARE_STAGE, LAUNCH,
PREEMPT, PREEMPT_SAVED, RESUME and KILL complete. -/
def Claim.LaunchPackets : Prop :=
  (∀ (s : State) (x : Nat), s.who = .device →
    (∀ i ∈ [Instr.loadLtt x, .declareStage x, .launch x, .preempt x, .resume x, .kill x],
      ((s.packetAt x = none ∨ s.ms.pausedIn (physPlace ((s.ctx x).lrbase + (s.ctx x).lrhead)) 64 = true) → s.killBehind x = false → exec i s = .next s)) ∧
    (s.killBehind x = true →
      exec (.kill x) s = .next (((s.kill x).modCtx x (fun c => { c with lrhead := (c.lrhead + 64) % c.lrsize })).headOn x)) ∧
    (∀ v, s.packetAt x = some v → s.ms.pausedIn (physPlace ((s.ctx x).lrbase + (s.ctx x).lrhead)) 64 = false →
      (∀ i ∈ [(Instr.loadLtt x, 1), (.declareStage x, 2), (.launch x, 3), (.preempt x, 4), (.resume x, 5), (.kill x, 6)],
        slice v 63 56 ≠ i.2 → s.killBehind x = false → exec i.1 s = .next s) ∧
      (∀ s1, slice v 63 56 = 1 → s1 = s.retireFree.enableSpares →
        ((slice v 55 32 ≠ 0 ∨ slice v 69 64 ≠ 0 ∨ slice v 127 116 ≠ 0 ∨ slice v 511 128 ≠ 0) → exec (.loadLtt x) s = .next (s.rejectPacket x 3)) ∧
        (slice v 55 32 = 0 → slice v 69 64 = 0 → slice v 127 116 = 0 → slice v 511 128 = 0 →
          ((s.ctx x).st ≠ .empty → (s.ctx x).st ≠ .loaded → exec (.loadLtt x) s = .next (s.rejectPacket x 5)) ∧
          (((s.ctx x).st = .empty ∨ (s.ctx x).st = .loaded) →
            ((memoryOf (slice v 115 70 * 64)).isNone = true ∨ (∀ im, s1.readImage (slice v 115 70 * 64) = some im → s1.imageOk x im = false) →
              exec (.loadLtt x) s = .next (s.rejectPacket x 6)) ∧
            (∀ im, (memoryOf (slice v 115 70 * 64)).isNone = false → s1.readImage (slice v 115 70 * 64) = some im → s1.imageOk x im = true →
              exec (.loadLtt x) s = .next ((s1.placeImage x (slice v 31 0) im).headOn x))))) ∧
      (∀ d, slice v 63 56 = 2 → d = s.expandSetup x (slice v 311 256) 256 →
        ((slice v 511 472 ≠ 0 ∨ slice v 463 457 ≠ 0 ∨ slice v 445 408 ≠ 0 ∨ slice v 356 312 ≠ 0 ∨ slice v 255 248 ≠ 0 ∨ slice v 191 184 ≠ 0 ∨
          slice v 127 120 ≠ 0 ∨ slice v 4 0 ≠ 0) → exec (.declareStage x) s = .next (d.rejectPacket x 3)) ∧
        (slice v 511 472 = 0 → slice v 463 457 = 0 → slice v 445 408 = 0 → slice v 356 312 = 0 → slice v 255 248 = 0 → slice v 191 184 = 0 →
          slice v 127 120 = 0 → slice v 4 0 = 0 →
          (s.declareOk x v = false → exec (.declareStage x) s = .next (d.rejectPacket x 4)) ∧
          (s.declareOk x v = true →
            (s.tableBytes x (slice v 311 256) 256 = none →
              exec (.declareStage x) s = .next (d.rejectPacket x (if (s.ctx x).st = .loaded then 6 else 5))) ∧
            (∀ blk, s.tableBytes x (slice v 311 256) 256 = some blk →
              (s.quotaOk x v blk = false → exec (.declareStage x) s = .next (d.rejectPacket x 4)) ∧
              (s.quotaOk x v blk = true → (s.ctx x).st ≠ .loaded → exec (.declareStage x) s = .next (d.rejectPacket x 5)) ∧
              (s.quotaOk x v blk = true → (s.ctx x).st = .loaded →
                (s.blockOk x (slice v 50 48) blk = false → exec (.declareStage x) s = .next (d.rejectPacket x 6)) ∧
                (s.blockOk x (slice v 50 48) blk = true →
                  exec (.declareStage x) s = .next ((s.setStage x (slice v 55 53) (declared v blk)).headOn x))))))) ∧
      (∀ d, slice v 63 56 = 3 → d = (if slice v 23 16 = 0 then s else s.expandSetup x (slice v 247 192) (4 * (slice v 23 16 + 1))) →
        ((slice v 511 248 ≠ 0 ∨ slice v 191 184 ≠ 0 ∨ slice v 79 64 ≠ 0 ∨ slice v 15 0 ≠ 0) → exec (.launch x) s = .next (d.rejectPacket x 3)) ∧
        (slice v 511 248 = 0 → slice v 191 184 = 0 → slice v 79 64 = 0 → slice v 15 0 = 0 →
          ((slice v 183 128 % 4 ≠ 0 ∨ slice v 95 80 = 0 ∨ 65535 < slice v 39 24 + slice v 55 40 ∨ (slice v 23 16 ≠ 0 ∧ slice v 247 192 % 64 ≠ 0)) →
            exec (.launch x) s = .next (d.rejectPacket x 4)) ∧
          (slice v 183 128 % 4 = 0 → slice v 95 80 ≠ 0 → slice v 39 24 + slice v 55 40 ≤ 65535 → (slice v 23 16 = 0 ∨ slice v 247 192 % 64 = 0) →
            (((s.ctx x).st ≠ .loaded ∨ (s.ctx x).stages.filterMap (·.2) = []) → exec (.launch x) s = .next (d.rejectPacket x 5)) ∧
            ((s.ctx x).st = .loaded → (s.ctx x).stages.filterMap (·.2) ≠ [] →
              (s.w4List x v = none → exec (.launch x) s = .next (d.rejectPacket x 6)) ∧
              (∀ es l u, s.w4List x v = some es →
                l = ({ start := slice v 183 128, mbn := slice v 55 40 + 1, tag0 := slice v 39 24, cto := slice v 95 80, gen := slice v 127 96, w4s := es
                       arrived := [s.mod.self], began := s.now, offset := (s.ctx x).lrhead } : Launch) →
                u = (s.modCtx x (fun c => { c with st := .curtain, launch := some l })).forwardLaunch (BitVec.ofNat 32 l.gen) (BitVec.ofNat 56 l.start)
                  (BitVec.ofNat 16 l.tag0) (BitVec.ofNat 16 (slice v 55 40)) es →
                ((s.ctx x).gen = l.gen → exec (.launch x) s = .next u) ∧
                ((s.ctx x).gen ≠ l.gen → exec (.launch x) s = .next (u.fallAtRoot x 7 s.mod.self))))))) ∧
      (slice v 63 56 = 4 → v = 4 * 2 ^ 56 →
        ((s.ctx x).st = .running → exec (.preempt x) s = .next (s.preempt x)) ∧
        ((s.ctx x).st ≠ .running → exec (.preempt x) s = .next (s.rejectPacket x 5))) ∧
      (slice v 63 56 = 5 → v = 5 * 2 ^ 56 →
        ((s.ctx x).st = .saved → (∀ c ∈ (s.ctx x).coreList, s.resumable x c = true) →
          exec (.resume x) s = .next ((s.resume x).headOn x)) ∧
        (((s.ctx x).st ≠ .saved ∨ ∃ c ∈ (s.ctx x).coreList, s.resumable x c = false) → exec (.resume x) s = .next (s.rejectPacket x 5))) ∧
      (slice v 63 56 = 6 → v = 6 * 2 ^ 56 → s.killBehind x = false → exec (.kill x) s = .next (((s.endContext x).record x ⟨2, 0, 0, 0, 0⟩).headOn x)) ∧
      (∀ i ∈ [(Instr.preempt x, 4), (.resume x, 5), (.kill x, 6)], slice v 63 56 = i.2 → v ≠ i.2 * 2 ^ 56 →
        s.killBehind x = false → exec i.1 s = .next (s.rejectPacket x 3))) ∧
    (((s.ctx x).preempting = false ∨ (s.ctx x).st ≠ .running ∨ s.preemptDone x = false) → exec (.preemptSaved x) s = .next s) ∧
    ((s.ctx x).preempting = true → (s.ctx x).st = .running → s.preemptDone x = true →
      exec (.preemptSaved x) s = .next ((s.saveContext x).headOn x) ∧ ((s.saveContext x).ctx x).st = .saved ∧
      ((s.saveContext x).ctx x).preempting = false)) ∧
  (∀ (s u : State) (x gen : Nat) (im : Image), (s.ctx x).st = .empty → (im.cores.map (·.1)).Nodup → u = s.placeImage x gen im →
    (u.ctx x).st = .loaded ∧ (u.ctx x).gen = gen ∧ (u.ctx x).coreList = im.cores.map (·.1) ∧ (u.ctx x).sram = im.sram ∧ (u.ctx x).stages = [] ∧
    (u.ctx x).launch = none ∧ (∀ i e, im.ltt[i]? = some e → Tbl.find i (u.ctx x).ltt = some (some e)) ∧
    (∀ i e, im.flips[i]? = some e → Tbl.find (i + 1) (u.ctx x).flips = some (some e)) ∧ (∀ i r, im.rings[i]? = some (some r) → u.ring x i = some r) ∧
    (∀ e ∈ im.cores, u.holder e.1 = some x ∧ (u.core e.1).lbv = e.2.1 ∧ (u.core e.1).lbs = e.2.2 ∧ (u.core e.1).regs = [] ∧ (u.core e.1).sems = [] ∧
      (u.core e.1).queues = [] ∧ (u.core e.1).run = .off)) ∧
  (∀ (s : State) (gen : BitVec 32) (start : BitVec 56) (tag0 mbnm1 : BitVec 16) (es : List (BitVec 32)), s.forwardLaunch gen start tag0 mbnm1 es =
    { s with outbox := s.outbox ++ (forwards es s.mod.self).map (fun e => .launch e gen start tag0 mbnm1 es) }) ∧
  (∀ (s : State) (x : Nat), ((s.preempt x).ctx x).preempting = true ∧ (∀ c ∈ (s.ctx x).coreList, ((s.preempt x).core c).run = .saved ∧
      ((s.core c).debug = false → ∀ q < 6, ((s.preempt x).queue (.core c q)).pre = true)) ∧ (∀ q ∈ sharedStopped x, ((s.preempt x).queue q).pre = true)) ∧
  (∀ (s : State) (x : Nat) (l : Launch) (st : Stage), (s.ctx x).launch = some l → some st ∈ (s.ctx x).stages.map (·.2) →
      (∃ p < 3, st.declares p = true ∧ st.retiredN.getD p 0 < l.mbn) → ((s.resume x).ctx x).st = .running) ∧
  (∀ (s : State) (x c : Nat), c ∈ (s.ctx x).coreList → s.holder c = some x → ((s.resume x).core c).pc = (s.core c).pc ∧
    ((s.resume x).core c).regs = (s.core c).regs ∧ ((s.resume x).core c).run = (if (s.core c).debug then .halted else .on) ∧
    (∀ q ∈ sharedStopped x, ((s.resume x).queue q).pre = false))

/-- A rejected packet (15 R270): ERR holds its code and ERROFF the head, the ring stops, the head stays, and one packet-reject record goes to the owner. -/
def Claim.RejectedPackets : Prop :=
  ∀ (s : State) (x code : Nat), ((s.rejectPacket x code).ctx x).err = code ∧ ((s.rejectPacket x code).ctx x).erroff = (s.ctx x).lrhead ∧
    ((s.rejectPacket x code).ctx x).stop = true ∧ ((s.rejectPacket x code).ctx x).lrhead = (s.ctx x).lrhead ∧
    (s.rejectPacket x code).packetAt x = none ∧ (s.rejectPacket x code).cores = s.cores ∧
    ((s.ctx x).evsize = 0 → (s.ctx x).evHeld = [] → ((s.rejectPacket x code).ctx x).evHeld = [⟨4, BitVec.ofNat 64 code, BitVec.ofNat 64 (s.ctx x).lrhead, 0, 0⟩])

/-- The registers of a context's block (15 R268, R269; 20 R341; 21 R344; 24 R390, R391): before bring-up, or at no block of the sixteen, a write does nothing;
then it follows its register's rule, and one that breaks it sets BADW and changes nothing else. A kill by LRKILL moves no head (the reading of log entry 65).
Says that LRBASE_WRITE, LRSIZE_WRITE, LRTAIL_WRITE,
LRSTAT_WRITE, LRKILL_WRITE, EVBASE_WRITE, EVSIZE_WRITE, EVHEAD_WRITE and REGISTER_WRITE complete. -/
def Claim.ContextRegisterWrites : Prop :=
  ∀ (s : State) (x : Nat) (v : BitVec 64) (o : BitVec 12), s.who = .device →
    ((s.mod.ready = false ∨ 16 ≤ x) → ∀ i ∈ [Instr.lrbaseWrite x v, .lrsizeWrite x v, .lrtailWrite x v, .lrstatWrite x v, .lrkillWrite x v, .lttcmdWrite x v,
      .lttcmdRemove x v, .lttcmdResume x v, .evbaseWrite x v, .evsizeWrite x v, .evheadWrite x v, .registerWrite x o v, .dbgctlHalt x v, .dbgctlResume x v],
      exec i s = .next s) ∧
    (s.mod.ready = true → x < 16 → ∀ bad, bad = s.modCtx x (fun c => { c with badw := true }) →
      ((s.ctx x).st = .empty → exec (.lrbaseWrite x v) s =
        .next (s.modCtx x (fun c => if c.st = .empty then { c with lrbase := slice v.toNat 51 6 * 64, lrhead := 0 } else c))) ∧
      ((s.ctx x).st ≠ .empty → exec (.lrsizeWrite x v) s = .next s) ∧
      ((s.ctx x).st = .empty → (v.toNat < 1024 ∨ 2 ^ 20 < v.toNat ∨ v.toNat % 16 ≠ 0) → exec (.lrsizeWrite x v) s = .next bad) ∧
      ((s.ctx x).st = .empty → 1024 ≤ v.toNat → v.toNat ≤ 2 ^ 20 → v.toNat % 16 = 0 →
        exec (.lrsizeWrite x v) s = .next (s.modCtx x (fun c => { c with lrsize := v.toNat }))) ∧
      ((v.toNat % 16 ≠ 0 ∨ (s.ctx x).lrsize ≤ v.toNat) → exec (.lrtailWrite x v) s = .next bad) ∧
      (∀ u, v.toNat % 16 = 0 → v.toNat < (s.ctx x).lrsize → u = s.modCtx x (fun c => { c with lrtail := v.toNat }) → (u.ctx x).ringOutside = false →
        exec (.lrtailWrite x v) s = .next (u.scanRing x)) ∧
      (bitAt v.toNat 3 = false → exec (.lrstatWrite x v) s =
        .next (s.modCtx x (fun c => { c with badw := c.badw && !bitAt v.toNat 4, stop := c.stop && !bitAt v.toNat 3 }))) ∧
      (bitAt v.toNat 3 = true → (s.ctx x).stop = true → exec (.lrstatWrite x v) s =
        .next ((s.modCtx x (fun c => { c with badw := c.badw && !bitAt v.toNat 4, stop := c.stop && !bitAt v.toNat 3 })).scanRing x)) ∧
      (bitAt v.toNat 0 = true → exec (.lrkillWrite x v) s = .next ((s.endContext x).record x ⟨2, 0, 0, 0, 0⟩)) ∧
      (bitAt v.toNat 0 = false → exec (.lrkillWrite x v) s = .next s) ∧
      (exec (.evbaseWrite x v) s = .next ((s.modCtx x (fun c =>
        { c with evbase := slice v.toNat 51 6 * 64, evhead := 0, evtail := 0, evseq := 0 })).deliverAll x)) ∧
      (v.toNat ≠ 0 → (v.toNat < 4096 ∨ 2 ^ 20 < v.toNat ∨ v.toNat % 64 ≠ 0) → exec (.evsizeWrite x v) s = .next bad) ∧
      ((v.toNat = 0 ∨ (4096 ≤ v.toNat ∧ v.toNat ≤ 2 ^ 20 ∧ v.toNat % 64 = 0)) →
        exec (.evsizeWrite x v) s = .next ((s.modCtx x (fun c => { c with evsize := v.toNat })).deliverAll x)) ∧
      ((v.toNat % 64 ≠ 0 ∨ (s.ctx x).evsize ≤ v.toNat) → exec (.evheadWrite x v) s = .next bad) ∧
      (v.toNat % 64 = 0 → v.toNat < (s.ctx x).evsize →
        exec (.evheadWrite x v) s = .next ((s.modCtx x (fun c => { c with evhead := v.toNat })).deliverAll x)) ∧
      (∀ k < 4, o.toNat = 0x40 + 8 * k →
        exec (.registerWrite x o v) s = .next (s.modCtx x (fun c => { c with lttd := Tbl.set 0 c.lttd k v }))) ∧
      (((s.ctx x).st = .loaded ∨ (s.ctx x).st = .saved) →
        (o = 0x80 → exec (.registerWrite x o v) s = .next (s.modCtx x (fun c => { c with crcfg := v &&& 0xFFFFFFF }))) ∧
        (o = 0x88 → exec (.registerWrite x o v) s = .next (s.modCtx x (fun c => { c with crtab := v &&& 0xFFFFFFFFFFFFFF })))) ∧
      ((s.ctx x).st ≠ .loaded → (s.ctx x).st ≠ .saved → (o = 0x80 ∨ o = 0x88) → exec (.registerWrite x o v) s = .next s) ∧
      (o ≠ 0x80 → o ≠ 0x88 → (∀ k < 4, o.toNat ≠ 0x40 + 8 * k) → exec (.registerWrite x o v) s = .next s))

/-- Records to the owner (24 R390, R391): a record with room in the event ring is written at EVTAIL, 64 bytes little-endian with the sequence number; without room it is held,
or, of kind 6 and up with 16 held, dropped and counted; the count stays at 0xFFFF once it is there (the model's choice, log entry 94). -/
def Claim.RecordsToTheOwner : Prop :=
  ∀ (s : State) (n : Nat) (r : Record), s.Inv → (s.ctx n).evbase + (s.ctx n).evsize < 2 ^ 52 →
    ((s.ctx n).evHeld = [] → (s.ctx n).evsize ≠ 0 → ((s.ctx n).evtail + 64) % (s.ctx n).evsize ≠ (s.ctx n).evhead →
      ((s.record n r).ctx n).evtail = ((s.ctx n).evtail + 64) % (s.ctx n).evsize ∧ ((s.record n r).ctx n).evseq = (s.ctx n).evseq + 1 ∧
      ((s.record n r).ctx n).evDrop = 0 ∧ (s.record n r).cores = s.cores ∧
      (∀ i < 8, leNat ((s.record n r).ms.peekBytes (physPlace ((s.ctx n).evbase + (s.ctx n).evtail + 8 * i)) 8) % 2 ^ 64 =
        ([(s.ctx n).evDrop * 2 ^ 48 + (s.ctx n).evseq % 2 ^ 16 * 2 ^ 32 + n * 2 ^ 12 + r.kind, r.d1.toNat, r.d2.toNat, r.d3.toNat, r.d4.toNat, 0, 0,
          0].getD i 0) % 2 ^ 64)) ∧
    (((s.ctx n).evsize = 0 ∨ (s.ctx n).evHeld ≠ [] ∨ ((s.ctx n).evtail + 64) % (s.ctx n).evsize = (s.ctx n).evhead) →
      ((r.kind < 6 ∨ (s.ctx n).evHeld.length < 16) → s.record n r = s.modCtx n (fun x => { x with evHeld := x.evHeld ++ [r] })) ∧
      (6 ≤ r.kind → 16 ≤ (s.ctx n).evHeld.length → s.record n r = s.modCtx n (fun x => { x with evDrop := min (x.evDrop + 1) 0xFFFF })))

/-- The curtain (15 R277, R278; 16 R300): a W4 of the list that is LOADED with the launch's generation, and whose channel ends all join, enters CURTAIN and reports
its arrival, any other reports a fault; it forwards the packet as the list's tree says. A fault before the rise, or the timeout, makes the curtain fall at the
root, whose packet is rejected and whose owner hears of it; a fall goes down the tree, leaves a context that stands in this curtain LOADED, and is recorded.
The tree, and that a W4 checks its joins when the packet reaches it, are the model's (log entry 46); a fault counts only before the rise (log entry 89). Says
that CURTAIN_MESSAGE, CURTAIN_REPORT, CURTAIN_FALL and CURTAIN_TIMEOUT complete. -/
def Claim.CurtainMessages : Prop :=
  ∀ (s : State) (x w : Nat) (gen : BitVec 32) (start : BitVec 56) (tag0 mbnm1 : BitVec 16) (root : BitVec 32) (others w4s : List (BitVec 32)) (l : Launch)
    (err : BitVec 8) (w4 : BitVec 24) (joins : List ChannelJoin), s.who = .device →
    (s.mod.ready = false → exec (.curtainMessage x gen start tag0 mbnm1 ⟨root :: others, joins⟩) s = .next s) ∧
    (∀ u, s.mod.ready = true → u = s.forwardLaunch gen start tag0 mbnm1 (root :: others) →
      (x < 16 → (s.ctx x).st = .loaded → (s.ctx x).gen = gen.toNat → (s.ctx x).joinFault joins = false →
        exec (.curtainMessage x gen start tag0 mbnm1 ⟨root :: others, joins⟩) s = .next ((u.modCtx x (fun c => { c with st := .curtain, launch := some (
          { start := start.toNat, mbn := mbnm1.toNat + 1, tag0 := tag0.toNat, cto := 0, gen := gen.toNat, w4s := root :: others, arrived := []
            began := s.now, joins := joins } : Launch) })).send (.report root false))) ∧
      ((16 ≤ x ∨ (s.ctx x).st ≠ .loaded ∨ (s.ctx x).gen ≠ gen.toNat ∨ (s.ctx x).joinFault joins = true) →
        exec (.curtainMessage x gen start tag0 mbnm1 ⟨root :: others, joins⟩) s = .next (u.send (.report root true)))) ∧
    (forwards w4s s.mod.self = match w4s.findIdx? (fun e => e.toNat % 2 ^ 24 == s.mod.self) with | some i => (w4s.drop (6 * i + 1)).take 6 | none => []) ∧
    ((s.ctx x).launch = some l → (s.ctx x).st = .curtain → s.isRoot l = true →
      exec (.curtainReport x w false) s = .next (s.modCtx x (fun c => { c with launch := some { l with arrived := (l.arrived ++ [w]).eraseDups } })) ∧
      exec (.curtainReport x w true) s = .next (s.fallAtRoot x 7 w) ∧
      (l.began + l.cto * 3300000 ≤ s.now → exec (.curtainTimeout x) s = .next (s.fallAtRoot x 8 s.mod.self)) ∧
      (s.now < l.began + l.cto * 3300000 → exec (.curtainTimeout x) s = .next s) ∧
      (∀ code, s.fallAtRoot x code w = (forwards l.w4s s.mod.self).foldl (fun s e => s.send (.fall e code w l.w4s))
        (((s.modCtx x (fun c => { c with st := .loaded, launch := none, lrhead := l.offset })).rejectPacket x code).record x
          ⟨5, BitVec.ofNat 64 code, 0, 0, BitVec.ofNat 64 w⟩))) ∧
    (((s.ctx x).launch = none ∨ (s.ctx x).st ≠ .curtain ∨ (∃ l, (s.ctx x).launch = some l ∧ s.isRoot l = false)) →
      (∀ b, exec (.curtainReport x w b) s = .next s) ∧ exec (.curtainTimeout x) s = .next s) ∧
    ((s.mod.ready = false ∨ 16 ≤ x ∨ (w4s.map w4Coord).head? = some s.mod.self) → exec (.curtainFall x err ⟨w4, w4s⟩) s = .next s) ∧
    (∀ u, s.mod.ready = true → x < 16 → (w4s.map w4Coord).head? ≠ some s.mod.self →
      u = (forwards w4s s.mod.self).foldl (fun s e => s.send (.fall e err.toNat w4.toNat w4s)) s →
      ((s.ctx x).st = .curtain → (s.ctx x).launch = some l → l.w4s = w4s → exec (.curtainFall x err ⟨w4, w4s⟩) s =
        .next ((u.modCtx x (fun c => { c with st := .loaded, launch := none })).record x ⟨5, err.zeroExtend 64, 0, 0, w4.zeroExtend 64⟩)) ∧
      (((s.ctx x).st ≠ .curtain ∨ (s.ctx x).launch = none ∨ ((s.ctx x).launch = some l ∧ l.w4s ≠ w4s)) → exec (.curtainFall x err ⟨w4, w4s⟩) s =
        .next (u.record x ⟨5, err.zeroExtend 64, 0, 0, w4.zeroExtend 64⟩)))

/-- The rise (15 R277, R278; 16 R300): at the root, once every W4 has arrived and every channel end of the root joins, the context is RUNNING, every sequencer of it
runs at START with zero registers, out of handler mode, and the head goes on; before that nothing happens; a join fault makes it fall. Another W4 of the list
rises when it hears of it, with the channel ends of the message that raised its curtain. The rise goes down the list's tree (log entry 46). Says that
CURTAIN_RISE completes. -/
def Claim.CurtainRise : Prop :=
  ∀ (s : State) (x : Nat) (l : Launch) (joins : List ChannelJoin) (on : State → State), s.who = .device → (s.ctx x).launch = some l →
    (∀ u : State, on u = (forwards l.w4s u.mod.self).foldl (fun u e => u.send (.rise e)) u) →
    ((s.ctx x).st ≠ .curtain → exec (.curtainRise x joins) s = .next s) ∧
    ((s.ctx x).st = .curtain → s.isRoot l = false → exec (.curtainRise x joins) s = .next (on (s.rise x l l.joins))) ∧
    ((s.ctx x).st = .curtain → s.isRoot l = true →
      ((∃ e ∈ l.w4s, l.arrived.contains (w4Coord e) = false) → exec (.curtainRise x joins) s = .next s) ∧
      ((∀ e ∈ l.w4s, l.arrived.contains (w4Coord e) = true) →
        ((s.ctx x).joinFault joins = true → exec (.curtainRise x joins) s = .next (s.fallAtRoot x 7 s.mod.self)) ∧
        ((s.ctx x).joinFault joins = false → exec (.curtainRise x joins) s = .next (on ((s.rise x l joins).headOn x))))) ∧
    (∀ u, u = s.rise x l joins →
      (u.ctx x).st = .running ∧ (u.ctx x).launch = some l ∧ (u.ctx x).preempting = false ∧ (u.ctx x).lrhead = (s.ctx x).lrhead ∧
      (∀ c ∈ (s.ctx x).coreList, (u.core c).run = .on ∧ (u.core c).pc = BitVec.ofNat 56 l.start ∧ (u.core c).handler = false ∧
        (∀ r, (u.core c).reg r = 0 ∧ (u.core c).pois r = false) ∧ (u.core c).checkQ = [] ∧ (u.core c).wait = none) ∧
      ((∀ g, ∀ e ∈ (s.mset x g).waiters, e.1 ∈ (s.ctx x).coreList) → ∀ c, c ∉ (s.ctx x).coreList → u.core c = s.core c) ∧
      (∀ y, y ≠ x → u.ctx y = s.ctx y) ∧ u.ms = s.ms ∧ u.outbox = s.outbox) ∧
    (∀ i, (s.ctx x).lrsize ≠ 0 → i = ((s.ctx x).lrhead + 64) % (s.ctx x).lrsize →
      s.headOn x = (s.modCtx x (fun c => { c with lrhead := i })).scanRing x)

/-- Changes of the table and debug halts (20 R341, R342; 24 R384): an LTTCMD write puts the staged entry where the rules allow it, a removal is accepted in LOADED, a resume
releases every waiting PROBE; anything else is refused, a value with another bit set or with two of the three commands among it (log entry 97); DBGCTL halts
or resumes the cores that it names in RUNNING, each of its bits by itself (the reading of log entry 66). Says that LTTCMD_WRITE, LTTCMD_REMOVE,
LTTCMD_RESUME, DBGCTL_HALT and DBGCTL_RESUME complete. -/
def Claim.TableChangesAndDebugHalts : Prop :=
  ∀ (s : State) (x : Nat) (v : BitVec 64), s.who = .device → s.mod.ready = true → x < 16 →
    (lttCommand v.toNat = some 12 →
      (∀ t, s.lttWrite x (slice v.toNat 11 0) = some t →
        exec (.lttcmdWrite x v) s = .next ((s.modCtx x (fun c => { c with ltt := t })).modCtx x (fun c => { c with lttRefused := false }))) ∧
      (s.lttWrite x (slice v.toNat 11 0) = none → exec (.lttcmdWrite x v) s = .next (s.modCtx x (fun c => { c with lttRefused := true })))) ∧
    (lttCommand v.toNat = none → exec (.lttcmdWrite x v) s = .next (s.modCtx x (fun c => { c with lttRefused := true }))) ∧
    (lttCommand v.toNat = some 13 →
      ((s.ctx x).st = .loaded → exec (.lttcmdRemove x v) s = .next ((s.modCtx x (fun c =>
        { c with ltt := Tbl.erase (slice v.toNat 11 0) c.ltt })).modCtx x (fun c => { c with lttRefused := false }))) ∧
      ((s.ctx x).st ≠ .loaded → exec (.lttcmdRemove x v) s = .next (s.modCtx x (fun c => { c with lttRefused := true })))) ∧
    (lttCommand v.toNat = some 16 → ∃ t, exec (.lttcmdResume x v) s = .next t ∧ (t.ctx x).probes = [] ∧ (t.ctx x).lttRefused = false ∧ t.ms = s.ms ∧
      (∀ c ∈ (s.ctx x).probes, ∀ a u r, (s.core c).wait = some ⟨.probe a, u, r⟩ → (t.core c).wait = none) ∧
      (∀ c, (t.core c).pc = (s.core c).pc ∧ (t.core c).regs = (s.core c).regs) ∧ (∀ c, c ∉ (s.ctx x).probes → t.core c = s.core c)) ∧
    (lttCommand v.toNat ≠ some 12 → lttCommand v.toNat ≠ none → exec (.lttcmdWrite x v) s = .next s) ∧
    ((bitAt v.toNat 0 = false ∨ (s.ctx x).st ≠ .running) → exec (.dbgctlHalt x v) s = .next s) ∧
    ((bitAt v.toNat 1 = false ∨ (s.ctx x).st ≠ .running) → exec (.dbgctlResume x v) s = .next s) ∧
    (bitAt v.toNat 0 = true → (s.ctx x).st = .running → exec (.dbgctlHalt x v) s = .next ((((s.ctx x).named v).foldl (fun s c => s.haltCore x c) s).endLaunch x)) ∧
    (bitAt v.toNat 1 = true → (s.ctx x).st = .running → exec (.dbgctlResume x v) s = .next (((s.ctx x).named v).foldl (fun s c => s.unhaltCore x c) s)) ∧
    (∀ c, ((s.haltCore x c).core c).debug = true ∧ ((s.core c).run = .on → (s.core c).wait = none → ((s.haltCore x c).core c).run = .halted) ∧
      ((s.core c).wait = none → ((s.haltCore x c).core c).pc = (s.core c).pc ∧ ((s.haltCore x c).core c).regs = (s.core c).regs))

/-! ### Events: the loss of a context, links, the module -/

/-- The loss of a context (24 R389): its state ends and STATE is EMPTY, its cores are free and hold nothing of it, its table, rings, sets, stages and launch are gone;
the page of every poisoned line that was consumed is retired; a loss that another W4 reports ends the context's part here. Says that LOSS_MESSAGE completes. -/
def Claim.ContextLoss : Prop :=
  ∀ (s : State) (n cause w4 : Nat) (pages : List Nat) (addr core : BitVec 64) (t : State), t = s.loseContext n cause addr core pages w4 →
    (t.ctx n).st = .empty ∧ (t.ctx n).ltt = [] ∧ (t.ctx n).rings = [] ∧ (t.ctx n).sets = [] ∧ (t.ctx n).stages = [] ∧ (t.ctx n).launch = none ∧
    (t.ctx n).coreList = [] ∧ (t.ctx n).stash = [] ∧
    (∀ c ∈ (s.ctx n).coreList, s.holder c = some n → t.holder c = none ∧ (t.core c).regs = [] ∧ (t.core c).queues = [] ∧ (t.core c).sems = [] ∧
      (t.core c).run = .off ∧ (t.core c).cycle = (s.core c).cycle) ∧
    (∀ y, (t.ctx y).st = (if y = n then .empty else (s.ctx y).st)) ∧
    (∀ k, NatSet.has t.ms.retired k = true ↔ NatSet.has s.ms.retired k = true ∨ ∃ p ∈ pages, k = p / 4096) ∧
    (∀ l w, (s.ctx n).launch = some l → (l.w4s.any (fun e => w4Coord e == w.toNat)) = true → s.who = .device →
      ((s.ctx n).st = .curtain ∨ (s.ctx n).st = .running ∨ (s.ctx n).st = .saved) →
      exec (.lossMessage n w) s = .next (s.loseContext n 16 0 0 [] w.toNat)) ∧
    (∀ w, s.who = .device → ((s.ctx n).st = .empty ∨ (s.ctx n).st = .loaded) → exec (.lossMessage n w) s = .next s)

/-- The links (22 R360-R362, R369): a flit is a header of 8 bytes, 240 of payload and their CRC-64; one whose CRC holds is delivered here or on its
way; one that fails is rejected, with every flit after it until it is replayed; the sixteenth failure in a row takes the link down (log entry 67): what was not
acknowledged is never delivered, and each W4 of a launch beyond it counts as failed. Traffic goes in X, then Y, then Z, the shorter way, on a tie plus. Ports,
header fields and filling are the model's (log entry 92). Says that FLIT_RECEIVE and LINK_DOWN complete. -/
def Claim.FlitsAndRoutes : Prop :=
  ∀ (s : State) (p h : Nat) (flit : List (BitVec 8)) (v : Port), s.who = .device → v = s.port p →
    ((s.mod.ready = false ∨ v.down = true ∨ (v.rejects = true ∧ Config.flitReplayed (leNat (flit.take 8)) = false)) →
      exec (.flitReceive p flit) s = .next s) ∧
    (s.mod.ready = true → v.down = false → (v.rejects = false ∨ Config.flitReplayed (leNat (flit.take 8)) = true) →
      (flit.length = 256 → crc64 (flit.take 248) = leNat (flit.drop 248) → exec (.flitReceive p flit) s =
        .next ((s.setPort p (({ v with fails := 0, rejects := false } : Port).heard (leNat (flit.take 8)))).deliverFlit p flit)) ∧
      ((flit.length ≠ 256 ∨ crc64 (flit.take 248) ≠ leNat (flit.drop 248)) →
        (v.fails < 15 → exec (.flitReceive p flit) s = .next (s.setPort p { v with fails := v.fails + 1, rejects := true })) ∧
        (15 ≤ v.fails → exec (.flitReceive p flit) s =
          .next ((s.setPort p { v with fails := v.fails + 1, rejects := true }).portDown p [] [])))) ∧
    ((6 ≤ p ∨ s.routeTo (Config.flitFor (leNat (flit.take 8))) = none) →
      s.deliverFlit p flit = s.setPort p { v with got := v.got ++ [(flit.drop 8).take 240] }) ∧
    (∀ o, p < 6 → s.routeTo (Config.flitFor (leNat (flit.take 8))) = some o → s.deliverFlit p flit = s.sendFlit o ((flit.drop 8).take 240)) ∧
    (∀ payload, payload.length = 240 →
      (flitOf h payload).length = 256 ∧ crc64 ((flitOf h payload).take 248) = leNat ((flitOf h payload).drop 248) ∧
      ((flitOf h payload).drop 8).take 240 = payload) ∧
    (∀ bytes, (∀ c ∈ payloadsOf bytes, c.length = 240) ∧ (payloadsOf bytes).flatten.take bytes.length = bytes) ∧
    (∀ payload, (v.down = true → s.sendFlit p payload = s) ∧
      (v.down = false → ∃ f, ((s.sendFlit p payload).port p).wire = v.wire ++ [f] ∧ ((s.sendFlit p payload).port p).replay = v.replay ++ [f])) ∧
    (∀ lost ranks u, u = s.setPort p { v with down := true, replay := [] } →
      exec (.linkDown p lost ranks) s = .next (((u.beyond p ++ lost.map BitVec.toNat).eraseDups).foldl (fun t w => t.loseW4 w ranks) u)) ∧
    (∀ w, w ∈ s.beyond p ↔ ∃ n < 16, ∃ l, (s.ctx n).launch = some l ∧ ∃ e ∈ l.w4s, e.toNat % 2 ^ 24 = w ∧ s.routeTo w = some p) ∧
    (∀ w : BitVec 24, (∀ x < 16, (s.ctx x).launch = none) → ∃ t, exec (.linkDown p [w] []) s = .next t ∧ (t.port p).down = true ∧ (t.port p).replay = [] ∧
      NatSet.has t.mod.failed w.toNat = true ∧ t.ms = s.ms ∧ t.cores = s.cores ∧ t.ctxs = s.ctxs) ∧
    (∀ (size : Nat → Nat) (a b d : Nat), d < 3 → (∀ e < d, w4Axis a e = w4Axis b e) → w4Axis a d < size d → w4Axis b d < size d →
      (w4Axis a d ≠ w4Axis b d → route size a b = some (2 * d + (if (w4Axis b d + size d - w4Axis a d) % size d ≤
        (w4Axis a d + size d - w4Axis b d) % size d then 0 else 1)))) ∧
    (∀ (size : Nat → Nat) (a b : Nat), (∀ e < 3, w4Axis a e = w4Axis b e) → route size a b = none)

/-- Homes, the L2 and the host (22 R364, R368, R369; 13 R252-R255; 12 R247): a home performs another W4's store, after the pending stores it covers, and
acknowledges it no earlier than its time, if that W4 has not failed; it answers a read with the line under a lease, unless a lane repair holds it; an expired lease drops its
copy; the host reads and writes HBM at one point of the order. Says that REMOTE_ACCESS_AT_HOME, LEASE_EXPIRY, DIRTY_SECTOR_WRITE_BACK and
HOST_MEM_ACCESS complete. -/
def Claim.LinksHomeAndHost : Prop :=
  ∀ (s : State) (line sector addr w4 ts : Nat) (data : List (BitVec 8)), s.who = .device →
    (∀ m, m = s.performMet none [(addr, data.length)] → s.mod.ready = true → NatSet.has s.mod.failed w4 = false →
      s.ms.pausedIn (physPlace addr) data.length = false → ∃ u ts', exec (.remoteAccessAtHome (.store w4 addr ts data)) s = .next u ∧
      u.ms = m.ms.storeOrd (physPlace addr) data (s.seqNo + 1) 0 ∧ u.seqNo = s.seqNo + 1 ∧ ts ≤ ts' ∧
      u.outbox = s.outbox ++ [.storeAck w4 ts'] ∧ u.cores = m.cores ∧ u.ctxs = s.ctxs) ∧
    ((s.mod.ready = false ∨ NatSet.has s.mod.failed w4 = true ∨ s.ms.pausedIn (physPlace addr) data.length = true) →
      exec (.remoteAccessAtHome (.store w4 addr ts data)) s = .next s) ∧
    (∀ l d, l = addr / 64 * 64 → d = ({ s with stamps := s.stamps.put (.line l) ((s.stamps.get (.line l)).load ts).1 } : State).readPlace .device (physPlace l) 64 →
      s.mod.ready = true → NatSet.has s.mod.failed w4 = false → s.ms.pausedIn (physPlace l) 64 = false →
      exec (.remoteAccessAtHome (.read w4 addr ts)) s =
        .next (d.2.send (.lease w4 l d.1 (d.2.stamps.get (.line l)) (d.2.ms.poisoned (physPlace l)))) ∧ ts ≤ ((s.stamps.get (.line l)).load ts).1.rts) ∧
    ((s.mod.ready = false ∨ NatSet.has s.mod.failed w4 = true ∨ s.ms.pausedIn (physPlace (addr / 64 * 64)) 64 = true) →
      exec (.remoteAccessAtHome (.read w4 addr ts)) s = .next s) ∧
    (exec (.leaseExpiry line) s = .next { s with ms := { s.ms with leases := s.ms.leases.filter (fun l => l.line != line) } }) ∧
    (s.ms.heldDirty sector = false → exec (.dirtySectorWriteBack sector) s = .next { s with ms := s.ms.clean sector }) ∧
    (s.ms.heldDirty sector = true → exec (.dirtySectorWriteBack sector) s = .next s) ∧
    (∀ m, m = s.performMet none [(addr, data.length)] → s.mod.ready = true → s.ms.pausedIn (physPlace addr) data.length = false →
      isHbm (addr + (data.length - 1)) = true →
      exec (.hostMemAccess true addr data) s = .next (({ m with
        ms := m.ms.storeOrd (physPlace addr) data (s.seqNo + 1) 0, seqNo := s.seqNo + 1 } : State).stampStoreLines .device addr data.length) ∧
      exec (.hostMemAccess false addr data) s = .next ((s.readPlace .device (physPlace addr) data.length).2.send
        (.data (2 ^ 24) (s.readPlace .device (physPlace addr) data.length).1))) ∧
    ((s.mod.ready = false ∨ isHbm (addr + (data.length - 1)) = false ∨ s.ms.pausedIn (physPlace addr) data.length = true) →
      exec (.hostMemAccess true addr data) s = .next s ∧ exec (.hostMemAccess false addr data) s = .next s)

/-- Writing a sector back loses nothing (04 R106, 12 R247, 18 R321): the sector is clean afterwards and holds the same bytes. Under no method, every plain
place reads as before, and the memory behind the L2 now holds the sector's bytes. Under methods 1-3, the write stays inside the sector's block of 4 KiB and
its metadata word, and the block behind the L2 now expands to the old block with the sector's bytes in it. -/
def Claim.WriteBackKeepsBytes : Prop :=
  ∀ (m : MemSys) (sector : Nat) (sec : Sector) (q : Place), Tbl.get none m.l2 sector = some sec → sec.data.length = 32 →
    (∀ sec', Tbl.get none (m.clean sector).l2 sector = some sec' → sec'.dirty = false ∧ sec'.data = sec.data) ∧
    (codecMethod sec.comp = false → (codecMethod q.comp = false → (m.clean sector).peek q = m.peek q) ∧
      (sec.dirty = true → codecMethod q.comp = false → q.key / 32 = sector → ((m.clean sector).drop sector).peek q = m.peek q)) ∧
    (codecMethod sec.comp = true → (m.block (32 * sector) sec.md).isSome = true →
      (codecMethod q.comp = false → (q.key < 32 * sector / 4096 * 4096 ∨ 32 * sector / 4096 * 4096 + 4096 ≤ q.key) →
        (q.key < sec.md ∨ sec.md + 8 ≤ q.key) → (m.clean sector).peek q = m.peek q) ∧
      (sec.dirty = true → q.comp = sec.comp → q.md = sec.md →
        (sec.md + 8 ≤ 32 * sector / 4096 * 4096 ∨ 32 * sector / 4096 * 4096 + 4096 ≤ sec.md) → q.key / 4096 = 32 * sector / 4096 →
        ((m.clean sector).drop sector).peek q = m.peek q))

/-- Compression loses nothing (18 R319-R322): a block of 4 KiB written under a method m of 0-3 takes the sectors that its metadata word counts, the word
carries METH m and the CRC of the block, and the codec expands it to the same bytes. For sixteen distinct high bytes the place of the index plane is the
model's own (log entry 73). -/
def Claim.CompressionRoundTrips : Prop :=
  ∀ (m : Nat) (bs space : List (BitVec 8)), m ≤ 3 → bs.length = 4096 →
    (compressBlock m bs).1.length = 256 * (16 - (compressBlock m bs).2 / 4 % 16) ∧ (compressBlock m bs).2 % 4 = m ∧
    (compressBlock m bs).2 / 64 = crc64 bs / 64 ∧
    (space.take (compressBlock m bs).1.length = (compressBlock m bs).1 → expandBlock space (compressBlock m bs).2 = some bs)

/-- The module (22 R367-R369; 25 R396-R400): reset leaves READY set only with a signed image, a configuration and a copy of the wear records that are good, every
context EMPTY and every core free, with flash's records and the states as they stood (log entries 18, 93). A lane repair uses
up one of its stack's; its channel pauses meanwhile. A clock change ends with the lower clock; power loss keeps what flash
holds. Says that MODULE_RESET, POWER_LOSS, WEAR_FLASH_WRITE, LANE_REPAIR, LANE_REPAIR_DONE, CLOCK_CHANGE_START and CLOCK_CHANGE_COMPLETE complete. -/
def Claim.ModuleEvents : Prop :=
  ∀ (s : State), s.who = .device →
    (∀ fw : Bringup, (fw.fwOk = false ∨ fw.cfgOk = false ∨ (fw.newerOk = false ∧ fw.olderOk = false)) → ∃ t, exec (.moduleReset fw) s = .next t ∧
      t.mod.ready = false ∧ t.mod.fwerr = true ∧ t.mod.idok = (fw.fwOk && fw.idOk) ∧ t.cores = [] ∧ t.ctxs = [] ∧
      t.mod.flash = s.keepStates s.mod.flash ∧ t.mod.flashB = s.keepStates s.mod.flashB ∧ t.mod.lrep = s.mod.lrep) ∧
    (∀ fw : Bringup, fw.fwOk = true → fw.cfgOk = true → (fw.newerOk = true ∨ fw.olderOk = true) → ∃ t, exec (.moduleReset fw) s = .next t ∧
      t.mod.ready = true ∧ t.mod.fwerr = false ∧ t.mod.idok = fw.idOk ∧ t.mod.caps = true ∧ t.mod.image = fw.image ∧ t.ctxs = [] ∧
      (t.mod.repl = true ↔ (∃ k < 8, s.mod.lrep.getD k 0 = 0) ∨ ∃ d < 2, t.sparesLeft d = 0 ∧ bootReplaced t.mod.wrec d ≠ []) ∧
      (∀ c, (t.core c).holder = none ∧ (t.core c).run = .off) ∧ (∀ c < 136, (t.core c).derated = (t.wrec c).slow) ∧
      t.mod.flash = s.keepStates s.mod.flash ∧ t.mod.flashB = s.keepStates s.mod.flashB ∧ t.mod.lrep = s.mod.lrep ∧
      (∀ c < 136, t.wrec c = bootWrec (s.keepStates (if fw.newerOk then s.mod.flash else s.mod.flashB)) fw.enabled c ∧
        NatSet.has t.mod.off c = (decide (c < 128) && !fw.enabled.contains c)) ∧
      (∀ p, (t.port p).down = fw.down.contains p)) ∧
    (∀ copy, (s.mod.ready = false → s.keepStates copy = copy) ∧ (s.mod.ready = true → ∀ c < 136, ∃ w, (s.keepStates copy).lookup c = some w ∧
      w.wbt = ((copy.lookup c).getD {}).wbt ∧ w.wem = ((copy.lookup c).getD {}).wem ∧ w.st = (s.wrec c).st ∧ w.susp = (s.wrec c).susp ∧
      w.alarm = (s.wrec c).alarm)) ∧
    (∃ t, exec .powerLoss s = .next t ∧ t.mod.powered = false ∧ t.mod.ready = false ∧ t.ms.mem = [] ∧ t.ms.retired = s.ms.retired ∧
      t.mod.flash = s.keepStates s.mod.flash ∧ t.mod.flashB = s.keepStates s.mod.flashB ∧ t.mod.lrep = s.mod.lrep) ∧
    (s.mod.ready = true → ∃ t, exec .wearFlashWrite s = .next t ∧ t.mod.flashB = s.mod.flash ∧ (∀ c < 136, t.mod.flash.lookup c = some (s.wrec c)) ∧
      t.cores = s.cores ∧ t.ctxs = s.ctxs ∧ t.ms = s.ms) ∧
    (s.mod.ready = false → exec .wearFlashWrite s = .next s) ∧
    (∀ k c, k < 8 → s.mod.lrep.length = 8 → (s.mod.lrep.getD k 0 = 0 → exec (.laneRepair k c) s = .next s) ∧
      (0 < s.mod.lrep.getD k 0 → ∃ t, exec (.laneRepair k c) s = .next t ∧ t.mod.lrep.getD k 0 = s.mod.lrep.getD k 0 - 1 ∧
        (∀ j, j ≠ k → t.mod.lrep.getD j 0 = s.mod.lrep.getD j 0) ∧ (s.mod.lrep.getD k 0 = 1 → t.mod.repl = true) ∧
        t.ms = { s.ms with paused := s.ms.paused ++ [(k, c)] } ∧ t.cores = s.cores ∧ t.ctxs = s.ctxs)) ∧
    (∀ k c u, u = ({ s with ms := { s.ms with paused := s.ms.paused.filter (· != (k, c)) } } : State) →
      exec (.laneRepairDone k c) s = .next u.afterRepair ∧
      ((∀ e ∈ s.cores, e.2 = s.core e.1 ∧ e.2.checkQ = [] ∧ e.2.stores = [] ∧ ∀ i < 4, Tbl.get [] e.2.vec.stores i = []) → u.afterRepair = u)) ∧
    (∀ c, (s.clockDue c = true ↔ (s.wrec c).slow = true ∧ (s.core c).derated = false ∧ (s.core c).clkBusy = false ∧ (s.core c).share = none ∧
        ((s.core c).idle = true ∨ (s.core c).run ≠ .on) ∧ ∀ e ∈ s.ctxs, (Tbl.get Core.reset e.2.saved c).share = none) ∧
      (s.clockDue c = true → exec (.clockChangeStart c) s = .next (s.modCore c (fun co => { co with clkBusy := true }))) ∧
      (s.clockDue c = false → exec (.clockChangeStart c) s = .next s)) ∧
    (∀ c, (s.core c).clkBusy = true → exec (.clockChangeComplete c) s =
      .next (s.modCore c (fun co => { co with clkBusy := false, derated := true })))

/-- A wear sample (25 R394-R398, R402): an enabled core adds what the formulas give: 1 WU an hour at reference values, twice as much 10 °C (8 °C) higher; irrational powers are cut (log entry 11). Its state follows 80,000, 95,000, 100,000 WU and its alarm at this sample (log entry 62), forward only; the wear
is charged to the context that held the core. Says that WEAR_SAMPLE completes. -/
def Claim.WearSamples : Prop :=
  ∀ (s : State) (r : WearReading) (w1 : Wrec), s.who = .device → s.mod.ready = true →
    exec (.wearSample []) s = .next s.retireFree ∧
    exec (.wearSample []) { s with mod := { s.mod with ready := false } } = .next { s with mod := { s.mod with ready := false } } ∧
    (((s.wrec r.core).st.enabled = false ∨ NatSet.has s.mod.off r.core = true) → exec (.wearSample [r]) s = .next s.retireFree) ∧
    (r.temp = 85000 → r.volt = 750 → r.dt = 3600 * 10 ^ 9 → (r.duty = 10 ^ 6 → sampleWbt r = wearUnit) ∧ (r.rho = 10 ^ 6 → sampleWem r = wearUnit)) ∧
    (∀ k : Int, -64 ≤ k → k ≤ 64 → (r.temp = 85000 + 10000 * k → sampleWbt r = r.dt * r.duty * r.volt ^ 4 * 10 ^ 6 * 2 ^ (128 + k).toNat) ∧
      (r.temp = 85000 + 8000 * k → sampleWem r = r.dt * r.rho ^ 2 * 750 ^ 4 * 2 ^ (128 + k).toNat)) ∧
    ((s.wrec r.core).st.enabled = true → NatSet.has s.mod.off r.core = false →
    w1 = { s.wrec r.core with
      wbt := (s.wrec r.core).wbt + sampleWbt r, wem := (s.wrec r.core).wem + sampleWem r
      alarm := (s.wrec r.core).alarm || sampleAlarm r } →
    (w1.next.rank = max (s.wrec r.core).st.rank
      (if w1.alarm = true ∨ 100000 * wearUnit ≤ w1.wear then 3 else if w1.susp = true ∨ 95000 * wearUnit ≤ w1.wear then 2
        else if 80000 * wearUnit ≤ w1.wear then 1 else 0)) ∧
    (w1.move.st = w1.next ∧ w1.move.slow = (w1.slow || (w1.st != w1.next && w1.next == .derated))) ∧
    (w1.next = (s.wrec r.core).st → w1.slow = false → ∃ t : State, exec (.wearSample [r]) s = .next t.retireFree ∧ t.ms = s.ms ∧
      (∀ c, c ≠ r.core → t.core c = s.core c) ∧ t.core r.core = { s.core r.core with used := [] } ∧
      (t.wrec r.core).wbt = w1.wbt ∧ (t.wrec r.core).wem = w1.wem ∧ (t.wrec r.core).alarm = w1.alarm ∧
      (∀ x n, (((s.core r.core).used = [] ∧ s.holder r.core = some x) ∨ ((s.core r.core).used = [(x + 1, n)] ∧ 0 < n)) →
        (t.ctx x).wacc = (s.ctx x).wacc + (w1.wear - (s.wrec r.core).wear))))

end Sys2Proof

/-! ### The statements -/

/-- A step runs the instruction that is decoded where its agent stands, and an unassigned sequencer word is an illegal instruction. -/
def Obligations.StepRunsTheDecodedInstruction : Prop :=
  Sys2Proof.Claim.StepRunsTheDecodedInstruction ∧ Sys2Proof.Claim.UnassignedSequencerWordIsIllegal

/-- Words written out from the encoding tables decode to their instructions. -/
def Obligations.WordsFromTheTablesDecode : Prop :=
  Sys2Proof.Claim.WordsFromTheTablesDecode

/-- Every well-formed sequencer word, vector word with its prefixes, and step word decodes from its encoding. -/
def Obligations.WordsRoundTrip : Prop :=
  Sys2Proof.Claim.SequencerWordsRoundTrip ∧ Sys2Proof.Claim.VectorWordsRoundTrip ∧ Sys2Proof.Claim.StepWordsRoundTrip

/-- The machine after module reset, which meets the invariant. -/
def Obligations.ResetState : Prop :=
  Sys2Proof.Claim.ResetState ∧ Sys2Proof.Claim.InvariantAtReset

/-- Every step keeps memory in its canonical form and every L2 sector at 32 bytes. -/
def Obligations.EveryStepKeepsTheInvariant : Prop :=
  Sys2Proof.Claim.EveryStepKeepsTheInvariant

/-- No instruction is refused, and every turn of an agent answers a next state. -/
def Obligations.EveryTurnAnswersANextState : Prop :=
  Sys2Proof.Claim.NoInstructionIsRefused ∧ Sys2Proof.Claim.EveryTurnAnswersANextState

/-- The sequencer's registers: s0 reads zero, a write changes one register and its poison. -/
def Obligations.SequencerRegisters : Prop :=
  Sys2Proof.Claim.SequencerRegisters

/-- The integer group computes the table's results and changes nothing else. -/
def Obligations.IntegerGroupFollowsTheTable : Prop :=
  Sys2Proof.Claim.IntegerGroupFollowsTheTable

/-- The words with an immediate, alone and under PFX.I, and the wait for outstanding results. -/
def Obligations.ImmediateWords : Prop :=
  Sys2Proof.Claim.ImmediateWordsFollowTheTable ∧ Sys2Proof.Claim.PrefixedImmediateWords ∧ Sys2Proof.Claim.IntegerWordsWaitForResults

/-- Branches and jumps form their targets and link; where they trap or lose the context. -/
def Obligations.BranchesAndJumps : Prop :=
  Sys2Proof.Claim.BranchesAndJumps ∧ Sys2Proof.Claim.MisalignedJumpTraps

/-- Taking a trap, the words NOP, TRAP and HALT, and the return from the handler. -/
def Obligations.TrapsAndReturn : Prop :=
  Sys2Proof.Claim.TakingATrap ∧ Sys2Proof.Claim.NopTrapHalt ∧ Sys2Proof.Claim.ReturnFromTheHandler

/-- Reads and writes of the system registers. -/
def Obligations.SystemRegisters : Prop :=
  Sys2Proof.Claim.SystemRegisters

/-- Loads, the return of their data, and the address checks of loads and stores. -/
def Obligations.LoadsReadMemory : Prop :=
  Sys2Proof.Claim.LoadsReadMemory ∧ Sys2Proof.Claim.LoadsLeaveTheRest ∧ Sys2Proof.Claim.LoadDataReturn ∧ Sys2Proof.Claim.AddressChecksOfLoadsAndStores

/-- Ordinary reads return what stands in memory and leave it; ordinary stores change exactly their bytes. -/
def Obligations.OrdinaryMemory : Prop :=
  Sys2Proof.Claim.OrdinaryReadsLeaveMemory ∧ Sys2Proof.Claim.OrdinaryStoresWriteTheirBytes

/-- Stores of a sequencer, and how pending stores complete. -/
def Obligations.StoresWriteMemory : Prop :=
  Sys2Proof.Claim.StoresWriteMemory ∧ Sys2Proof.Claim.StoresArePending ∧ Sys2Proof.Claim.PendingStoresComplete ∧ Sys2Proof.Claim.RemoteStoresGoOneByOne

/-- Staging buffers, CLEAN and INVAL, PROBE and PTEST. -/
def Obligations.StagingCachesAndProbes : Prop :=
  Sys2Proof.Claim.StagingBuffers ∧ Sys2Proof.Claim.CleanAndInvalidate ∧ Sys2Proof.Claim.ProbeAndTest

/-- Semaphore words: issue, PFX.C, effects, counts and releases. -/
def Obligations.Semaphores : Prop :=
  Sys2Proof.Claim.SemaphoreWordsIssue ∧ Sys2Proof.Claim.PrefixedSemaphoreWord ∧ Sys2Proof.Claim.CheckedWordsEnter ∧ Sys2Proof.Claim.SemaphoreEffects ∧ Sys2Proof.Claim.SemaphoreCountAndRelease

/-- Results of checked words reach their registers; waits and stalls end. -/
def Obligations.ResultsAndWaits : Prop :=
  Sys2Proof.Claim.CheckedResultsReachTheirRegister ∧ Sys2Proof.Claim.AccessesFollowTheChecks ∧ Sys2Proof.Claim.RemoteResultReturn ∧ Sys2Proof.Claim.WaitsAndStalls

/-- Ring words, their effects, and the frontiers of a ring. -/
def Obligations.Rings : Prop :=
  Sys2Proof.Claim.RingWordsIssue ∧ Sys2Proof.Claim.RingEffects ∧ Sys2Proof.Claim.RingFrontiersSettle

/-- Set words and their effects, and how ring and set operations take effect. -/
def Obligations.Sets : Prop :=
  Sys2Proof.Claim.SetWordsIssue ∧ Sys2Proof.Claim.SetEffects ∧ Sys2Proof.Claim.RingAndSetOperationsTakeEffect

/-- TLREAD, TLWAIT and the fences, and what acquiring commands does. -/
def Obligations.TimelinesAndFences : Prop :=
  Sys2Proof.Claim.Timelines ∧ Sys2Proof.Claim.Fences ∧ Sys2Proof.Claim.Acquire

/-- CPUSH and how a push takes effect. -/
def Obligations.CommandPush : Prop :=
  Sys2Proof.Claim.CommandPush ∧ Sys2Proof.Claim.PushTakesEffect

/-- CSTAT writes the state of one queue. -/
def Obligations.QueueState : Prop :=
  Sys2Proof.Claim.QueueState

/-- DRAW and its effect, TNEXT and its answer, TEND and its report, TABORT. -/
def Obligations.Tasks : Prop :=
  Sys2Proof.Claim.DrawWord ∧ Sys2Proof.Claim.DrawEffect ∧ Sys2Proof.Claim.TaskReceipt ∧ Sys2Proof.Claim.TaskEnd

/-- TQUERY, the rounds of the ringmaster, the choice of a crew and its dispatch. -/
def Obligations.Ringmaster : Prop :=
  Sys2Proof.Claim.RingmasterCounters ∧ Sys2Proof.Claim.RingmasterRounds ∧ Sys2Proof.Claim.CrewsFollowWear ∧ Sys2Proof.Claim.DispatchStartsTheCrew

/-- What elementwise words and predicate writes change, bit for bit, and what they leave. -/
def Obligations.VectorWrites : Prop :=
  Sys2Proof.Claim.ElementwiseWrite ∧ Sys2Proof.Claim.PredicateWrite

/-- Where a member stands after its word, how prefixes bind, and the choice in a cycle. -/
def Obligations.VectorAdvance : Prop :=
  Sys2Proof.Claim.VectorWordsAdvance ∧ Sys2Proof.Claim.VectorPrefixes ∧ Sys2Proof.Claim.VectorCycles

/-- Floating-point words write the exact result rounded once. -/
def Obligations.FloatGroup : Prop :=
  Sys2Proof.Claim.FloatGroup ∧ Sys2Proof.Claim.RoundingOnce

/-- Integer, shift and bitwise words of strands. -/
def Obligations.VectorIntegerGroup : Prop :=
  Sys2Proof.Claim.IntegerGroup

/-- Compares and conversions of strands. -/
def Obligations.ComparesAndConversions : Prop :=
  Sys2Proof.Claim.CompareWords ∧ Sys2Proof.Claim.Conversions

/-- The block words BAMAX, BSCALE, QNT and DQNT. -/
def Obligations.BlockWords : Prop :=
  Sys2Proof.Claim.BlockWords

/-- Moves, permutes and broadcasts, and what a write of whole lanes changes. -/
def Obligations.LaneWords : Prop :=
  Sys2Proof.Claim.LaneWrite ∧ Sys2Proof.Claim.Moves ∧ Sys2Proof.Claim.Permutes

/-- Reductions and scans, words over several clusters, and the predicate words. -/
def Obligations.ReductionsAndPredicates : Prop :=
  Sys2Proof.Claim.Reductions ∧ Sys2Proof.Claim.JointWords ∧ Sys2Proof.Claim.PredicateWords

/-- Lane addresses and loads of strands. -/
def Obligations.StrandLoads : Prop :=
  Sys2Proof.Claim.LaneAddresses ∧ Sys2Proof.Claim.StrandLoads ∧ Sys2Proof.Claim.StrandLoadData

/-- Stores of strands, and VSTM. -/
def Obligations.StrandStores : Prop :=
  Sys2Proof.Claim.StrandStores ∧ Sys2Proof.Claim.StrandEmptiesItsLine

/-- Branches, exits and waits of strands, and VSETSH. -/
def Obligations.StrandControl : Prop :=
  Sys2Proof.Claim.StrandControl ∧ Sys2Proof.Claim.StrandWait ∧ Sys2Proof.Claim.ShapeWrite

/-- What an iteration starts with. -/
def Obligations.IterationStart : Prop :=
  Sys2Proof.Claim.IterationStart

/-- Creation of a strand, its exit, synced bundles, and the ends of its waits. -/
def Obligations.StrandLife : Prop :=
  Sys2Proof.Claim.StrandCreation ∧ Sys2Proof.Claim.ExitJoin ∧ Sys2Proof.Claim.SyncBundleJoin ∧ Sys2Proof.Claim.StrandEvents

/-- Engine reads and writes of local memory. -/
def Obligations.EngineAccesses : Prop :=
  Sys2Proof.Claim.EngineReads ∧ Sys2Proof.Claim.EngineWrites

/-- How a step of a command ends. -/
def Obligations.StepsAndTheirEnds : Prop :=
  Sys2Proof.Claim.StepsAndTheirEnds

/-- COPY, FILL, GATHER and SCATTER. -/
def Obligations.CopiesAndGathers : Prop :=
  Sys2Proof.Claim.CopyAndFill ∧ Sys2Proof.Claim.GatherAndScatter

/-- MCAST and its landings, CHSEND and its window. -/
def Obligations.SendsOfTheMover : Prop :=
  Sys2Proof.Claim.Multicast ∧ Sys2Proof.Claim.ChannelSend

/-- XFORM, ENC and DEC. -/
def Obligations.TransformWords : Prop :=
  Sys2Proof.Claim.TransformWords

/-- The words of the DRAM operation units. -/
def Obligations.RowWords : Prop :=
  Sys2Proof.Claim.RowWords ∧ Sys2Proof.Claim.FillAndGatherSum

/-- The stash words, its classes and the ringmaster's lookahead. -/
def Obligations.Stash : Prop :=
  Sys2Proof.Claim.StashWords ∧ Sys2Proof.Claim.StashClasses

/-- The carousel's words and events. -/
def Obligations.Carousel : Prop :=
  Sys2Proof.Claim.CarouselWords ∧ Sys2Proof.Claim.CarouselEvents

/-- MMA and MMABS and the shapes they demand. -/
def Obligations.MatrixProducts : Prop :=
  Sys2Proof.Claim.MatrixProducts ∧ Sys2Proof.Claim.MatrixShapes

/-- Exact sums of products. -/
def Obligations.SumsAreExact : Prop :=
  Sys2Proof.Claim.SumsAreExact

/-- The check of a held result, and the waits of matrix steps. -/
def Obligations.MatrixChecks : Prop :=
  Sys2Proof.Claim.MatrixStepCheck ∧ Sys2Proof.Claim.MatrixWaits

/-- Words on accumulators, handles and coding tables. -/
def Obligations.Accumulators : Prop :=
  Sys2Proof.Claim.AccumulatorWords ∧ Sys2Proof.Claim.AccumulatorTiles ∧ Sys2Proof.Claim.HandleWords

/-- The stages of a command and its end. -/
def Obligations.Commands : Prop :=
  Sys2Proof.Claim.CommandStages ∧ Sys2Proof.Claim.CommandEnd

/-- The cut of a trap, and what QCTL and STRCTL ask for. -/
def Obligations.CutsAndRequests : Prop :=
  Sys2Proof.Claim.CutsAndRequests

/-- Retirement of a task. -/
def Obligations.TaskRetirement : Prop :=
  Sys2Proof.Claim.TaskRetirement

/-- Landings, publishes and advertisements of tensor channels. -/
def Obligations.ChannelEnds : Prop :=
  Sys2Proof.Claim.ChannelEnds

/-- Packets of the launch ring and the registers of a context's block. -/
def Obligations.LaunchFrontEnd : Prop :=
  Sys2Proof.Claim.LaunchPackets ∧ Sys2Proof.Claim.RejectedPackets ∧ Sys2Proof.Claim.ContextRegisterWrites

/-- Records to the owner: written, held or dropped. -/
def Obligations.RecordsToTheOwner : Prop :=
  Sys2Proof.Claim.RecordsToTheOwner

/-- The curtain: messages, its fall and its rise. -/
def Obligations.Curtain : Prop :=
  Sys2Proof.Claim.CurtainMessages ∧ Sys2Proof.Claim.CurtainRise

/-- Changes of the table, debug halts, and the loss of a context. -/
def Obligations.TableDebugAndLoss : Prop :=
  Sys2Proof.Claim.TableChangesAndDebugHalts ∧ Sys2Proof.Claim.ContextLoss

/-- Compressed blocks expand to what was written, and the write-back of an L2 sector loses nothing. -/
def Obligations.CompressedBlocks : Prop :=
  Sys2Proof.Claim.CompressionRoundTrips ∧ Sys2Proof.Claim.WriteBackKeepsBytes

/-- Links and routes, homes and the host, bring-up, lane repair and wear. -/
def Obligations.LinksAndModule : Prop :=
  Sys2Proof.Claim.FlitsAndRoutes ∧ Sys2Proof.Claim.LinksHomeAndHost ∧ Sys2Proof.Claim.ModuleEvents ∧ Sys2Proof.Claim.WearSamples
end

