-- ==== Sys2Proof/Laws/Tbl.lean ====
section
/-!
SUPPORT. Sys2Proof/Laws/Tbl.lean: laws of sparse tables: reading after writing, and that every operation keeps the canonical form.
-/
namespace Sys2Proof.Machine

variable {α : Type}

/-- The bound of Tbl.wfFrom holds at a key. -/
def Tbl.above : Option Nat → Nat → Prop
  | none, _ => True
  | some b, k => b < k

theorem Tbl.wfFrom_nil [DecidableEq α] (dflt : α) (lo : Option Nat) : Tbl.wfFrom dflt lo ([] : Tbl α) = true := rfl

theorem Tbl.wfFrom_cons [DecidableEq α] (dflt : α) (lo : Option Nat) (j : Nat) (v : α) (t : Tbl α) :
    Tbl.wfFrom dflt lo ((j, v) :: t) = true ↔ Tbl.above lo j ∧ v ≠ dflt ∧ Tbl.wfFrom dflt (some j) t = true := by
  cases lo <;> simp [Tbl.wfFrom, Tbl.above, and_assoc]

theorem Tbl.wfFrom_weaken [DecidableEq α] (dflt : α) {lo : Option Nat} {j k : Nat} {t : Tbl α}
    (h : Tbl.wfFrom dflt (some j) t = true) (hk : k ≤ j) (hl : lo = some k ∨ lo = none) : Tbl.wfFrom dflt lo t = true := by
  cases t with
  | nil => rfl
  | cons e t =>
    obtain ⟨i, v⟩ := e
    rw [Tbl.wfFrom_cons] at h ⊢
    obtain ⟨h1, h2, h3⟩ := h
    refine ⟨?_, h2, h3⟩
    obtain rfl | rfl := hl
    · exact Nat.lt_of_le_of_lt hk h1
    · trivial

theorem Tbl.wfFrom_none [DecidableEq α] (dflt : α) {lo : Option Nat} {t : Tbl α} (h : Tbl.wfFrom dflt lo t = true) :
    Tbl.wf dflt t = true := by
  cases lo with
  | none => exact h
  | some b => exact Tbl.wfFrom_weaken dflt h (Nat.le_refl b) (.inr rfl)

theorem Tbl.put_wfFrom [DecidableEq α] (dflt : α) (k : Nat) (v : α) (hv : v ≠ dflt) (t : Tbl α) :
    ∀ lo, Tbl.above lo k → Tbl.wfFrom dflt lo t = true → Tbl.wfFrom dflt lo (Tbl.put k v t) = true := by
  induction t with
  | nil => intro lo hk _; rw [Tbl.put, Tbl.wfFrom_cons]; exact ⟨hk, hv, rfl⟩
  | cons e t ih =>
    obtain ⟨j, w⟩ := e
    intro lo hk h
    rw [Tbl.wfFrom_cons] at h
    obtain ⟨h1, h2, h3⟩ := h
    unfold Tbl.put
    split
    · rename_i hlt
      rw [Tbl.wfFrom_cons, Tbl.wfFrom_cons]
      exact ⟨hk, hv, hlt, h2, h3⟩
    · split
      · rename_i heq; subst heq
        rw [Tbl.wfFrom_cons]; exact ⟨hk, hv, h3⟩
      · rename_i h4 h5
        rw [Tbl.wfFrom_cons]
        exact ⟨h1, h2, ih (some j) (by simp only [Tbl.above]; omega) h3⟩

theorem Tbl.erase_wfFrom [DecidableEq α] (dflt : α) (k : Nat) (t : Tbl α) :
    ∀ lo, Tbl.wfFrom dflt lo t = true → Tbl.wfFrom dflt lo (Tbl.erase k t) = true := by
  induction t with
  | nil => intro lo _; rfl
  | cons e t ih =>
    obtain ⟨j, w⟩ := e
    intro lo h
    rw [Tbl.wfFrom_cons] at h
    obtain ⟨h1, h2, h3⟩ := h
    unfold Tbl.erase
    split
    · apply ih
      cases lo with
      | none => exact Tbl.wfFrom_weaken dflt h3 (Nat.le_refl _) (.inr rfl)
      | some b => exact Tbl.wfFrom_weaken dflt h3 (Nat.le_of_lt h1) (.inl rfl)
    · rw [Tbl.wfFrom_cons]; exact ⟨h1, h2, ih _ h3⟩

/-- Writing keeps the canonical form. -/
theorem Tbl.set_wf [DecidableEq α] (dflt : α) (t : Tbl α) (k : Nat) (v : α) (h : Tbl.wf dflt t = true) :
    Tbl.wf dflt (Tbl.set dflt t k v) = true := by
  unfold Tbl.set
  split
  · exact Tbl.erase_wfFrom dflt k t none h
  · rename_i hv; exact Tbl.put_wfFrom dflt k v hv t none trivial h

/-- Removing entries keeps the canonical form. -/
theorem Tbl.filter_wfFrom [DecidableEq α] (dflt : α) (p : Nat × α → Bool) (t : Tbl α) :
    ∀ lo, Tbl.wfFrom dflt lo t = true → Tbl.wfFrom dflt lo (t.filter p) = true := by
  induction t with
  | nil => intro lo _; rfl
  | cons e t ih =>
    obtain ⟨j, w⟩ := e
    intro lo h
    rw [Tbl.wfFrom_cons] at h
    obtain ⟨h1, h2, h3⟩ := h
    rw [List.filter_cons]
    split
    · rw [Tbl.wfFrom_cons]; exact ⟨h1, h2, ih _ h3⟩
    · apply ih
      cases lo with
      | none => exact Tbl.wfFrom_weaken dflt h3 (Nat.le_refl _) (.inr rfl)
      | some b => exact Tbl.wfFrom_weaken dflt h3 (Nat.le_of_lt h1) (.inl rfl)

theorem Tbl.filter_wf [DecidableEq α] (dflt : α) (p : Nat × α → Bool) (t : Tbl α) (h : Tbl.wf dflt t = true) :
    Tbl.wf dflt (t.filter p) = true := Tbl.filter_wfFrom dflt p t none h

theorem Tbl.foldl_set_wf [DecidableEq α] {β : Type} (dflt : α) (k : β → Nat) (v : β → α) (xs : List β) :
    ∀ t : Tbl α, Tbl.wf dflt t = true → Tbl.wf dflt (xs.foldl (fun t e => Tbl.set dflt t (k e) (v e)) t) = true := by
  induction xs with
  | nil => intro t h; exact h
  | cons x xs ih => intro t h; exact ih _ (Tbl.set_wf dflt t (k x) (v x) h)

/-! ### Reading after writing -/

@[simp] theorem Tbl.find_nil (k : Nat) : Tbl.find k ([] : Tbl α) = none := rfl
@[simp] theorem Tbl.get_nil (dflt : α) (k : Nat) : Tbl.get dflt [] k = dflt := rfl

theorem Tbl.find_cons (k j : Nat) (v : α) (t : Tbl α) : Tbl.find k ((j, v) :: t) = if j = k then some v else Tbl.find k t := rfl

theorem Tbl.find_put_same (k : Nat) (v : α) (t : Tbl α) : Tbl.find k (Tbl.put k v t) = some v := by
  induction t with
  | nil => simp [Tbl.put, Tbl.find_cons]
  | cons e t ih =>
    obtain ⟨j, w⟩ := e
    unfold Tbl.put
    split
    · simp [Tbl.find_cons]
    · split
      · simp [Tbl.find_cons]
      · rename_i h1 h2
        simp [Tbl.find_cons, Ne.symm h2, ih]

theorem Tbl.find_put_other (k i : Nat) (v : α) (t : Tbl α) (h : i ≠ k) : Tbl.find i (Tbl.put k v t) = Tbl.find i t := by
  have hk : ¬ k = i := fun e => h e.symm
  induction t with
  | nil => simp [Tbl.put, Tbl.find_cons, hk]
  | cons e t ih =>
    obtain ⟨j, w⟩ := e
    unfold Tbl.put
    split
    · simp [Tbl.find_cons, hk]
    · split
      · rename_i h1 h2
        subst h2
        simp [Tbl.find_cons, hk]
      · simp only [Tbl.find_cons, ih]

theorem Tbl.find_erase_same (k : Nat) (t : Tbl α) : Tbl.find k (Tbl.erase k t) = none := by
  induction t with
  | nil => rfl
  | cons e t ih =>
    obtain ⟨j, w⟩ := e
    unfold Tbl.erase
    split
    · exact ih
    · rename_i h
      simp [Tbl.find_cons, Ne.symm h, ih]

theorem Tbl.find_erase_other (k i : Nat) (t : Tbl α) (hi : i ≠ k) : Tbl.find i (Tbl.erase k t) = Tbl.find i t := by
  induction t with
  | nil => rfl
  | cons e t ih =>
    obtain ⟨j, w⟩ := e
    unfold Tbl.erase
    split
    · rename_i h
      subst h
      simp [Tbl.find_cons, Ne.symm hi, ih]
    · simp only [Tbl.find_cons, ih]

/-- A key reads as what was last written to it. -/
@[simp] theorem Tbl.get_set_same [DecidableEq α] (dflt : α) (t : Tbl α) (k : Nat) (v : α) :
    Tbl.get dflt (Tbl.set dflt t k v) k = v := by
  unfold Tbl.get Tbl.set
  split
  · rename_i hv; subst hv; rw [Tbl.find_erase_same]; rfl
  · rw [Tbl.find_put_same]; rfl

/-- Writing a key leaves every other key as it reads. -/
theorem Tbl.get_set_other [DecidableEq α] (dflt : α) (t : Tbl α) (k i : Nat) (v : α) (hi : i ≠ k) :
    Tbl.get dflt (Tbl.set dflt t k v) i = Tbl.get dflt t i := by
  unfold Tbl.get Tbl.set
  split
  · rw [Tbl.find_erase_other k i t hi]
  · rw [Tbl.find_put_other k i v t hi]

/-- What every key reads as after a write. -/
theorem Tbl.get_set [DecidableEq α] (dflt : α) (t : Tbl α) (k i : Nat) (v : α) :
    Tbl.get dflt (Tbl.set dflt t k v) i = if i = k then v else Tbl.get dflt t i := by
  split
  · rename_i h; subst h; exact Tbl.get_set_same dflt t i v
  · rename_i h; exact Tbl.get_set_other dflt t k i v h

@[simp] theorem NatSet.has_mark_same (t : NatSet) (k : Nat) (b : Bool) : NatSet.has (NatSet.mark t k b) k = b :=
  Tbl.get_set_same false t k b

theorem NatSet.has_mark (t : NatSet) (k i : Nat) (b : Bool) :
    NatSet.has (NatSet.mark t k b) i = if i = k then b else NatSet.has t i := Tbl.get_set false t k i b

end Sys2Proof.Machine
end

