-- ==== Sys2Proof/Laws/Mem.lean ====
section
/-!
SUPPORT. Sys2Proof/Laws/Mem.lean: laws of the memories: the operations that leave the stored bytes alone, and that every operation keeps
the memory's canonical form; reading after writing.
-/
namespace Sys2Proof.Machine

/-! ### Operations that leave the stored bytes alone -/

@[simp] theorem MemSys.markPoison_mem (m : MemSys) (ls : List Nat) (b : Bool) : (m.markPoison ls b).mem = m.mem := rfl
@[simp] theorem MemSys.drop_mem (m : MemSys) (n : Nat) : (m.drop n).mem = m.mem := rfl
@[simp] theorem MemSys.writeEngine_mem (m : MemSys) (u c : Nat) (d : Bool) (p : Place) (bs : List Byte) :
    (m.writeEngine u c d p bs).mem = m.mem := rfl
@[simp] theorem MemSys.writeRow_mem (m : MemSys) (u c : Nat) (d : Bool) (p : Place) (bs : List Byte) :
    (m.writeRow u c d p bs).mem = m.mem := rfl
@[simp] theorem MemSys.settleOwn_mem (m : MemSys) (u : Nat) : (m.settleOwn u).mem = m.mem := rfl
@[simp] theorem MemSys.setFullBy_mem (m : MemSys) (l : Nat) (b : List Nat) (s : Nat) : (m.setFullBy l b s).mem = m.mem := rfl
@[simp] theorem MemSys.setFull_mem (m : MemSys) (l : Nat) (b : Bool) (us : List Nat) : (m.setFull l b us).mem = m.mem := by
  unfold MemSys.setFull; split <;> rfl
@[simp] theorem MemSys.checkBlock_mem (m : MemSys) (p : Place) : (m.checkBlock p).mem = m.mem := by
  unfold MemSys.checkBlock; split <;> rfl
@[simp] theorem MemSys.dropRanges_mem (m : MemSys) (ks : List (Nat × Nat)) : (m.dropRanges ks).mem = m.mem := rfl
@[simp] theorem MemSys.markRows_mem (m : MemSys) (ks : List (Nat × Nat)) : (m.markRows ks).mem = m.mem := rfl
@[simp] theorem MemSys.clearCovered_mem (m : MemSys) (ws : List (Place × List Byte)) : (m.clearCovered ws).mem = m.mem := rfl
@[simp] theorem MemSys.unpin_mem (m : MemSys) (u : Nat) (ls : List Nat) : (m.unpin u ls).mem = m.mem := rfl

/-- A fold of steps that leave the bytes alone leaves them alone. -/
theorem MemSys.foldl_mem {β : Type} (f : MemSys → β → MemSys) (hf : ∀ m b, (f m b).mem = m.mem) (xs : List β) :
    ∀ m, (xs.foldl f m).mem = m.mem := by
  induction xs with
  | nil => intro m; rfl
  | cons x xs ih => intro m; rw [List.foldl_cons, ih, hf]

@[simp] theorem MemSys.emptyLines_mem (m : MemSys) (ls : List Nat) : (m.emptyLines ls).mem = m.mem :=
  MemSys.foldl_mem _ (fun m l => MemSys.setFull_mem m l _ _) _ m
@[simp] theorem MemSys.performed_mem (m : MemSys) (st : PendingStore) : (m.performed st).mem = m.mem := by
  unfold MemSys.performed
  split
  · exact MemSys.foldl_mem _ (fun m l => by split <;> rfl) _ m
  · rfl

/-! ### Every operation keeps the canonical form -/

/-- The memory is in its canonical form. -/
def MemSys.ok (m : MemSys) : Prop := Memory.wf m.mem = true

theorem MemSys.ok_of_mem {m m' : MemSys} (e : m'.mem = m.mem) (h : m.ok) : m'.ok := by unfold MemSys.ok; rw [e]; exact h

theorem MemSys.foldl_ok {β : Type} (f : MemSys → β → MemSys) (hf : ∀ m b, m.ok → (f m b).ok) (xs : List β) :
    ∀ m, MemSys.ok m → MemSys.ok (xs.foldl f m) := by
  induction xs with
  | nil => intro m h; exact h
  | cons x xs ih => intro m h; exact ih _ (hf m x h)

theorem MemSys.setRaw_ok (m : MemSys) (k : Nat) (b : Byte) (h : m.ok) : (m.setRaw k b).ok :=
  Tbl.set_wf Config.memDefault m.mem k b h

theorem MemSys.setRawBytes_ok (bs : List Byte) : ∀ (m : MemSys) (k : Nat), m.ok → (m.setRawBytes k bs).ok := by
  induction bs with
  | nil => intro m k h; exact h
  | cons b bs ih => intro m k h; exact ih _ _ (MemSys.setRaw_ok m k b h)

theorem MemSys.codecWrite_ok (m : MemSys) (c md base : Nat) (ws : List (Nat × List Byte)) (h : m.ok) : (m.codecWrite c md base ws).ok := by
  have key : ∀ (st : List Byte) (me : Nat), ((m.setRawBytes base st).setRawBytes md (leBytes me 8)).ok :=
    fun st me => MemSys.setRawBytes_ok _ _ _ (MemSys.setRawBytes_ok _ _ _ h)
  have pick : ∀ (b : Bool) (m1 : MemSys) (ls : List Nat), m1.ok → (if b = true then m1 else m1.markPoison ls true).ok := by
    intro b m1 ls h1
    split
    · exact h1
    · exact MemSys.ok_of_mem (MemSys.markPoison_mem _ _ _) h1
  exact pick _ _ _ (key _ _)

theorem MemSys.writeSector_ok (m : MemSys) (n : Nat) (sec : Sector) (h : m.ok) : (m.writeSector n sec).ok := by
  unfold MemSys.writeSector
  split
  · exact MemSys.codecWrite_ok _ _ _ _ _ h
  · exact MemSys.setRawBytes_ok _ _ _ h

theorem MemSys.clean_ok (m : MemSys) (n : Nat) (h : m.ok) : (m.clean n).ok := by
  unfold MemSys.clean
  split
  · split
    · exact MemSys.writeSector_ok m n _ h
    · exact h
  · exact h

theorem MemSys.evict_ok (m : MemSys) (n : Nat) (h : m.ok) : (m.evict n).ok := by
  unfold MemSys.evict
  split
  · exact h
  · exact MemSys.clean_ok m n h

theorem MemSys.makeRoom_ok (m : MemSys) (l : Nat) (h : m.ok) : (m.makeRoom l).ok := by
  unfold MemSys.makeRoom
  dsimp only
  split
  · exact h
  · split
    · exact MemSys.evict_ok _ _ (MemSys.evict_ok m _ h)
    · exact h

theorem MemSys.touch_ok (m : MemSys) (p : Place) (h : m.ok) : (m.touch p).ok := by
  unfold MemSys.touch
  dsimp only
  split
  · exact MemSys.ok_of_mem (MemSys.checkBlock_mem _ _) (MemSys.makeRoom_ok m _ h)
  · exact h

theorem MemSys.touchBytes_ok (m : MemSys) (p : Place) (n : Nat) (h : m.ok) : (m.touchBytes p n).ok := by
  unfold MemSys.touchBytes
  split
  · exact MemSys.foldl_ok _ (fun m i hm => MemSys.touch_ok m _ hm) _ m h
  · exact h

theorem MemSys.poke_ok (m : MemSys) (p : Place) (b : Byte) (h : m.ok) : (m.poke p b).ok := by
  have ht : (m.touch p).ok := MemSys.touch_ok m p h
  unfold MemSys.poke
  dsimp only
  split
  · exact ht
  · split
    · exact MemSys.codecWrite_ok _ _ _ _ _ ht
    · exact MemSys.setRaw_ok _ _ _ ht

theorem MemSys.pokeBytes_ok (bs : List Byte) : ∀ (m : MemSys) (p : Place), m.ok → (m.pokeBytes p bs).ok := by
  induction bs with
  | nil => intro m p h; exact h
  | cons b bs ih => intro m p h; exact ih _ _ (MemSys.poke_ok m p b h)

theorem MemSys.follow_mem (sel : Sector → Bool) (bs : List Byte) : ∀ (m : MemSys) (k : Nat), (m.follow sel k bs).mem = m.mem := by
  induction bs with
  | nil => intro m k; rfl
  | cons b bs ih =>
    intro m k; unfold MemSys.follow; rw [ih]
    split
    · split <;> rfl
    · rfl

theorem MemSys.pokeBlock_ok (m : MemSys) (p : Place) (ws : List (Place × List Byte)) (h : m.ok) : (m.pokeBlock p ws).ok := by
  unfold MemSys.pokeBlock
  split
  · exact MemSys.ok_of_mem (MemSys.foldl_mem _ (fun m w => MemSys.follow_mem _ _ m _) _ _) (MemSys.codecWrite_ok _ _ _ _ _ h)
  · exact MemSys.foldl_ok _ (fun m w hm => MemSys.pokeBytes_ok _ m _ hm) ws m h

theorem MemSys.applyRow_ok (m : MemSys) (w : EngineWrite) (h : m.ok) : (m.applyRow w).ok :=
  MemSys.ok_of_mem (MemSys.follow_mem _ _ _ _) (MemSys.setRawBytes_ok _ _ _ h)

theorem MemSys.applyWrites_ok : ∀ (f : Nat) (ws : List EngineWrite) (m : MemSys), m.ok → (m.applyWrites f ws).ok := by
  intro f
  induction f with
  | zero => intro ws m h; simpa [MemSys.applyWrites] using h
  | succ f ih =>
    intro ws m h
    cases ws with
    | nil => simpa [MemSys.applyWrites] using h
    | cons w ws =>
      unfold MemSys.applyWrites
      split
      · exact ih _ _ (MemSys.applyRow_ok m w h)
      · exact ih _ _ (MemSys.pokeBlock_ok m _ _ h)

theorem MemSys.acquireBy_ok (m : MemSys) (sel : EngineWrite → Bool) (h : m.ok) : (m.acquireBy sel).ok :=
  MemSys.applyWrites_ok _ _ m h

theorem MemSys.acquire_ok (m : MemSys) (us : List Nat) (h : m.ok) : (m.acquire us).ok := MemSys.acquireBy_ok m _ h

theorem MemSys.acquireLines_ok (m : MemSys) (us ls : List Nat) (h : m.ok) : (m.acquireLines us ls).ok := MemSys.acquireBy_ok m _ h

theorem MemSys.storeOrd_ok (m : MemSys) (p : Place) (bs : List Byte) (q u : Nat) (h : m.ok) : (m.storeOrd p bs q u).ok :=
  MemSys.pokeBytes_ok bs m p h

theorem MemSys.keepCopy_ok (m : MemSys) (l : Lease) (h : m.ok) : (m.keepCopy l).ok := MemSys.makeRoom_ok m _ h

theorem MemSys.cleanRanges_ok (m : MemSys) (ks : List (Nat × Nat)) (h : m.ok) : (m.cleanRanges ks).ok :=
  MemSys.foldl_ok _ (fun m e hm => MemSys.clean_ok m e.1 hm) _ m h

theorem MemSys.flush_ok (m : MemSys) (h : m.ok) : m.flush.ok :=
  MemSys.foldl_ok _ (fun m e hm => MemSys.clean_ok m e.1 hm) _ m h

theorem MemSys.wipe_ok (m : MemSys) (lo hi : Nat) (h : m.ok) : (m.wipe lo hi).ok :=
  Tbl.filter_wf Config.memDefault _ m.mem h

theorem MemSys.zeroSlice_ok (m : MemSys) (c : Nat) (h : m.ok) : (m.zeroSlice c).ok := by
  unfold MemSys.zeroSlice
  dsimp only
  split
  · exact MemSys.wipe_ok _ _ _ h
  · exact MemSys.setRawBytes_ok _ _ _ (MemSys.wipe_ok _ _ _ h)

theorem MemSys.moveSlice_ok (m : MemSys) (c d : Nat) (h : m.ok) : (m.moveSlice c d).ok :=
  Tbl.foldl_set_wf Config.memDefault _ _ _ _ (MemSys.wipe_ok _ _ _ (MemSys.zeroSlice_ok m d h))

/-! ### Reading after writing -/

/-- A stored byte reads as it was stored, and every other byte as before. -/
theorem MemSys.raw_setRaw (m : MemSys) (k i : Nat) (b : Byte) : (m.setRaw k b).raw i = if i = k then b else m.raw i :=
  Tbl.get_set Config.memDefault m.mem k i b

/-- Bytes outside a stored range read as before. -/
theorem MemSys.raw_setRawBytes_other (bs : List Byte) :
    ∀ (m : MemSys) (k i : Nat), (i < k ∨ k + bs.length ≤ i) → (m.setRawBytes k bs).raw i = m.raw i := by
  induction bs with
  | nil => intro m k i _; rfl
  | cons b bs ih =>
    intro m k i h
    have h' : i < k ∨ k + (bs.length + 1) ≤ i := h
    rw [MemSys.setRawBytes, ih _ _ _ (by omega), MemSys.raw_setRaw, if_neg (by omega)]

end Sys2Proof.Machine
end

