-- ==== Sys2Proof/Laws/Codec.lean ====
section
/-!
SUPPORT. Sys2Proof/Laws/Codec.lean: laws of the block compression: distinct values, nibbles, planes and the parts of a form; the lengths of
expansions; runs of stored bytes and the CRC.
-/
namespace Sys2Proof.Machine

/-- The elements after an insertion. -/
theorem insertNat_mem (x y : Nat) (l : List Nat) : y ∈ insertNat x l ↔ y = x ∨ y ∈ l := by
  induction l with
  | nil => simp [insertNat]
  | cons a l ih =>
    unfold insertNat
    split
    · simp
    · split
      · rename_i h; subst h; simp
      · simp only [List.mem_cons, ih]; exact or_left_comm

/-- Inserting keeps a strictly rising list strictly rising. -/
theorem insertNat_sorted (x : Nat) (l : List Nat) (h : l.Pairwise (· < ·)) : (insertNat x l).Pairwise (· < ·) := by
  induction l with
  | nil => simp [insertNat]
  | cons a l ih =>
    have ⟨h1, h2⟩ := List.pairwise_cons.1 h
    unfold insertNat
    split
    · rename_i hlt
      refine List.pairwise_cons.2 ⟨fun b hb => ?_, h⟩
      rcases List.mem_cons.1 hb with rfl | hb
      · exact hlt
      · exact Nat.lt_trans hlt (h1 b hb)
    · split
      · exact h
      · refine List.pairwise_cons.2 ⟨fun b hb => ?_, ih h2⟩
        rcases (insertNat_mem x b l).1 hb with rfl | hb
        · omega
        · exact h1 b hb

/-- The step of distinct. -/
def addDistinct (limit : Nat) (acc : Option (List Nat)) (x : Nat) : Option (List Nat) :=
  acc.bind (fun l => let l' := insertNat x l; if l'.length > limit then none else some l')

/-- The fold of distinct, from any start. -/
theorem distinct_fold (limit : Nat) (xs : List Nat) : ∀ acc vs, xs.foldl (addDistinct limit) acc = some vs →
    ∃ l, acc = some l ∧ (l.Pairwise (· < ·) → vs.Pairwise (· < ·)) ∧ (∀ y, y ∈ vs ↔ y ∈ l ∨ y ∈ xs) ∧ (l.length ≤ limit → vs.length ≤ limit) := by
  induction xs with
  | nil => intro acc vs h; exact ⟨vs, h, id, by simp, id⟩
  | cons x xs ih =>
    intro acc vs h
    obtain ⟨l, hl, h1, h2, h3⟩ := ih _ _ h
    cases acc with
    | none => simp [addDistinct] at hl
    | some l0 =>
      simp only [addDistinct, Option.bind_some] at hl
      split at hl
      · cases hl
      · cases hl
        refine ⟨l0, rfl, fun h => h1 (insertNat_sorted x l0 h), fun y => ?_, fun _ => h3 (by omega)⟩
        rw [h2, insertNat_mem, List.mem_cons, or_assoc]; exact or_left_comm

/-- What distinct answers: the values in strictly rising order, at most limit of them. -/
theorem distinct_spec {limit : Nat} {xs vs : List Nat} (h : distinct limit xs = some vs) :
    vs.Pairwise (· < ·) ∧ (∀ y, y ∈ vs ↔ y ∈ xs) ∧ vs.length ≤ limit := by
  obtain ⟨l, hl, h1, h2, h3⟩ := distinct_fold limit xs (some []) vs h
  cases hl
  exact ⟨h1 (by simp), fun y => by simp [h2], h3 (by simp)⟩

/-- A strictly rising list is rising. -/
theorem rising_of_sorted (l : List Nat) (h : l.Pairwise (· < ·)) : rising l = true := by
  induction l with
  | nil => rfl
  | cons a l ih =>
    have ⟨h1, h2⟩ := List.pairwise_cons.1 h
    cases l with
    | nil => rfl
    | cons b l => simp only [rising, Bool.and_eq_true, decide_eq_true_eq]; exact ⟨h1 b (by simp), ih h2⟩

/-- The index of an element finds it. -/
theorem getD_indexIn (x : Nat) (l : List Nat) (h : x ∈ l) : indexIn x l < l.length ∧ l.getD (indexIn x l) 0 = x := by
  induction l with
  | nil => simp at h
  | cons a l ih =>
    unfold indexIn
    split
    · rename_i e; subst e; simp
    · rename_i ne
      have := ih (by rcases List.mem_cons.1 h with h | h; exact absurd h ne; exact h)
      refine ⟨by simp; omega, ?_⟩
      rw [Nat.add_comm]; simpa using this.2

/-- Each position of a strictly rising list is the index of its element. -/
theorem indexIn_getElem (l : List Nat) (h : l.Pairwise (· < ·)) : ∀ (i : Nat) (hi : i < l.length), indexIn l[i] l = i := by
  induction l with
  | nil => intro i hi; simp at hi
  | cons a l ih =>
    have ⟨h1, h2⟩ := List.pairwise_cons.1 h
    intro i hi
    cases i with
    | zero => simp [indexIn]
    | succ i =>
      have hi' : i < l.length := by simpa using hi
      have := h1 l[i] (List.getElem_mem hi')
      simp only [List.getElem_cons_succ, indexIn]
      rw [if_neg (by omega), ih h2 i hi']; omega

/-- Nibbles unpack as they were packed. -/
theorem unpack_pack : ∀ (n : Nat) (xs : List Nat), xs.length = 2 * n → (∀ x ∈ xs, x < 16) → unpackNibbles (packNibbles xs) = xs ∧ (packNibbles xs).length = n := by
  intro n
  induction n with
  | zero => intro xs h _; cases xs <;> simp_all [packNibbles, unpackNibbles]
  | succ n ih =>
    intro xs h hx
    match xs, h, hx with
    | a :: b :: rest, h, hx =>
      have := ih rest (by simp at h; omega) (fun x hm => hx x (by simp [hm]))
      have ha := hx a (by simp)
      have hb := hx b (by simp)
      simp only [packNibbles, unpackNibbles, this, List.length_cons]
      refine ⟨?_, trivial⟩
      have : (BitVec.ofNat 8 (a + 16 * b)).toNat = a + 16 * b := by simp; omega
      rw [this]; congr 1; omega; congr 1; omega

/-- Chunks put together again, and their lengths. -/
theorem chunks_flatten {α : Type} (g : Nat) : ∀ (n : Nat) (bs : List α), bs.length = n * g → (chunks g n bs).flatten = bs ∧ ∀ c ∈ chunks g n bs, c.length = g := by
  intro n
  induction n with
  | zero => intro bs h; simp at h; subst h; simp [chunks]
  | succ n ih =>
    intro bs h
    have hl : g ≤ bs.length := by rw [h, Nat.succ_mul]; omega
    obtain ⟨h1, h2⟩ := ih (bs.drop g) (by rw [List.length_drop, h, Nat.succ_mul]; omega)
    simp only [chunks, List.flatten_cons, h1, List.take_append_drop, List.mem_cons, true_and]
    rintro c (rfl | hc)
    · simp [hl]
    · exact h2 c hc

/-- The number of chunks. -/
theorem chunks_length {α : Type} (g : Nat) : ∀ (n : Nat) (bs : List α), (chunks g n bs).length = n := by
  intro n; induction n with
  | zero => intro bs; rfl
  | succ n ih => intro bs; simp [chunks, ih]

/-- The planes of chunks put together again. -/
theorem join_chunks (g : Nat) (hg : 0 < g) : ∀ cs : List (List Byte), (∀ e ∈ cs, e.length = g) →
    joinPlanes g ((cs.filterMap (fun x => x[g - 1]?)).map BitVec.toNat) ((cs.map (fun e => e.take (g - 1))).flatten) = cs.flatten ∧
    (cs.filterMap (fun x => x[g - 1]?)).length = cs.length ∧ ((cs.map (fun e => e.take (g - 1))).flatten).length = cs.length * (g - 1) := by
  intro cs
  induction cs with
  | nil => intro _; simp [joinPlanes]
  | cons e cs ih =>
    intro h
    have hc : e.length = g := h e (by simp)
    obtain ⟨h1, h2, h3⟩ := ih (fun e hc => h e (by simp [hc]))
    have hget : e[g - 1]? = some e[g - 1] := List.getElem?_eq_getElem (by omega)
    have ht : (e.take (g - 1)).length = g - 1 := by simp; omega
    refine ⟨?_, by simp [hget, h2], by rw [List.map_cons, List.flatten_cons, List.length_append, h3, ht, List.length_cons, Nat.succ_mul, Nat.add_comm]⟩
    simp only [List.filterMap_cons, hget, List.map_cons, List.flatten_cons, joinPlanes]
    rw [List.take_append_of_le_length (by omega), List.take_of_length_le (by omega), List.drop_append_of_le_length (by omega), List.drop_of_length_le (by omega), List.nil_append, h1]
    congr 1
    conv => rhs; rw [← List.take_append_drop (g - 1) e]
    congr 1
    rw [BitVec.ofNat_toNat, BitVec.setWidth_eq]
    rw [List.drop_eq_getElem_cons (by omega), List.drop_of_length_le (by omega)]


/-- A block's planes put together again. -/
theorem join_planes (g n : Nat) (hg : 0 < g) (bs : List Byte) (h : bs.length = n * g) :
    joinPlanes g (plane g (g - 1) bs) (lowPlane g bs) = bs ∧ (plane g (g - 1) bs).length = n ∧ (lowPlane g bs).length = n * (g - 1) := by
  have hn : bs.length / g = n := by rw [h]; exact Nat.mul_div_cancel n hg
  obtain ⟨h1, h2⟩ := chunks_flatten g n bs h
  obtain ⟨j1, j2, j3⟩ := join_chunks g hg (chunks g n bs) h2
  simp only [plane, lowPlane, hn]
  rw [j1, h1, List.length_map, j2, j3, chunks_length]
  exact ⟨rfl, rfl, rfl⟩

/-- A plane holds bytes. -/
theorem plane_lt (g p : Nat) (bs : List Byte) : ∀ x ∈ plane g p bs, x < 256 := by
  intro x hx
  simp only [plane, List.mem_map] at hx
  obtain ⟨b, _, rfl⟩ := hx
  exact b.isLt

/-- The length of a padded form. -/
theorem padTo_length (n : Nat) (bs : List Byte) : (padTo n bs).length = max n bs.length := by simp [padTo]; omega

/-- Bytes as numbers and back. -/
theorem map_ofNat_toNat (vs : List Nat) (h : ∀ x ∈ vs, x < 256) : (vs.map (BitVec.ofNat 8)).map BitVec.toNat = vs := by
  rw [List.map_map]
  conv => rhs; rw [← List.map_id vs]
  apply List.map_congr_left
  intro x hx; have := h x hx; simp; omega

/-- A pad is zero. -/
theorem all_replicate (n : Nat) : (List.replicate n (0 : Byte)).all (· == 0) = true := by simp


/-- What the form of an exponent-plane method holds, read at its offsets. -/
theorem form_parts (vs : List Nat) (idx low z s : List Byte) (hk : 1 ≤ vs.length) (hk16 : vs.length ≤ 16) (hv : ∀ x ∈ vs, x < 256)
    (hs : s = padTo 16 (BitVec.ofNat 8 (vs.length - 1) :: vs.map (BitVec.ofNat 8)) ++ idx ++ low ++ z) :
    (s.headD 0).toNat + 1 = vs.length ∧ ((s.drop 1).take vs.length).map BitVec.toNat = vs ∧
    ((s.drop (1 + vs.length)).take (15 - vs.length)).all (· == 0) = true ∧
    (s.drop (max 16 (1 + vs.length))).take idx.length = idx ∧ (s.drop (max 16 (1 + vs.length) + idx.length)).take low.length = low ∧
    s.drop (max 16 (1 + vs.length) + idx.length + low.length) = z := by
  have hp : (padTo 16 (BitVec.ofNat 8 (vs.length - 1) :: vs.map (BitVec.ofNat 8))).length = max 16 (1 + vs.length) := by
    rw [padTo_length]; simp; omega
  refine ⟨?_, ?_, ?_, ?_, ?_, ?_⟩
  · subst hs; simp [padTo]; omega
  · subst hs
    simp only [padTo, List.cons_append, List.append_assoc, List.drop_succ_cons, List.drop_zero]
    rw [List.take_append_of_le_length (by simp), List.take_of_length_le (by simp)]
    exact map_ofNat_toNat vs hv
  · have e : s = (BitVec.ofNat 8 (vs.length - 1) :: vs.map (BitVec.ofNat 8)) ++ (List.replicate (15 - vs.length) 0 ++ (idx ++ low ++ z)) := by
      subst hs; simp [padTo]
    rw [e, List.drop_append_of_le_length (by simp [Nat.add_comm]), List.drop_of_length_le (by simp [Nat.add_comm]), List.nil_append,
      List.take_append_of_le_length (by simp), List.take_of_length_le (by simp)]
    exact all_replicate _
  · rw [← hp, hs, List.append_assoc, List.append_assoc, List.drop_left, List.take_left]
  · rw [← hp, ← List.length_append, hs, List.append_assoc, List.drop_left, List.take_left]
  · rw [← hp, ← List.length_append, ← List.length_append, hs, List.drop_left]

/-- Reading a padded form back from its block. -/
theorem take_padTo (f : List Byte) (n : Nat) (h : f.length ≤ n) :
    (padTo 4096 (padTo n f)).take n = f ++ List.replicate (n - f.length) 0 := by
  simp only [padTo]
  rw [List.take_append_of_le_length (by simp; omega), List.take_of_length_le (by simp; omega)]

/-- The index plane of a block: its length, what it unpacks to, and the high bytes that it names. -/
theorem idx_roundtrip (n : Nat) (hs vs : List Nat) (hl : hs.length = 2 * n) (srt : vs.Pairwise (· < ·)) (hmem : ∀ y, y ∈ vs ↔ y ∈ hs) (h16 : vs.length ≤ 16) :
    (packNibbles (hs.map (fun x => indexIn x vs))).length = n ∧
    unpackNibbles (packNibbles (hs.map (fun x => indexIn x vs))) = hs.map (fun x => indexIn x vs) ∧
    (hs.map (fun x => indexIn x vs)).map (fun i => vs.getD i 0) = hs ∧ (hs.map (fun x => indexIn x vs)).all (· < vs.length) = true ∧
    (List.range vs.length).all (fun i => (hs.map (fun x => indexIn x vs)).contains i) = true := by
  have hlt : ∀ x ∈ hs.map (fun x => indexIn x vs), x < vs.length := by
    intro x hx
    obtain ⟨y, hy, rfl⟩ := List.mem_map.1 hx
    exact (getD_indexIn y vs ((hmem y).2 hy)).1
  obtain ⟨u1, u2⟩ := unpack_pack n (hs.map (fun x => indexIn x vs)) (by simpa using hl) (fun x hx => by have := hlt x hx; omega)
  refine ⟨u2, u1, ?_, ?_, ?_⟩
  · rw [List.map_map]
    conv => rhs; rw [← List.map_id hs]
    apply List.map_congr_left
    intro x hx
    exact (getD_indexIn x vs ((hmem x).2 hx)).2
  · simpa using hlt
  · simp only [List.all_eq_true, List.mem_range, List.contains_iff_mem, List.mem_map]
    intro i hi
    exact ⟨vs[i], (hmem _).1 (List.getElem_mem hi), indexIn_getElem vs srt i hi⟩

/-- A block of one value needs no index plane. -/
theorem single_map (hs vs : List Nat) (hmem : ∀ y, y ∈ vs ↔ y ∈ hs) (h1 : vs.length = 1) :
    (List.replicate hs.length 0).map (fun i => vs.getD i 0) = hs := by
  match vs, h1 with
  | [v], _ =>
    simp only [List.map_replicate, List.getD_cons_zero]
    exact (List.eq_replicate_iff.2 ⟨rfl, fun b hb => by simpa using (hmem b).2 hb⟩).symm

/-- The length of unpacked nibbles. -/
theorem unpack_length (l : List Byte) : (unpackNibbles l).length = 2 * l.length := by
  induction l with
  | nil => rfl
  | cons b l ih => simp [unpackNibbles, ih]; omega

/-- The length of joined planes. -/
theorem joinPlanes_length (g : Nat) (hg : 0 < g) : ∀ (hs : List Nat) (low : List Byte), low.length = hs.length * (g - 1) → (joinPlanes g hs low).length = hs.length * g := by
  intro hs
  induction hs with
  | nil => intro low _; simp [joinPlanes]
  | cons x hs ih =>
    intro low h
    have e : (hs.length + 1) * (g - 1) = hs.length * (g - 1) + (g - 1) := Nat.succ_mul _ _
    simp only [List.length_cons] at h
    simp only [joinPlanes, List.length_append, List.length_cons, List.length_nil, List.length_take]
    rw [ih (low.drop (g - 1)) (by rw [List.length_drop]; omega), Nat.succ_mul]
    omega

/-- A form expands to 4 KiB. -/
theorem expandForm_length (space : List Byte) (md : Nat) (bs : List Byte) (hs : space.length = 4096) (ho : expandForm space md = some bs) : bs.length = 4096 := by
  unfold expandForm at ho
  simp only at ho
  split at ho
  · cases ho; simp [hs]
  · split at ho
    · split at ho
      · cases ho; rw [List.length_flatten, List.map_replicate, List.sum_replicate_nat]; simp [hs]
      · cases ho
    · split at ho
      · rename_i hm
        generalize hs' : List.take (256 * (16 - md / 4 % 16)) space = s at *
        have hsl : s.length = 256 * (16 - md / 4 % 16) := by rw [← hs', List.length_take, hs]; omega
        rcases hm with ⟨hm, hf | hf⟩ | ⟨hm, hf | hf⟩ <;>
          simp only [hm, hf, methGroup, Nat.reduceEqDiff, if_true, if_false, Nat.reduceDiv, Nat.reduceMul, Nat.reduceSub] at ho hsl <;>
          (split at ho; rotate_left; · cases ho) <;> rename_i hc <;> have hk := hc.1 <;> injection ho with ho <;> subst ho
        all_goals
          clear hc
          generalize (s.headD 0).toNat + 1 = K at *
          rw [joinPlanes_length _ (by omega)]
          · simp only [List.length_map, unpack_length, List.length_take, List.length_drop, List.length_replicate, hsl]; try omega
          · simp only [List.length_map, unpack_length, List.length_take, List.length_drop, List.length_replicate, hsl]; try omega
      · cases ho

/-- An expansion has 4 KiB. -/
theorem expand_length (space : List Byte) (md : Nat) (bs : List Byte) (hs : space.length = 4096) (h : expandBlock space md = some bs) : bs.length = 4096 := by
  unfold expandBlock at h
  split at h
  · cases h
  · rename_i o ho
    split at h
    · cases h; exact expandForm_length space md _ hs ho
    · cases h

/-- A byte inside a stored range reads as it was stored. -/
theorem raw_setRawBytes_in (bs : List Byte) : ∀ (m : MemSys) (k i : Nat), i < bs.length → (m.setRawBytes k bs).raw (k + i) = bs.getD i 0 := by
  induction bs with
  | nil => intro m k i h; simp at h
  | cons b bs ih =>
    intro m k i h
    rw [MemSys.setRawBytes]
    cases i with
    | zero => rw [MemSys.raw_setRawBytes_other _ _ _ _ (by omega), MemSys.raw_setRaw]; simp
    | succ i =>
      have := ih (m.setRaw k b) (k + 1) i (by simpa using h)
      rw [show k + (i + 1) = k + 1 + i by omega, this]; simp

/-- The length of a run of bytes. -/
theorem rawBytes_length (m : MemSys) (n : Nat) : ∀ k, (m.rawBytes k n).length = n := by
  have : ∀ n k, (upFrom k n).length = n := by
    intro n; induction n with
    | zero => intro k; rfl
    | succ n ih => intro k; simp [upFrom, ih]
  intro k; simp [MemSys.rawBytes, this]

/-- A run of bytes, one by one. -/
theorem rawBytes_succ (m : MemSys) (k n : Nat) : m.rawBytes k (n + 1) = m.raw k :: m.rawBytes (k + 1) n := rfl

/-- Runs of equal bytes are equal. -/
theorem rawBytes_congr (m m' : MemSys) (n : Nat) : ∀ k, (∀ i, k ≤ i → i < k + n → m.raw i = m'.raw i) → m.rawBytes k n = m'.rawBytes k n := by
  induction n with
  | zero => intro k _; rfl
  | succ n ih =>
    intro k h
    rw [rawBytes_succ, rawBytes_succ, h k (by omega) (by omega), ih (k + 1) (fun i h1 h2 => h i (by omega) (by omega))]

/-- A stored run reads back. -/
theorem rawBytes_setRawBytes (bs : List Byte) : ∀ (m : MemSys) (k : Nat), (m.setRawBytes k bs).rawBytes k bs.length = bs := by
  induction bs with
  | nil => intro m k; rfl
  | cons b bs ih =>
    intro m k
    rw [List.length_cons, rawBytes_succ, MemSys.setRawBytes, ih, MemSys.raw_setRawBytes_other _ _ _ _ (by omega), MemSys.raw_setRaw, if_pos rfl]

/-- A number reads back from its bytes. -/
theorem leNat_leBytes (n : Nat) : ∀ x, x < 256 ^ n → leNat (leBytes x n) = x ∧ (leBytes x n).length = n := by
  induction n with
  | zero => intro x h; simp at h; subst h; exact ⟨rfl, rfl⟩
  | succ n ih =>
    intro x h
    have := ih (x / 256) (by rw [Nat.pow_succ] at h; omega)
    simp only [leBytes, leNat, this, List.length_cons]
    refine ⟨?_, trivial⟩
    simp; omega

/-- The CRC register holds 64 bits. -/
theorem crcByte_lt (r b : Nat) (hr : r < 2 ^ 64) (hb : b < 256) : crcByte r b < 2 ^ 64 := by
  have key : ∀ (l : List Nat) (r : Nat), r < 2 ^ 64 → l.foldl (fun r _ => if r / 2 ^ 63 % 2 = 1 then (r * 2 % 2 ^ 64) ^^^ 0x42F0E1EBA9EA3693 else r * 2 % 2 ^ 64) r < 2 ^ 64 := by
    intro l
    induction l with
    | nil => intro r h; exact h
    | cons a l ih =>
      intro r h
      rw [List.foldl_cons]
      apply ih
      split
      · exact Nat.xor_lt_two_pow (Nat.mod_lt _ (by decide)) (by decide)
      · exact Nat.mod_lt _ (by decide)
  exact key _ _ (Nat.xor_lt_two_pow hr (by omega))

/-- A CRC holds 64 bits. -/
theorem crc64_lt (bs : List Byte) : crc64 bs < 2 ^ 64 := by
  have key : ∀ (l : List Byte) (r : Nat), r < 2 ^ 64 → l.foldl (fun r b => crcByte r b.toNat) r < 2 ^ 64 := by
    intro l
    induction l with
    | nil => intro r h; exact h
    | cons a l ih => intro r h; rw [List.foldl_cons]; exact ih _ (crcByte_lt _ _ h a.isLt)
  exact key bs 0 (by decide)

end Sys2Proof.Machine
end

