-- ==== Sys2Proof/Laws/Exec.lean ====
section
/-!
SUPPORT. Sys2Proof/Laws/Exec.lean: what exec calls for each instruction, so that no proof unfolds its match.
-/
namespace Sys2Proof.Machine

@[simp] theorem exec_add (d a b : BitVec 5) (s : State) : exec (.add d a b) s = execAdd d a b s := rfl
@[simp] theorem exec_sub (d a b : BitVec 5) (s : State) : exec (.sub d a b) s = execSub d a b s := rfl
@[simp] theorem exec_mul (d a b : BitVec 5) (s : State) : exec (.mul d a b) s = execMul d a b s := rfl
@[simp] theorem exec_mulh (d a b : BitVec 5) (s : State) : exec (.mulh d a b) s = execMulh d a b s := rfl
@[simp] theorem exec_mulhn (d a b : BitVec 5) (s : State) : exec (.mulhn d a b) s = execMulhn d a b s := rfl
@[simp] theorem exec_div (d a b : BitVec 5) (s : State) : exec (.div d a b) s = execDiv d a b s := rfl
@[simp] theorem exec_divn (d a b : BitVec 5) (s : State) : exec (.divn d a b) s = execDivn d a b s := rfl
@[simp] theorem exec_rem (d a b : BitVec 5) (s : State) : exec (.rem d a b) s = execRem d a b s := rfl
@[simp] theorem exec_remn (d a b : BitVec 5) (s : State) : exec (.remn d a b) s = execRemn d a b s := rfl
@[simp] theorem exec_and (d a b : BitVec 5) (s : State) : exec (.and d a b) s = execAnd d a b s := rfl
@[simp] theorem exec_or (d a b : BitVec 5) (s : State) : exec (.or d a b) s = execOr d a b s := rfl
@[simp] theorem exec_xor (d a b : BitVec 5) (s : State) : exec (.xor d a b) s = execXor d a b s := rfl
@[simp] theorem exec_shl (d a b : BitVec 5) (s : State) : exec (.shl d a b) s = execShl d a b s := rfl
@[simp] theorem exec_shr (d a b : BitVec 5) (s : State) : exec (.shr d a b) s = execShr d a b s := rfl
@[simp] theorem exec_sar (d a b : BitVec 5) (s : State) : exec (.sar d a b) s = execSar d a b s := rfl
@[simp] theorem exec_min (d a b : BitVec 5) (s : State) : exec (.min d a b) s = execMin d a b s := rfl
@[simp] theorem exec_max (d a b : BitVec 5) (s : State) : exec (.max d a b) s = execMax d a b s := rfl
@[simp] theorem exec_minn (d a b : BitVec 5) (s : State) : exec (.minn d a b) s = execMinn d a b s := rfl
@[simp] theorem exec_maxn (d a b : BitVec 5) (s : State) : exec (.maxn d a b) s = execMaxn d a b s := rfl
@[simp] theorem exec_slt (d a b : BitVec 5) (s : State) : exec (.slt d a b) s = execSlt d a b s := rfl
@[simp] theorem exec_sltn (d a b : BitVec 5) (s : State) : exec (.sltn d a b) s = execSltn d a b s := rfl
@[simp] theorem exec_clz (d a : BitVec 5) (s : State) : exec (.clz d a) s = execClz d a s := rfl
@[simp] theorem exec_popc (d a : BitVec 5) (s : State) : exec (.popc d a) s = execPopc d a s := rfl
@[simp] theorem exec_sel (d c a b : BitVec 5) (s : State) : exec (.sel d c a b) s = execSel d c a b s := rfl
@[simp] theorem exec_addi (d a : BitVec 5) (imm : BitVec 16) (s : State) : exec (.addi d a imm) s = execAddi d a imm s := rfl
@[simp] theorem exec_andi (d a : BitVec 5) (imm : BitVec 16) (s : State) : exec (.andi d a imm) s = execAndi d a imm s := rfl
@[simp] theorem exec_ori (d a : BitVec 5) (imm : BitVec 16) (s : State) : exec (.ori d a imm) s = execOri d a imm s := rfl
@[simp] theorem exec_xori (d a : BitVec 5) (imm : BitVec 16) (s : State) : exec (.xori d a imm) s = execXori d a imm s := rfl
@[simp] theorem exec_shli (d a : BitVec 5) (n : BitVec 6) (s : State) : exec (.shli d a n) s = execShli d a n s := rfl
@[simp] theorem exec_shri (d a : BitVec 5) (n : BitVec 6) (s : State) : exec (.shri d a n) s = execShri d a n s := rfl
@[simp] theorem exec_sari (d a : BitVec 5) (n : BitVec 6) (s : State) : exec (.sari d a n) s = execSari d a n s := rfl
@[simp] theorem exec_slti (d a : BitVec 5) (imm : BitVec 16) (s : State) : exec (.slti d a imm) s = execSlti d a imm s := rfl
@[simp] theorem exec_movhi (d : BitVec 5) (imm : BitVec 16) (s : State) : exec (.movhi d imm) s = execMovhi d imm s := rfl
@[simp] theorem exec_ldB (d a : BitVec 5) (imm : BitVec 16) (s : State) : exec (.ldB d a imm) s = execLdB d a imm s := rfl
@[simp] theorem exec_ldH (d a : BitVec 5) (imm : BitVec 16) (s : State) : exec (.ldH d a imm) s = execLdH d a imm s := rfl
@[simp] theorem exec_ldW (d a : BitVec 5) (imm : BitVec 16) (s : State) : exec (.ldW d a imm) s = execLdW d a imm s := rfl
@[simp] theorem exec_ldD (d a : BitVec 5) (imm : BitVec 16) (s : State) : exec (.ldD d a imm) s = execLdD d a imm s := rfl
@[simp] theorem exec_ldsB (d a : BitVec 5) (imm : BitVec 16) (s : State) : exec (.ldsB d a imm) s = execLdsB d a imm s := rfl
@[simp] theorem exec_ldsH (d a : BitVec 5) (imm : BitVec 16) (s : State) : exec (.ldsH d a imm) s = execLdsH d a imm s := rfl
@[simp] theorem exec_ldsW (d a : BitVec 5) (imm : BitVec 16) (s : State) : exec (.ldsW d a imm) s = execLdsW d a imm s := rfl
@[simp] theorem exec_ldsD (d a : BitVec 5) (imm : BitVec 16) (s : State) : exec (.ldsD d a imm) s = execLdsD d a imm s := rfl
@[simp] theorem exec_stB (d a : BitVec 5) (imm : BitVec 16) (s : State) : exec (.stB d a imm) s = execStB d a imm s := rfl
@[simp] theorem exec_stH (d a : BitVec 5) (imm : BitVec 16) (s : State) : exec (.stH d a imm) s = execStH d a imm s := rfl
@[simp] theorem exec_stW (d a : BitVec 5) (imm : BitVec 16) (s : State) : exec (.stW d a imm) s = execStW d a imm s := rfl
@[simp] theorem exec_stD (d a : BitVec 5) (imm : BitVec 16) (s : State) : exec (.stD d a imm) s = execStD d a imm s := rfl
@[simp] theorem exec_bEq (a b : BitVec 5) (off : BitVec 16) (s : State) : exec (.bEq a b off) s = execBEq a b off s := rfl
@[simp] theorem exec_bNe (a b : BitVec 5) (off : BitVec 16) (s : State) : exec (.bNe a b off) s = execBNe a b off s := rfl
@[simp] theorem exec_bLt (a b : BitVec 5) (off : BitVec 16) (s : State) : exec (.bLt a b off) s = execBLt a b off s := rfl
@[simp] theorem exec_bGe (a b : BitVec 5) (off : BitVec 16) (s : State) : exec (.bGe a b off) s = execBGe a b off s := rfl
@[simp] theorem exec_bLtn (a b : BitVec 5) (off : BitVec 16) (s : State) : exec (.bLtn a b off) s = execBLtn a b off s := rfl
@[simp] theorem exec_bGen (a b : BitVec 5) (off : BitVec 16) (s : State) : exec (.bGen a b off) s = execBGen a b off s := rfl
@[simp] theorem exec_j (off : BitVec 26) (s : State) : exec (.j off) s = execJ off s := rfl
@[simp] theorem exec_jal (off : BitVec 26) (s : State) : exec (.jal off) s = execJal off s := rfl
@[simp] theorem exec_jr (d a : BitVec 5) (s : State) : exec (.jr d a) s = execJr d a s := rfl
@[simp] theorem exec_tstw (a bit : BitVec 5) (off : BitVec 16) (s : State) : exec (.tstw a bit off) s = execTstw a bit off s := rfl
@[simp] theorem exec_semadd (d a : BitVec 5) (m : BitVec 9) (s : State) : exec (.semadd d a m) s = execSemadd d a m s := rfl
@[simp] theorem exec_semaddc (a : BitVec 5) (m : BitVec 9) (s : State) : exec (.semaddc a m) s = execSemaddc a m s := rfl
@[simp] theorem exec_semcas (d a : BitVec 5) (m : BitVec 9) (s : State) : exec (.semcas d a m) s = execSemcas d a m s := rfl
@[simp] theorem exec_semset (a : BitVec 5) (m : BitVec 9) (s : State) : exec (.semset a m) s = execSemset a m s := rfl
@[simp] theorem exec_semread (d : BitVec 5) (m : BitVec 9) (s : State) : exec (.semread d m) s = execSemread d m s := rfl
@[simp] theorem exec_semwait (a : BitVec 5) (m : BitVec 9) (s : State) : exec (.semwait a m) s = execSemwait a m s := rfl
@[simp] theorem exec_draw (d a : BitVec 5) (s : State) : exec (.draw d a) s = execDraw d a s := rfl
@[simp] theorem exec_rclaim (d : BitVec 5) (q : BitVec 8) (s : State) : exec (.rclaim d q) s = execRclaim d q s := rfl
@[simp] theorem exec_rfill (a : BitVec 5) (q : BitVec 8) (s : State) : exec (.rfill a q) s = execRfill a q s := rfl
@[simp] theorem exec_rwaitf (q : BitVec 8) (s : State) : exec (.rwaitf q) s = execRwaitf q s := rfl
@[simp] theorem exec_rwaite (q : BitVec 8) (s : State) : exec (.rwaite q) s = execRwaite q s := rfl
@[simp] theorem exec_rtake (d : BitVec 5) (q : BitVec 8) (s : State) : exec (.rtake d q) s = execRtake d q s := rfl
@[simp] theorem exec_rfree (a : BitVec 5) (q : BitVec 8) (s : State) : exec (.rfree a q) s = execRfree a q s := rfl
@[simp] theorem exec_rstat (d : BitVec 5) (q : BitVec 8) (s : State) : exec (.rstat d q) s = execRstat d q s := rfl
@[simp] theorem exec_join (g : BitVec 6) (s : State) : exec (.join g) s = execJoin g s := rfl
@[simp] theorem exec_leave (g : BitVec 6) (s : State) : exec (.leave g) s = execLeave g s := rfl
@[simp] theorem exec_arrive (d : BitVec 5) (g : BitVec 6) (s : State) : exec (.arrive d g) s = execArrive d g s := rfl
@[simp] theorem exec_bwait (a : BitVec 5) (g : BitVec 6) (s : State) : exec (.bwait a g) s = execBwait a g s := rfl
@[simp] theorem exec_btest (d a : BitVec 5) (g : BitVec 6) (s : State) : exec (.btest d a g) s = execBtest d a g s := rfl
@[simp] theorem exec_tlwait (a : BitVec 5) (ctr inst : BitVec 4) (s : State) : exec (.tlwait a ctr inst) s = execTlwait a ctr inst s := rfl
@[simp] theorem exec_tlread (d : BitVec 5) (ctr inst : BitVec 4) (s : State) : exec (.tlread d ctr inst) s = execTlread d ctr inst s := rfl
@[simp] theorem exec_xfenceO2E (s : State) : exec (.xfenceO2E) s = execXfenceO2E s := rfl
@[simp] theorem exec_xfenceE2O (s : State) : exec (.xfenceE2O) s = execXfenceE2O s := rfl
@[simp] theorem exec_cload (k : BitVec 4) (a : BitVec 5) (imm : BitVec 8) (s : State) : exec (.cload k a imm) s = execCload k a imm s := rfl
@[simp] theorem exec_cset (k n : BitVec 4) (a : BitVec 5) (s : State) : exec (.cset k n a) s = execCset k n a s := rfl
@[simp] theorem exec_cseti (k n : BitVec 4) (imm : BitVec 18) (s : State) : exec (.cseti k n imm) s = execCseti k n imm s := rfl
@[simp] theorem exec_cpush (d : BitVec 5) (k : BitVec 4) (s : State) : exec (.cpush d k) s = execCpush d k s := rfl
@[simp] theorem exec_cstat (d : BitVec 5) (eng k : BitVec 4) (s : State) : exec (.cstat d eng k) s = execCstat d eng k s := rfl
@[simp] theorem exec_tnext (d : BitVec 5) (s : State) : exec (.tnext d) s = execTnext d s := rfl
@[simp] theorem exec_tend (s : State) : exec (.tend) s = execTend s := rfl
@[simp] theorem exec_tabort (s : State) : exec (.tabort) s = execTabort s := rfl
@[simp] theorem exec_tquery (d a : BitVec 5) (s : State) : exec (.tquery d a) s = execTquery d a s := rfl
@[simp] theorem exec_nop (s : State) : exec (.nop) s = execNop s := rfl
@[simp] theorem exec_halt (s : State) : exec (.halt) s = execHalt s := rfl
@[simp] theorem exec_trap (code : BitVec 5) (s : State) : exec (.trap code) s = execTrap code s := rfl
@[simp] theorem exec_eret (s : State) : exec (.eret) s = execEret s := rfl
@[simp] theorem exec_sysr (d : BitVec 5) (sr : BitVec 10) (s : State) : exec (.sysr d sr) s = execSysr d sr s := rfl
@[simp] theorem exec_sysw (a : BitVec 5) (sr : BitVec 10) (s : State) : exec (.sysw a sr) s = execSysw a sr s := rfl
@[simp] theorem exec_probe (a : BitVec 5) (s : State) : exec (.probe a) s = execProbe a s := rfl
@[simp] theorem exec_clean (a b : BitVec 5) (s : State) : exec (.clean a b) s = execClean a b s := rfl
@[simp] theorem exec_inval (a b : BitVec 5) (s : State) : exec (.inval a b) s = execInval a b s := rfl
@[simp] theorem exec_ptest (d a : BitVec 5) (s : State) : exec (.ptest d a) s = execPtest d a s := rfl
@[simp] theorem exec_pfxC (coord : BitVec 8) (s : State) : exec (.pfxC coord) s = execPfxC coord s := rfl
@[simp] theorem exec_pfxI (imm : BitVec 24) (s : State) : exec (.pfxI imm) s = execPfxI imm s := rfl
@[simp] theorem exec_fadd (p : BitVec 4) (d a b : VReg) (s : State) : exec (.fadd p d a b) s = execFadd p d a b s := rfl
@[simp] theorem exec_fsub (p : BitVec 4) (d a b : VReg) (s : State) : exec (.fsub p d a b) s = execFsub p d a b s := rfl
@[simp] theorem exec_fmul (p : BitVec 4) (d a b : VReg) (s : State) : exec (.fmul p d a b) s = execFmul p d a b s := rfl
@[simp] theorem exec_fma (p : BitVec 4) (d a b : VReg) (s : State) : exec (.fma p d a b) s = execFma p d a b s := rfl
@[simp] theorem exec_fms (p : BitVec 4) (d a b : VReg) (s : State) : exec (.fms p d a b) s = execFms p d a b s := rfl
@[simp] theorem exec_fnma (p : BitVec 4) (d a b : VReg) (s : State) : exec (.fnma p d a b) s = execFnma p d a b s := rfl
@[simp] theorem exec_fmin (p : BitVec 4) (d a b : VReg) (s : State) : exec (.fmin p d a b) s = execFmin p d a b s := rfl
@[simp] theorem exec_fmax (p : BitVec 4) (d a b : VReg) (s : State) : exec (.fmax p d a b) s = execFmax p d a b s := rfl
@[simp] theorem exec_fabs (p : BitVec 4) (d a : VReg) (s : State) : exec (.fabs p d a) s = execFabs p d a s := rfl
@[simp] theorem exec_fneg (p : BitVec 4) (d a : VReg) (s : State) : exec (.fneg p d a) s = execFneg p d a s := rfl
@[simp] theorem exec_fcmpSet1 (p : BitVec 4) (cc : BitVec 2) (pd : BitVec 4) (a b : VReg) (s : State) : exec (.fcmpSet1 p cc pd a b) s = execFcmpSet1 p cc pd a b s := rfl
@[simp] theorem exec_fcmpSet2 (p : BitVec 4) (cc : BitVec 2) (pd : BitVec 4) (a b : VReg) (s : State) : exec (.fcmpSet2 p cc pd a b) s = execFcmpSet2 p cc pd a b s := rfl
@[simp] theorem exec_frcp (p : BitVec 4) (d a : VReg) (s : State) : exec (.frcp p d a) s = execFrcp p d a s := rfl
@[simp] theorem exec_frsq (p : BitVec 4) (d a : VReg) (s : State) : exec (.frsq p d a) s = execFrsq p d a s := rfl
@[simp] theorem exec_fsqrt (p : BitVec 4) (d a : VReg) (s : State) : exec (.fsqrt p d a) s = execFsqrt p d a s := rfl
@[simp] theorem exec_fdiv (p : BitVec 4) (d a b : VReg) (s : State) : exec (.fdiv p d a b) s = execFdiv p d a b s := rfl
@[simp] theorem exec_fexp2 (p : BitVec 4) (d a : VReg) (s : State) : exec (.fexp2 p d a) s = execFexp2 p d a s := rfl
@[simp] theorem exec_flog2 (p : BitVec 4) (d a : VReg) (s : State) : exec (.flog2 p d a) s = execFlog2 p d a s := rfl
@[simp] theorem exec_fclass (p : BitVec 4) (d a : VReg) (s : State) : exec (.fclass p d a) s = execFclass p d a s := rfl
@[simp] theorem exec_iadd (p : BitVec 4) (d a b : VReg) (s : State) : exec (.iadd p d a b) s = execIadd p d a b s := rfl
@[simp] theorem exec_iadds (p : BitVec 4) (d a b : VReg) (s : State) : exec (.iadds p d a b) s = execIadds p d a b s := rfl
@[simp] theorem exec_isub (p : BitVec 4) (d a b : VReg) (s : State) : exec (.isub p d a b) s = execIsub p d a b s := rfl
@[simp] theorem exec_imul (p : BitVec 4) (d a b : VReg) (s : State) : exec (.imul p d a b) s = execImul p d a b s := rfl
@[simp] theorem exec_imulh (p : BitVec 4) (d a b : VReg) (s : State) : exec (.imulh p d a b) s = execImulh p d a b s := rfl
@[simp] theorem exec_imad (p : BitVec 4) (d a b : VReg) (s : State) : exec (.imad p d a b) s = execImad p d a b s := rfl
@[simp] theorem exec_imin (p : BitVec 4) (d a b : VReg) (s : State) : exec (.imin p d a b) s = execImin p d a b s := rfl
@[simp] theorem exec_imax (p : BitVec 4) (d a b : VReg) (s : State) : exec (.imax p d a b) s = execImax p d a b s := rfl
@[simp] theorem exec_iabs (p : BitVec 4) (d a : VReg) (s : State) : exec (.iabs p d a) s = execIabs p d a s := rfl
@[simp] theorem exec_iand (p : BitVec 4) (d a b : VReg) (s : State) : exec (.iand p d a b) s = execIand p d a b s := rfl
@[simp] theorem exec_ior (p : BitVec 4) (d a b : VReg) (s : State) : exec (.ior p d a b) s = execIor p d a b s := rfl
@[simp] theorem exec_ixor (p : BitVec 4) (d a b : VReg) (s : State) : exec (.ixor p d a b) s = execIxor p d a b s := rfl
@[simp] theorem exec_inot (p : BitVec 4) (d a : VReg) (s : State) : exec (.inot p d a) s = execInot p d a s := rfl
@[simp] theorem exec_ishl (p : BitVec 4) (d a b : VReg) (s : State) : exec (.ishl p d a b) s = execIshl p d a b s := rfl
@[simp] theorem exec_ishr (p : BitVec 4) (d a b : VReg) (s : State) : exec (.ishr p d a b) s = execIshr p d a b s := rfl
@[simp] theorem exec_isar (p : BitVec 4) (d a b : VReg) (s : State) : exec (.isar p d a b) s = execIsar p d a b s := rfl
@[simp] theorem exec_icmpSet1 (p : BitVec 4) (cc : BitVec 2) (pd : BitVec 4) (a b : VReg) (s : State) : exec (.icmpSet1 p cc pd a b) s = execIcmpSet1 p cc pd a b s := rfl
@[simp] theorem exec_icmpSet2 (p : BitVec 4) (cc : BitVec 2) (pd : BitVec 4) (a b : VReg) (s : State) : exec (.icmpSet2 p cc pd a b) s = execIcmpSet2 p cc pd a b s := rfl
@[simp] theorem exec_cvt (p : BitVec 4) (d a : VReg) (fmt : BitVec 4) (s : State) : exec (.cvt p d a fmt) s = execCvt p d a fmt s := rfl
@[simp] theorem exec_cvtsr (p : BitVec 4) (d a : VReg) (fmt : BitVec 4) (s : State) : exec (.cvtsr p d a fmt) s = execCvtsr p d a fmt s := rfl
@[simp] theorem exec_bamax (p : BitVec 4) (d a : VReg) (s : State) : exec (.bamax p d a) s = execBamax p d a s := rfl
@[simp] theorem exec_bscale (p : BitVec 4) (d a b : VReg) (s : State) : exec (.bscale p d a b) s = execBscale p d a b s := rfl
@[simp] theorem exec_qnt (p : BitVec 4) (d a : VReg) (fmt : BitVec 4) (s : State) : exec (.qnt p d a fmt) s = execQnt p d a fmt s := rfl
@[simp] theorem exec_dqnt (p : BitVec 4) (d a : VReg) (fmt : BitVec 4) (s : State) : exec (.dqnt p d a fmt) s = execDqnt p d a fmt s := rfl
@[simp] theorem exec_pack (p : BitVec 4) (d a : VReg) (fmt : BitVec 4) (s : State) : exec (.pack p d a fmt) s = execPack p d a fmt s := rfl
@[simp] theorem exec_unpack (p : BitVec 4) (d a : VReg) (fmt : BitVec 4) (s : State) : exec (.unpack p d a fmt) s = execUnpack p d a fmt s := rfl
@[simp] theorem exec_mov (p : BitVec 4) (d a : VReg) (s : State) : exec (.mov p d a) s = execMov p d a s := rfl
@[simp] theorem exec_movi (p : BitVec 4) (d : VReg) (imm : BitVec 32) (s : State) : exec (.movi p d imm) s = execMovi p d imm s := rfl
@[simp] theorem exec_movx (p : BitVec 4) (d a : VReg) (s : State) : exec (.movx p d a) s = execMovx p d a s := rfl
@[simp] theorem exec_vgetx (p : BitVec 4) (d : VReg) (xa : BitVec 3) (s : State) : exec (.vgetx p d xa) s = execVgetx p d xa s := rfl
@[simp] theorem exec_vsetx (p : BitVec 4) (xd : BitVec 3) (a : VReg) (s : State) : exec (.vsetx p xd a) s = execVsetx p xd a s := rfl
@[simp] theorem exec_perm (p : BitVec 4) (d a b : VReg) (s : State) : exec (.perm p d a b) s = execPerm p d a b s := rfl
@[simp] theorem exec_xperm (p : BitVec 4) (d a b : VReg) (s : State) : exec (.xperm p d a b) s = execXperm p d a b s := rfl
@[simp] theorem exec_bcast (p : BitVec 4) (d a : VReg) (lane : BitVec 5) (s : State) : exec (.bcast p d a lane) s = execBcast p d a lane s := rfl
@[simp] theorem exec_lshift (p : BitVec 4) (d a b : VReg) (s : State) : exec (.lshift p d a b) s = execLshift p d a b s := rfl
@[simp] theorem exec_redsum (p : BitVec 4) (d a : VReg) (s : State) : exec (.redsum p d a) s = execRedsum p d a s := rfl
@[simp] theorem exec_redmax (p : BitVec 4) (d a : VReg) (s : State) : exec (.redmax p d a) s = execRedmax p d a s := rfl
@[simp] theorem exec_scan (p : BitVec 4) (d a : VReg) (s : State) : exec (.scan p d a) s = execScan p d a s := rfl
@[simp] theorem exec_vld (p : BitVec 4) (mode : LoadMode) (d : VReg) (xa : BitVec 3) (disp : BitVec 30) (s : State) : exec (.vld p mode d xa disp) s = execVld p mode d xa disp s := rfl
@[simp] theorem exec_vst (p : BitVec 4) (mode : StoreMode) (d : VReg) (xa : BitVec 3) (disp : BitVec 30) (s : State) : exec (.vst p mode d xa disp) s = execVst p mode d xa disp s := rfl
@[simp] theorem exec_vlds (p : BitVec 4) (mode : LoadMode) (d : VReg) (xa xb : BitVec 3) (s : State) : exec (.vlds p mode d xa xb) s = execVlds p mode d xa xb s := rfl
@[simp] theorem exec_vsts (p : BitVec 4) (mode : StoreMode) (d : VReg) (xa xb : BitVec 3) (s : State) : exec (.vsts p mode d xa xb) s = execVsts p mode d xa xb s := rfl
@[simp] theorem exec_vldx (p : BitVec 4) (mode : LoadMode) (d : VReg) (xa : BitVec 3) (b : VReg) (s : State) : exec (.vldx p mode d xa b) s = execVldx p mode d xa b s := rfl
@[simp] theorem exec_vstx (p : BitVec 4) (mode : StoreMode) (d : VReg) (xa : BitVec 3) (b : VReg) (s : State) : exec (.vstx p mode d xa b) s = execVstx p mode d xa b s := rfl
@[simp] theorem exec_vstm (p : BitVec 4) (xa : BitVec 3) (disp : BitVec 6) (s : State) : exec (.vstm p xa disp) s = execVstm p xa disp s := rfl
@[simp] theorem exec_vtstw (bit : BitVec 6) (off : BitVec 12) (s : State) : exec (.vtstw bit off) s = execVtstw bit off s := rfl
@[simp] theorem exec_pset (p : BitVec 4) (pd : BitVec 4) (imm : BitVec 8) (s : State) : exec (.pset p pd imm) s = execPset p pd imm s := rfl
@[simp] theorem exec_pand (p : BitVec 4) (pd pa pb : BitVec 4) (s : State) : exec (.pand p pd pa pb) s = execPand p pd pa pb s := rfl
@[simp] theorem exec_por (p : BitVec 4) (pd pa pb : BitVec 4) (s : State) : exec (.por p pd pa pb) s = execPor p pd pa pb s := rfl
@[simp] theorem exec_pxor (p : BitVec 4) (pd pa pb : BitVec 4) (s : State) : exec (.pxor p pd pa pb) s = execPxor p pd pa pb s := rfl
@[simp] theorem exec_pnot (p : BitVec 4) (pd pa : BitVec 4) (s : State) : exec (.pnot p pd pa) s = execPnot p pd pa s := rfl
@[simp] theorem exec_pany (p : BitVec 4) (d : VReg) (pa : BitVec 4) (s : State) : exec (.pany p d pa) s = execPany p d pa s := rfl
@[simp] theorem exec_pcnt (p : BitVec 4) (d : VReg) (pa : BitVec 4) (s : State) : exec (.pcnt p d pa) s = execPcnt p d pa s := rfl
@[simp] theorem exec_vbr (p : BitVec 4) (cond : BitVec 2) (off : BitVec 18) (s : State) : exec (.vbr p cond off) s = execVbr p cond off s := rfl
@[simp] theorem exec_vjmp (off : BitVec 18) (s : State) : exec (.vjmp off) s = execVjmp off s := rfl
@[simp] theorem exec_vyield (s : State) : exec (.vyield) s = execVyield s := rfl
@[simp] theorem exec_vexit (s : State) : exec (.vexit) s = execVexit s := rfl
@[simp] theorem exec_vwait (m : BitVec 9) (xb : BitVec 3) (s : State) : exec (.vwait m xb) s = execVwait m xb s := rfl
@[simp] theorem exec_vsetshImm (imm : BitVec 24) (s : State) : exec (.vsetshImm imm) s = execVsetshImm imm s := rfl
@[simp] theorem exec_vsetshX (xa : BitVec 3) (s : State) : exec (.vsetshX xa) s = execVsetshX xa s := rfl
@[simp] theorem exec_vnop (s : State) : exec (.vnop) s = execVnop s := rfl
@[simp] theorem exec_vpfxr (e : Bool) (dh ah bh : BitVec 4) (s : State) : exec (.vpfxr e dh ah bh) s = execVpfxr e dh ah bh s := rfl
@[simp] theorem exec_vpfxi (imm : BitVec 24) (s : State) : exec (.vpfxi imm) s = execVpfxi imm s := rfl
@[simp] theorem exec_mma (acc : BitVec 3) (hA hB : BitVec 6) (z : Bool) (s : State) : exec (.mma acc hA hB z) s = execMma acc hA hB z s := rfl
@[simp] theorem exec_mmabs (acc : BitVec 3) (hA hB : BitVec 6) (z : Bool) (s : State) : exec (.mmabs acc hA hB z) s = execMmabs acc hA hB z s := rfl
@[simp] theorem exec_azero (acc : BitVec 3) (s : State) : exec (.azero acc) s = execAzero acc s := rfl
@[simp] theorem exec_aload (acc : BitVec 3) (h : BitVec 6) (s : State) : exec (.aload acc h) s = execAload acc h s := rfl
@[simp] theorem exec_astore (acc : BitVec 3) (h : BitVec 6) (n : BitVec 8) (s : State) : exec (.astore acc h n) s = execAstore acc h n s := rfl
@[simp] theorem exec_awm (acc : BitVec 3) (n : BitVec 8) (s : State) : exec (.awm acc n) s = execAwm acc n s := rfl
@[simp] theorem exec_await (acc : BitVec 3) (n : BitVec 8) (s : State) : exec (.await acc n) s = execAwait acc n s := rfl
@[simp] theorem exec_ascale (acc : BitVec 3) (h : BitVec 6) (s : State) : exec (.ascale acc h) s = execAscale acc h s := rfl
@[simp] theorem exec_acvt (acc : BitVec 3) (n : BitVec 8) (s : State) : exec (.acvt acc n) s = execAcvt acc n s := rfl
@[simp] theorem exec_achk (acc : BitVec 3) (s : State) : exec (.achk acc) s = execAchk acc s := rfl
@[simp] theorem exec_hset (h : BitVec 6) (st : BitVec 2) (s : State) : exec (.hset h st) s = execHset h st s := rfl
@[simp] theorem exec_hver (h : BitVec 6) (n : BitVec 8) (s : State) : exec (.hver h n) s = execHver h n s := rfl
@[simp] theorem exec_ctbl (t : BitVec 8) (st : BitVec 2) (s : State) : exec (.ctbl t st) s = execCtbl t st s := rfl
@[simp] theorem exec_copy (sa sb : BitVec 2) (f1 : BitVec 4) (n : BitVec 12) (s : State) : exec (.copy sa sb f1 n) s = execCopy sa sb f1 n s := rfl
@[simp] theorem exec_fill (sa sb : BitVec 2) (f1 : BitVec 4) (n : BitVec 12) (s : State) : exec (.fill sa sb f1 n) s = execFill sa sb f1 n s := rfl
@[simp] theorem exec_gather (sa sb sc : BitVec 2) (f1 : BitVec 4) (n : BitVec 12) (s : State) : exec (.gather sa sb sc f1 n) s = execGather sa sb sc f1 n s := rfl
@[simp] theorem exec_scatter (sa sb sc : BitVec 2) (f1 : BitVec 4) (n : BitVec 12) (s : State) : exec (.scatter sa sb sc f1 n) s = execScatter sa sb sc f1 n s := rfl
@[simp] theorem exec_mcast (sa sc : BitVec 2) (f1 : BitVec 4) (n : BitVec 12) (s : State) : exec (.mcast sa sc f1 n) s = execMcast sa sc f1 n s := rfl
@[simp] theorem exec_chsend (sa : BitVec 2) (q : BitVec 8) (n : BitVec 12) (s : State) : exec (.chsend sa q n) s = execChsend sa q n s := rfl
@[simp] theorem exec_xformConvert (sa sb : BitVec 2) (f1 f2 : BitVec 4) (n : BitVec 12) (s : State) : exec (.xformConvert sa sb f1 f2 n) s = execXformConvert sa sb f1 f2 n s := rfl
@[simp] theorem exec_xformCompress (sa sb : BitVec 2) (method : BitVec 4) (n : BitVec 12) (s : State) : exec (.xformCompress sa sb method n) s = execXformCompress sa sb method n s := rfl
@[simp] theorem exec_xformExpand (sa sb : BitVec 2) (f1 method : BitVec 4) (n : BitVec 12) (s : State) : exec (.xformExpand sa sb f1 method n) s = execXformExpand sa sb f1 method n s := rfl
@[simp] theorem exec_enc (sa sb : BitVec 2) (f1 t : BitVec 4) (n : BitVec 12) (s : State) : exec (.enc sa sb f1 t n) s = execEnc sa sb f1 t n s := rfl
@[simp] theorem exec_dec (sa sb : BitVec 2) (f1 : BitVec 4) (n : BitVec 12) (s : State) : exec (.dec sa sb f1 n) s = execDec sa sb f1 n s := rfl
@[simp] theorem exec_dcopy (sa sb : BitVec 2) (n : BitVec 12) (s : State) : exec (.dcopy sa sb n) s = execDcopy sa sb n s := rfl
@[simp] theorem exec_dfill (sa sb : BitVec 2) (n : BitVec 12) (s : State) : exec (.dfill sa sb n) s = execDfill sa sb n s := rfl
@[simp] theorem exec_dand (sa sb sc : BitVec 2) (n : BitVec 12) (s : State) : exec (.dand sa sb sc n) s = execDand sa sb sc n s := rfl
@[simp] theorem exec_dor (sa sb sc : BitVec 2) (n : BitVec 12) (s : State) : exec (.dor sa sb sc n) s = execDor sa sb sc n s := rfl
@[simp] theorem exec_dxor (sa sb sc : BitVec 2) (n : BitVec 12) (s : State) : exec (.dxor sa sb sc n) s = execDxor sa sb sc n s := rfl
@[simp] theorem exec_dnot (sa sb : BitVec 2) (n : BitVec 12) (s : State) : exec (.dnot sa sb n) s = execDnot sa sb n s := rfl
@[simp] theorem exec_dgsum (sa sb sc : BitVec 2) (f1 : BitVec 4) (n : BitVec 12) (s : State) : exec (.dgsum sa sb sc f1 n) s = execDgsum sa sb sc f1 n s := rfl
@[simp] theorem exec_sput (sa : BitVec 2) (slot n : BitVec 12) (s : State) : exec (.sput sa slot n) s = execSput sa slot n s := rfl
@[simp] theorem exec_sget (sa : BitVec 2) (slot n : BitVec 12) (s : State) : exec (.sget sa slot n) s = execSget sa slot n s := rfl
@[simp] theorem exec_sdrop (slot : BitVec 12) (s : State) : exec (.sdrop slot) s = execSdrop slot s := rfl
@[simp] theorem exec_spref (slot : BitVec 12) (s : State) : exec (.spref slot) s = execSpref slot s := rfl
@[simp] theorem exec_sqry (sa : BitVec 2) (slot : BitVec 12) (s : State) : exec (.sqry sa slot) s = execSqry sa slot s := rfl
@[simp] theorem exec_cred (sa : BitVec 2) (chunk : BitVec 12) (fmt : BitVec 4) (bucket : BitVec 8) (s : State) : exec (.cred sa chunk fmt bucket) s = execCred sa chunk fmt bucket s := rfl
@[simp] theorem exec_cgath (sa : BitVec 2) (chunk : BitVec 12) (fmt : BitVec 4) (bucket : BitVec 8) (s : State) : exec (.cgath sa chunk fmt bucket) s = execCgath sa chunk fmt bucket s := rfl
@[simp] theorem exec_cbar (bucket : BitVec 8) (s : State) : exec (.cbar bucket) s = execCbar bucket s := rfl
@[simp] theorem exec_checkedOpEffect (core : Nat) (ok : Bool) (s : State) : exec (.checkedOpEffect core ok) s = execCheckedOpEffect core ok s := rfl
@[simp] theorem exec_loadDataReturn (dst : LoadDst) (s : State) : exec (.loadDataReturn dst) s = execLoadDataReturn dst s := rfl
@[simp] theorem exec_storePerformed (src : StoreSrc) (s : State) : exec (.storePerformed src) s = execStorePerformed src s := rfl
@[simp] theorem exec_stalledIssueResume (core : Nat) (s : State) : exec (.stalledIssueResume core) s = execStalledIssueResume core s := rfl
@[simp] theorem exec_semwaitRelease (core : Nat) (s : State) : exec (.semwaitRelease core) s = execSemwaitRelease core s := rfl
@[simp] theorem exec_waitInterrupted (w : Waiter) (s : State) : exec (.waitInterrupted w) s = execWaitInterrupted w s := rfl
@[simp] theorem exec_ringWaitRelease (core : Nat) (s : State) : exec (.ringWaitRelease core) s = execRingWaitRelease core s := rfl
@[simp] theorem exec_bwaitRelease (core : Nat) (s : State) : exec (.bwaitRelease core) s = execBwaitRelease core s := rfl
@[simp] theorem exec_tlwaitRelease (core : Nat) (s : State) : exec (.tlwaitRelease core) s = execTlwaitRelease core s := rfl
@[simp] theorem exec_tendReport (core : Nat) (s : State) : exec (.tendReport core) s = execTendReport core s := rfl
@[simp] theorem exec_vwaitRelease (core strand rank : Nat) (s : State) : exec (.vwaitRelease core strand rank) s = execVwaitRelease core strand rank s := rfl
@[simp] theorem exec_fullWaitRelease (w : Waiter) (s : State) : exec (.fullWaitRelease w) s = execFullWaitRelease w s := rfl
@[simp] theorem exec_syncBundleJoin (core strand : Nat) (s : State) : exec (.syncBundleJoin core strand) s = execSyncBundleJoin core strand s := rfl
@[simp] theorem exec_vexitJoin (core strand : Nat) (s : State) : exec (.vexitJoin core strand) s = execVexitJoin core strand s := rfl
@[simp] theorem exec_starvationCountExpiry (core strand : Nat) (s : State) : exec (.starvationCountExpiry core strand) s = execStarvationCountExpiry core strand s := rfl
@[simp] theorem exec_vccResume (core : Nat) (s : State) : exec (.vccResume core) s = execVccResume core s := rfl
@[simp] theorem exec_commandHeadCheck (q : QId) (s : State) : exec (.commandHeadCheck q) s = execCommandHeadCheck q s := rfl
@[simp] theorem exec_commandWaitsMet (q : QId) (s : State) : exec (.commandWaitsMet q) s = execCommandWaitsMet q s := rfl
@[simp] theorem exec_strandCreate (core : Nat) (s : State) : exec (.strandCreate core) s = execStrandCreate core s := rfl
@[simp] theorem exec_chainedCommandStart (core : Nat) (s : State) : exec (.chainedCommandStart core) s = execChainedCommandStart core s := rfl
@[simp] theorem exec_commandComplete (q : QId) (num : Nat) (s : State) : exec (.commandComplete q num) s = execCommandComplete q num s := rfl
@[simp] theorem exec_commandSignal (q : QId) (num : Nat) (s : State) : exec (.commandSignal q num) s = execCommandSignal q num s := rfl
@[simp] theorem exec_mcastLanding (q : QId) (num idx : Nat) (s : State) : exec (.mcastLanding q num idx) s = execMcastLanding q num idx s := rfl
@[simp] theorem exec_matrixStepCheck (core : Nat) (ok : Bool) (s : State) : exec (.matrixStepCheck core ok) s = execMatrixStepCheck core ok s := rfl
@[simp] theorem exec_pinWaitRelease (core : Nat) (s : State) : exec (.pinWaitRelease core) s = execPinWaitRelease core s := rfl
@[simp] theorem exec_pinTimeout (core : Nat) (s : State) : exec (.pinTimeout core) s = execPinTimeout core s := rfl
@[simp] theorem exec_cutComplete (core : Nat) (s : State) : exec (.cutComplete core) s = execCutComplete core s := rfl
@[simp] theorem exec_qctlDiscard (core bit : Nat) (s : State) : exec (.qctlDiscard core bit) s = execQctlDiscard core bit s := rfl
@[simp] theorem exec_strctlEndStrand (core : Nat) (s : State) : exec (.strctlEndStrand core) s = execStrctlEndStrand core s := rfl
@[simp] theorem exec_strandDrainTimeout (core strand : Nat) (s : State) : exec (.strandDrainTimeout core strand) s = execStrandDrainTimeout core strand s := rfl
@[simp] theorem exec_ringmasterRound (ctx stage : Nat) (s : State) : exec (.ringmasterRound ctx stage) s = execRingmasterRound ctx stage s := rfl
@[simp] theorem exec_taskRetire (ctx stage task : Nat) (s : State) : exec (.taskRetire ctx stage task) s = execTaskRetire ctx stage task s := rfl
@[simp] theorem exec_stashLookahead (ctx stage : Nat) (s : State) : exec (.stashLookahead ctx stage) s = execStashLookahead ctx stage s := rfl
@[simp] theorem exec_chsendWindowGrant (ctx ring : Nat) (s : State) : exec (.chsendWindowGrant ctx ring) s = execChsendWindowGrant ctx ring s := rfl
@[simp] theorem exec_channelLanding (ctx ring slot : Nat) (first : Nat) (bytes : List (BitVec 8)) (poisoned : Bool) (s : State) : exec (.channelLanding ctx ring slot first bytes poisoned) s = execChannelLanding ctx ring slot first bytes poisoned s := rfl
@[simp] theorem exec_channelPublish (ctx ring seq : Nat) (tag : BitVec 16) (void : Bool) (s : State) : exec (.channelPublish ctx ring seq tag void) s = execChannelPublish ctx ring seq tag void s := rfl
@[simp] theorem exec_channelAdvertisement (ctx ring : Nat) (freed : BitVec 32) (s : State) : exec (.channelAdvertisement ctx ring freed) s = execChannelAdvertisement ctx ring freed s := rfl
@[simp] theorem exec_carouselConsume (ctx die chunk : Nat) (s : State) : exec (.carouselConsume ctx die chunk) s = execCarouselConsume ctx die chunk s := rfl
@[simp] theorem exec_carouselReduceArrival (ctx die : Nat) (msg : RingWire) (s : State) : exec (.carouselReduceArrival ctx die msg) s = execCarouselReduceArrival ctx die msg s := rfl
@[simp] theorem exec_carouselGatherArrival (ctx die : Nat) (msg : RingWire) (s : State) : exec (.carouselGatherArrival ctx die msg) s = execCarouselGatherArrival ctx die msg s := rfl
@[simp] theorem exec_loadLtt (ctx : Nat) (s : State) : exec (.loadLtt ctx) s = execLoadLtt ctx s := rfl
@[simp] theorem exec_declareStage (ctx : Nat) (s : State) : exec (.declareStage ctx) s = execDeclareStage ctx s := rfl
@[simp] theorem exec_launch (ctx : Nat) (s : State) : exec (.launch ctx) s = execLaunch ctx s := rfl
@[simp] theorem exec_preempt (ctx : Nat) (s : State) : exec (.preempt ctx) s = execPreempt ctx s := rfl
@[simp] theorem exec_preemptSaved (ctx : Nat) (s : State) : exec (.preemptSaved ctx) s = execPreemptSaved ctx s := rfl
@[simp] theorem exec_resume (ctx : Nat) (s : State) : exec (.resume ctx) s = execResume ctx s := rfl
@[simp] theorem exec_kill (ctx : Nat) (s : State) : exec (.kill ctx) s = execKill ctx s := rfl
@[simp] theorem exec_curtainMessage (ctx : Nat) (gen : BitVec 32) (start : BitVec 56) (tag0 mbnm1 : BitVec 16) (list : CurtainList) (s : State) : exec (.curtainMessage ctx gen start tag0 mbnm1 list) s = execCurtainMessage ctx gen start tag0 mbnm1 list s := rfl
@[simp] theorem exec_curtainReport (ctx w4 : Nat) (fault : Bool) (s : State) : exec (.curtainReport ctx w4 fault) s = execCurtainReport ctx w4 fault s := rfl
@[simp] theorem exec_curtainRise (ctx : Nat) (joins : List ChannelJoin) (s : State) : exec (.curtainRise ctx joins) s = execCurtainRise ctx joins s := rfl
@[simp] theorem exec_curtainFall (ctx : Nat) (err : BitVec 8) (fallen : CurtainFallen) (s : State) : exec (.curtainFall ctx err fallen) s = execCurtainFall ctx err fallen s := rfl
@[simp] theorem exec_curtainTimeout (ctx : Nat) (s : State) : exec (.curtainTimeout ctx) s = execCurtainTimeout ctx s := rfl
@[simp] theorem exec_lossMessage (ctx : Nat) (w4 : BitVec 24) (s : State) : exec (.lossMessage ctx w4) s = execLossMessage ctx w4 s := rfl
@[simp] theorem exec_flitReceive (port : Nat) (flit : List (BitVec 8)) (s : State) : exec (.flitReceive port flit) s = execFlitReceive port flit s := rfl
@[simp] theorem exec_linkDown (port : Nat) (lost : List (BitVec 24)) (ranks : List Nat) (s : State) : exec (.linkDown port lost ranks) s = execLinkDown port lost ranks s := rfl
@[simp] theorem exec_remoteStoreAck (src : StoreSrc) (s : State) : exec (.remoteStoreAck src) s = execRemoteStoreAck src s := rfl
@[simp] theorem exec_hostMemAccess (write : Bool) (addr : Nat) (data : List (BitVec 8)) (s : State) : exec (.hostMemAccess write addr data) s = execHostMemAccess write addr data s := rfl
@[simp] theorem exec_lrbaseWrite (ctx : Nat) (value : BitVec 64) (s : State) : exec (.lrbaseWrite ctx value) s = execLrbaseWrite ctx value s := rfl
@[simp] theorem exec_lrsizeWrite (ctx : Nat) (value : BitVec 64) (s : State) : exec (.lrsizeWrite ctx value) s = execLrsizeWrite ctx value s := rfl
@[simp] theorem exec_lrtailWrite (ctx : Nat) (value : BitVec 64) (s : State) : exec (.lrtailWrite ctx value) s = execLrtailWrite ctx value s := rfl
@[simp] theorem exec_lrstatWrite (ctx : Nat) (value : BitVec 64) (s : State) : exec (.lrstatWrite ctx value) s = execLrstatWrite ctx value s := rfl
@[simp] theorem exec_lrkillWrite (ctx : Nat) (value : BitVec 64) (s : State) : exec (.lrkillWrite ctx value) s = execLrkillWrite ctx value s := rfl
@[simp] theorem exec_lttcmdWrite (ctx : Nat) (value : BitVec 64) (s : State) : exec (.lttcmdWrite ctx value) s = execLttcmdWrite ctx value s := rfl
@[simp] theorem exec_lttcmdRemove (ctx : Nat) (value : BitVec 64) (s : State) : exec (.lttcmdRemove ctx value) s = execLttcmdRemove ctx value s := rfl
@[simp] theorem exec_lttcmdResume (ctx : Nat) (value : BitVec 64) (s : State) : exec (.lttcmdResume ctx value) s = execLttcmdResume ctx value s := rfl
@[simp] theorem exec_dbgctlHalt (ctx : Nat) (value : BitVec 64) (s : State) : exec (.dbgctlHalt ctx value) s = execDbgctlHalt ctx value s := rfl
@[simp] theorem exec_dbgctlResume (ctx : Nat) (value : BitVec 64) (s : State) : exec (.dbgctlResume ctx value) s = execDbgctlResume ctx value s := rfl
@[simp] theorem exec_evbaseWrite (ctx : Nat) (value : BitVec 64) (s : State) : exec (.evbaseWrite ctx value) s = execEvbaseWrite ctx value s := rfl
@[simp] theorem exec_evsizeWrite (ctx : Nat) (value : BitVec 64) (s : State) : exec (.evsizeWrite ctx value) s = execEvsizeWrite ctx value s := rfl
@[simp] theorem exec_evheadWrite (ctx : Nat) (value : BitVec 64) (s : State) : exec (.evheadWrite ctx value) s = execEvheadWrite ctx value s := rfl
@[simp] theorem exec_registerWrite (ctx : Nat) (offset : BitVec 12) (value : BitVec 64) (s : State) : exec (.registerWrite ctx offset value) s = execRegisterWrite ctx offset value s := rfl
@[simp] theorem exec_moduleReset (fw : Bringup) (s : State) : exec (.moduleReset fw) s = execModuleReset fw s := rfl
@[simp] theorem exec_wearSample (samples : List WearReading) (s : State) : exec (.wearSample samples) s = execWearSample samples s := rfl
@[simp] theorem exec_wearFlashWrite (s : State) : exec (.wearFlashWrite) s = execWearFlashWrite s := rfl
@[simp] theorem exec_clockChangeStart (core : Nat) (s : State) : exec (.clockChangeStart core) s = execClockChangeStart core s := rfl
@[simp] theorem exec_clockChangeComplete (core : Nat) (s : State) : exec (.clockChangeComplete core) s = execClockChangeComplete core s := rfl
@[simp] theorem exec_laneRepair (stack channel : Nat) (s : State) : exec (.laneRepair stack channel) s = execLaneRepair stack channel s := rfl
@[simp] theorem exec_laneRepairDone (stack channel : Nat) (s : State) : exec (.laneRepairDone stack channel) s = execLaneRepairDone stack channel s := rfl
@[simp] theorem exec_tnextAnswerArrival (core : Nat) (s : State) : exec (.tnextAnswerArrival core) s = execTnextAnswerArrival core s := rfl
@[simp] theorem exec_remoteResultReturn (core : Nat) (d : BitVec 5) (s : State) : exec (.remoteResultReturn core d) s = execRemoteResultReturn core d s := rfl
@[simp] theorem exec_remoteAccessAtHome (acc : HomeAccess) (s : State) : exec (.remoteAccessAtHome acc) s = execRemoteAccessAtHome acc s := rfl
@[simp] theorem exec_leaseExpiry (line : Nat) (s : State) : exec (.leaseExpiry line) s = execLeaseExpiry line s := rfl
@[simp] theorem exec_dirtySectorWriteBack (sector : Nat) (s : State) : exec (.dirtySectorWriteBack sector) s = execDirtySectorWriteBack sector s := rfl
@[simp] theorem exec_powerLoss (s : State) : exec (.powerLoss) s = execPowerLoss s := rfl

end Sys2Proof.Machine
end

