-- ==== Sys2Proof/Laws/State.lean ====
section
/-!
SUPPORT. Sys2Proof/Laws/State.lean: one lemma per field per update of the state and of a core, and what the accessors read after the
updates, so that no proof unfolds a record update.
-/
namespace Sys2Proof.Machine

/-! ### Updates of the state -/

@[simp] theorem State.setCore_who (s : State) (n : Nat) (c : Core) : (s.setCore n c).who = s.who := rfl
@[simp] theorem State.setCore_sched (s : State) (n : Nat) (c : Core) : (s.setCore n c).sched = s.sched := rfl
@[simp] theorem State.setCore_focus (s : State) (n : Nat) (c : Core) : (s.setCore n c).focus = s.focus := rfl
@[simp] theorem State.setCore_fresh (s : State) (n : Nat) (c : Core) : (s.setCore n c).fresh = s.fresh := rfl
@[simp] theorem State.setCore_uid (s : State) (n : Nat) (c : Core) : (s.setCore n c).uid = s.uid := rfl
@[simp] theorem State.setCore_seqNo (s : State) (n : Nat) (c : Core) : (s.setCore n c).seqNo = s.seqNo := rfl
@[simp] theorem State.setCore_now (s : State) (n : Nat) (c : Core) : (s.setCore n c).now = s.now := rfl
@[simp] theorem State.setCore_outbox (s : State) (n : Nat) (c : Core) : (s.setCore n c).outbox = s.outbox := rfl
@[simp] theorem State.setCore_ms (s : State) (n : Nat) (c : Core) : (s.setCore n c).ms = s.ms := rfl
@[simp] theorem State.setCore_stamps (s : State) (n : Nat) (c : Core) : (s.setCore n c).stamps = s.stamps := rfl
@[simp] theorem State.setCore_mod (s : State) (n : Nat) (c : Core) : (s.setCore n c).mod = s.mod := rfl
@[simp] theorem State.setCore_ctxs (s : State) (n : Nat) (c : Core) : (s.setCore n c).ctxs = s.ctxs := rfl

@[simp] theorem State.modCore_who (s : State) (n : Nat) (f : Core → Core) : (s.modCore n f).who = s.who := rfl
@[simp] theorem State.modCore_sched (s : State) (n : Nat) (f : Core → Core) : (s.modCore n f).sched = s.sched := rfl
@[simp] theorem State.modCore_focus (s : State) (n : Nat) (f : Core → Core) : (s.modCore n f).focus = s.focus := rfl
@[simp] theorem State.modCore_fresh (s : State) (n : Nat) (f : Core → Core) : (s.modCore n f).fresh = s.fresh := rfl
@[simp] theorem State.modCore_uid (s : State) (n : Nat) (f : Core → Core) : (s.modCore n f).uid = s.uid := rfl
@[simp] theorem State.modCore_seqNo (s : State) (n : Nat) (f : Core → Core) : (s.modCore n f).seqNo = s.seqNo := rfl
@[simp] theorem State.modCore_now (s : State) (n : Nat) (f : Core → Core) : (s.modCore n f).now = s.now := rfl
@[simp] theorem State.modCore_outbox (s : State) (n : Nat) (f : Core → Core) : (s.modCore n f).outbox = s.outbox := rfl
@[simp] theorem State.modCore_ms (s : State) (n : Nat) (f : Core → Core) : (s.modCore n f).ms = s.ms := rfl
@[simp] theorem State.modCore_stamps (s : State) (n : Nat) (f : Core → Core) : (s.modCore n f).stamps = s.stamps := rfl
@[simp] theorem State.modCore_mod (s : State) (n : Nat) (f : Core → Core) : (s.modCore n f).mod = s.mod := rfl
@[simp] theorem State.modCore_ctxs (s : State) (n : Nat) (f : Core → Core) : (s.modCore n f).ctxs = s.ctxs := rfl

@[simp] theorem State.setCtx_who (s : State) (n : Nat) (x : Ctx) : (s.setCtx n x).who = s.who := rfl
@[simp] theorem State.setCtx_sched (s : State) (n : Nat) (x : Ctx) : (s.setCtx n x).sched = s.sched := rfl
@[simp] theorem State.setCtx_focus (s : State) (n : Nat) (x : Ctx) : (s.setCtx n x).focus = s.focus := rfl
@[simp] theorem State.setCtx_fresh (s : State) (n : Nat) (x : Ctx) : (s.setCtx n x).fresh = s.fresh := rfl
@[simp] theorem State.setCtx_uid (s : State) (n : Nat) (x : Ctx) : (s.setCtx n x).uid = s.uid := rfl
@[simp] theorem State.setCtx_seqNo (s : State) (n : Nat) (x : Ctx) : (s.setCtx n x).seqNo = s.seqNo := rfl
@[simp] theorem State.setCtx_now (s : State) (n : Nat) (x : Ctx) : (s.setCtx n x).now = s.now := rfl
@[simp] theorem State.setCtx_outbox (s : State) (n : Nat) (x : Ctx) : (s.setCtx n x).outbox = s.outbox := rfl
@[simp] theorem State.setCtx_ms (s : State) (n : Nat) (x : Ctx) : (s.setCtx n x).ms = s.ms := rfl
@[simp] theorem State.setCtx_stamps (s : State) (n : Nat) (x : Ctx) : (s.setCtx n x).stamps = s.stamps := rfl
@[simp] theorem State.setCtx_mod (s : State) (n : Nat) (x : Ctx) : (s.setCtx n x).mod = s.mod := rfl
@[simp] theorem State.setCtx_cores (s : State) (n : Nat) (x : Ctx) : (s.setCtx n x).cores = s.cores := rfl

@[simp] theorem State.modCtx_who (s : State) (n : Nat) (f : Ctx → Ctx) : (s.modCtx n f).who = s.who := rfl
@[simp] theorem State.modCtx_sched (s : State) (n : Nat) (f : Ctx → Ctx) : (s.modCtx n f).sched = s.sched := rfl
@[simp] theorem State.modCtx_focus (s : State) (n : Nat) (f : Ctx → Ctx) : (s.modCtx n f).focus = s.focus := rfl
@[simp] theorem State.modCtx_fresh (s : State) (n : Nat) (f : Ctx → Ctx) : (s.modCtx n f).fresh = s.fresh := rfl
@[simp] theorem State.modCtx_uid (s : State) (n : Nat) (f : Ctx → Ctx) : (s.modCtx n f).uid = s.uid := rfl
@[simp] theorem State.modCtx_seqNo (s : State) (n : Nat) (f : Ctx → Ctx) : (s.modCtx n f).seqNo = s.seqNo := rfl
@[simp] theorem State.modCtx_now (s : State) (n : Nat) (f : Ctx → Ctx) : (s.modCtx n f).now = s.now := rfl
@[simp] theorem State.modCtx_outbox (s : State) (n : Nat) (f : Ctx → Ctx) : (s.modCtx n f).outbox = s.outbox := rfl
@[simp] theorem State.modCtx_ms (s : State) (n : Nat) (f : Ctx → Ctx) : (s.modCtx n f).ms = s.ms := rfl
@[simp] theorem State.modCtx_stamps (s : State) (n : Nat) (f : Ctx → Ctx) : (s.modCtx n f).stamps = s.stamps := rfl
@[simp] theorem State.modCtx_mod (s : State) (n : Nat) (f : Ctx → Ctx) : (s.modCtx n f).mod = s.mod := rfl
@[simp] theorem State.modCtx_cores (s : State) (n : Nat) (f : Ctx → Ctx) : (s.modCtx n f).cores = s.cores := rfl

@[simp] theorem State.send_who (s : State) (m : OutMsg) : (s.send m).who = s.who := rfl
@[simp] theorem State.send_sched (s : State) (m : OutMsg) : (s.send m).sched = s.sched := rfl
@[simp] theorem State.send_focus (s : State) (m : OutMsg) : (s.send m).focus = s.focus := rfl
@[simp] theorem State.send_fresh (s : State) (m : OutMsg) : (s.send m).fresh = s.fresh := rfl
@[simp] theorem State.send_uid (s : State) (m : OutMsg) : (s.send m).uid = s.uid := rfl
@[simp] theorem State.send_seqNo (s : State) (m : OutMsg) : (s.send m).seqNo = s.seqNo := rfl
@[simp] theorem State.send_now (s : State) (m : OutMsg) : (s.send m).now = s.now := rfl
@[simp] theorem State.send_ms (s : State) (m : OutMsg) : (s.send m).ms = s.ms := rfl
@[simp] theorem State.send_stamps (s : State) (m : OutMsg) : (s.send m).stamps = s.stamps := rfl
@[simp] theorem State.send_mod (s : State) (m : OutMsg) : (s.send m).mod = s.mod := rfl
@[simp] theorem State.send_cores (s : State) (m : OutMsg) : (s.send m).cores = s.cores := rfl
@[simp] theorem State.send_ctxs (s : State) (m : OutMsg) : (s.send m).ctxs = s.ctxs := rfl

@[simp] theorem State.setStage_who (s : State) (x n : Nat) (st : Stage) : (s.setStage x n st).who = s.who := rfl
@[simp] theorem State.setStage_sched (s : State) (x n : Nat) (st : Stage) : (s.setStage x n st).sched = s.sched := rfl
@[simp] theorem State.setStage_focus (s : State) (x n : Nat) (st : Stage) : (s.setStage x n st).focus = s.focus := rfl
@[simp] theorem State.setStage_fresh (s : State) (x n : Nat) (st : Stage) : (s.setStage x n st).fresh = s.fresh := rfl
@[simp] theorem State.setStage_uid (s : State) (x n : Nat) (st : Stage) : (s.setStage x n st).uid = s.uid := rfl
@[simp] theorem State.setStage_seqNo (s : State) (x n : Nat) (st : Stage) : (s.setStage x n st).seqNo = s.seqNo := rfl
@[simp] theorem State.setStage_now (s : State) (x n : Nat) (st : Stage) : (s.setStage x n st).now = s.now := rfl
@[simp] theorem State.setStage_outbox (s : State) (x n : Nat) (st : Stage) : (s.setStage x n st).outbox = s.outbox := rfl
@[simp] theorem State.setStage_ms (s : State) (x n : Nat) (st : Stage) : (s.setStage x n st).ms = s.ms := rfl
@[simp] theorem State.setStage_stamps (s : State) (x n : Nat) (st : Stage) : (s.setStage x n st).stamps = s.stamps := rfl
@[simp] theorem State.setStage_mod (s : State) (x n : Nat) (st : Stage) : (s.setStage x n st).mod = s.mod := rfl
@[simp] theorem State.setStage_cores (s : State) (x n : Nat) (st : Stage) : (s.setStage x n st).cores = s.cores := rfl

@[simp] theorem State.setRing_who (s : State) (n q : Nat) (r : Ring) : (s.setRing n q r).who = s.who := rfl
@[simp] theorem State.setRing_sched (s : State) (n q : Nat) (r : Ring) : (s.setRing n q r).sched = s.sched := rfl
@[simp] theorem State.setRing_focus (s : State) (n q : Nat) (r : Ring) : (s.setRing n q r).focus = s.focus := rfl
@[simp] theorem State.setRing_fresh (s : State) (n q : Nat) (r : Ring) : (s.setRing n q r).fresh = s.fresh := rfl
@[simp] theorem State.setRing_uid (s : State) (n q : Nat) (r : Ring) : (s.setRing n q r).uid = s.uid := rfl
@[simp] theorem State.setRing_seqNo (s : State) (n q : Nat) (r : Ring) : (s.setRing n q r).seqNo = s.seqNo := rfl
@[simp] theorem State.setRing_now (s : State) (n q : Nat) (r : Ring) : (s.setRing n q r).now = s.now := rfl
@[simp] theorem State.setRing_outbox (s : State) (n q : Nat) (r : Ring) : (s.setRing n q r).outbox = s.outbox := rfl
@[simp] theorem State.setRing_ms (s : State) (n q : Nat) (r : Ring) : (s.setRing n q r).ms = s.ms := rfl
@[simp] theorem State.setRing_stamps (s : State) (n q : Nat) (r : Ring) : (s.setRing n q r).stamps = s.stamps := rfl
@[simp] theorem State.setRing_mod (s : State) (n q : Nat) (r : Ring) : (s.setRing n q r).mod = s.mod := rfl
@[simp] theorem State.setRing_cores (s : State) (n q : Nat) (r : Ring) : (s.setRing n q r).cores = s.cores := rfl

@[simp] theorem State.setMset_who (s : State) (n g : Nat) (v : MemberSet) : (s.setMset n g v).who = s.who := rfl
@[simp] theorem State.setMset_sched (s : State) (n g : Nat) (v : MemberSet) : (s.setMset n g v).sched = s.sched := rfl
@[simp] theorem State.setMset_focus (s : State) (n g : Nat) (v : MemberSet) : (s.setMset n g v).focus = s.focus := rfl
@[simp] theorem State.setMset_fresh (s : State) (n g : Nat) (v : MemberSet) : (s.setMset n g v).fresh = s.fresh := rfl
@[simp] theorem State.setMset_uid (s : State) (n g : Nat) (v : MemberSet) : (s.setMset n g v).uid = s.uid := rfl
@[simp] theorem State.setMset_seqNo (s : State) (n g : Nat) (v : MemberSet) : (s.setMset n g v).seqNo = s.seqNo := rfl
@[simp] theorem State.setMset_now (s : State) (n g : Nat) (v : MemberSet) : (s.setMset n g v).now = s.now := rfl
@[simp] theorem State.setMset_outbox (s : State) (n g : Nat) (v : MemberSet) : (s.setMset n g v).outbox = s.outbox := rfl
@[simp] theorem State.setMset_ms (s : State) (n g : Nat) (v : MemberSet) : (s.setMset n g v).ms = s.ms := rfl
@[simp] theorem State.setMset_stamps (s : State) (n g : Nat) (v : MemberSet) : (s.setMset n g v).stamps = s.stamps := rfl
@[simp] theorem State.setMset_mod (s : State) (n g : Nat) (v : MemberSet) : (s.setMset n g v).mod = s.mod := rfl
@[simp] theorem State.setMset_cores (s : State) (n g : Nat) (v : MemberSet) : (s.setMset n g v).cores = s.cores := rfl

@[simp] theorem State.setWrec_who (s : State) (c : Nat) (w : Wrec) : (s.setWrec c w).who = s.who := rfl
@[simp] theorem State.setWrec_sched (s : State) (c : Nat) (w : Wrec) : (s.setWrec c w).sched = s.sched := rfl
@[simp] theorem State.setWrec_focus (s : State) (c : Nat) (w : Wrec) : (s.setWrec c w).focus = s.focus := rfl
@[simp] theorem State.setWrec_fresh (s : State) (c : Nat) (w : Wrec) : (s.setWrec c w).fresh = s.fresh := rfl
@[simp] theorem State.setWrec_uid (s : State) (c : Nat) (w : Wrec) : (s.setWrec c w).uid = s.uid := rfl
@[simp] theorem State.setWrec_seqNo (s : State) (c : Nat) (w : Wrec) : (s.setWrec c w).seqNo = s.seqNo := rfl
@[simp] theorem State.setWrec_now (s : State) (c : Nat) (w : Wrec) : (s.setWrec c w).now = s.now := rfl
@[simp] theorem State.setWrec_outbox (s : State) (c : Nat) (w : Wrec) : (s.setWrec c w).outbox = s.outbox := rfl
@[simp] theorem State.setWrec_ms (s : State) (c : Nat) (w : Wrec) : (s.setWrec c w).ms = s.ms := rfl
@[simp] theorem State.setWrec_stamps (s : State) (c : Nat) (w : Wrec) : (s.setWrec c w).stamps = s.stamps := rfl
@[simp] theorem State.setWrec_cores (s : State) (c : Nat) (w : Wrec) : (s.setWrec c w).cores = s.cores := rfl
@[simp] theorem State.setWrec_ctxs (s : State) (c : Nat) (w : Wrec) : (s.setWrec c w).ctxs = s.ctxs := rfl

@[simp] theorem State.stallSeq_who (s : State) (c : Nat) (r : Stall) : (s.stallSeq c r).who = s.who := rfl
@[simp] theorem State.stallSeq_sched (s : State) (c : Nat) (r : Stall) : (s.stallSeq c r).sched = s.sched := rfl
@[simp] theorem State.stallSeq_focus (s : State) (c : Nat) (r : Stall) : (s.stallSeq c r).focus = s.focus := rfl
@[simp] theorem State.stallSeq_fresh (s : State) (c : Nat) (r : Stall) : (s.stallSeq c r).fresh = s.fresh := rfl
@[simp] theorem State.stallSeq_uid (s : State) (c : Nat) (r : Stall) : (s.stallSeq c r).uid = s.uid := rfl
@[simp] theorem State.stallSeq_seqNo (s : State) (c : Nat) (r : Stall) : (s.stallSeq c r).seqNo = s.seqNo := rfl
@[simp] theorem State.stallSeq_now (s : State) (c : Nat) (r : Stall) : (s.stallSeq c r).now = s.now := rfl
@[simp] theorem State.stallSeq_outbox (s : State) (c : Nat) (r : Stall) : (s.stallSeq c r).outbox = s.outbox := rfl
@[simp] theorem State.stallSeq_ms (s : State) (c : Nat) (r : Stall) : (s.stallSeq c r).ms = s.ms := rfl
@[simp] theorem State.stallSeq_stamps (s : State) (c : Nat) (r : Stall) : (s.stallSeq c r).stamps = s.stamps := rfl
@[simp] theorem State.stallSeq_mod (s : State) (c : Nat) (r : Stall) : (s.stallSeq c r).mod = s.mod := rfl
@[simp] theorem State.stallSeq_ctxs (s : State) (c : Nat) (r : Stall) : (s.stallSeq c r).ctxs = s.ctxs := rfl

@[simp] theorem State.releaseSeq_who (s : State) (c : Nat) : (s.releaseSeq c).who = s.who := rfl
@[simp] theorem State.releaseSeq_sched (s : State) (c : Nat) : (s.releaseSeq c).sched = s.sched := rfl
@[simp] theorem State.releaseSeq_focus (s : State) (c : Nat) : (s.releaseSeq c).focus = s.focus := rfl
@[simp] theorem State.releaseSeq_fresh (s : State) (c : Nat) : (s.releaseSeq c).fresh = s.fresh := rfl
@[simp] theorem State.releaseSeq_uid (s : State) (c : Nat) : (s.releaseSeq c).uid = s.uid := rfl
@[simp] theorem State.releaseSeq_seqNo (s : State) (c : Nat) : (s.releaseSeq c).seqNo = s.seqNo := rfl
@[simp] theorem State.releaseSeq_now (s : State) (c : Nat) : (s.releaseSeq c).now = s.now := rfl
@[simp] theorem State.releaseSeq_outbox (s : State) (c : Nat) : (s.releaseSeq c).outbox = s.outbox := rfl
@[simp] theorem State.releaseSeq_ms (s : State) (c : Nat) : (s.releaseSeq c).ms = s.ms := rfl
@[simp] theorem State.releaseSeq_stamps (s : State) (c : Nat) : (s.releaseSeq c).stamps = s.stamps := rfl
@[simp] theorem State.releaseSeq_mod (s : State) (c : Nat) : (s.releaseSeq c).mod = s.mod := rfl
@[simp] theorem State.releaseSeq_ctxs (s : State) (c : Nat) : (s.releaseSeq c).ctxs = s.ctxs := rfl

@[simp] theorem State.setQueue_who (s : State) (q : QId) (v : Queue) : (s.setQueue q v).who = s.who := by cases q <;> rfl
@[simp] theorem State.setQueue_sched (s : State) (q : QId) (v : Queue) : (s.setQueue q v).sched = s.sched := by cases q <;> rfl
@[simp] theorem State.setQueue_focus (s : State) (q : QId) (v : Queue) : (s.setQueue q v).focus = s.focus := by cases q <;> rfl
@[simp] theorem State.setQueue_fresh (s : State) (q : QId) (v : Queue) : (s.setQueue q v).fresh = s.fresh := by cases q <;> rfl
@[simp] theorem State.setQueue_uid (s : State) (q : QId) (v : Queue) : (s.setQueue q v).uid = s.uid := by cases q <;> rfl
@[simp] theorem State.setQueue_seqNo (s : State) (q : QId) (v : Queue) : (s.setQueue q v).seqNo = s.seqNo := by cases q <;> rfl
@[simp] theorem State.setQueue_now (s : State) (q : QId) (v : Queue) : (s.setQueue q v).now = s.now := by cases q <;> rfl
@[simp] theorem State.setQueue_outbox (s : State) (q : QId) (v : Queue) : (s.setQueue q v).outbox = s.outbox := by cases q <;> rfl
@[simp] theorem State.setQueue_ms (s : State) (q : QId) (v : Queue) : (s.setQueue q v).ms = s.ms := by cases q <;> rfl
@[simp] theorem State.setQueue_stamps (s : State) (q : QId) (v : Queue) : (s.setQueue q v).stamps = s.stamps := by cases q <;> rfl
@[simp] theorem State.setQueue_mod (s : State) (q : QId) (v : Queue) : (s.setQueue q v).mod = s.mod := by cases q <;> rfl

/-! ### Reading cores and contexts after an update -/

@[simp] theorem State.core_setCore (s : State) (n : Nat) (c : Core) : (s.setCore n c).core n = c := Tbl.get_set_same _ _ _ _
theorem State.core_setCore_other (s : State) (n m : Nat) (c : Core) (h : m ≠ n) : (s.setCore n c).core m = s.core m :=
  Tbl.get_set_other _ _ _ _ _ h
theorem State.core_setCore_ite (s : State) (n m : Nat) (c : Core) : (s.setCore n c).core m = if m = n then c else s.core m :=
  Tbl.get_set _ _ _ _ _
@[simp] theorem State.core_modCore (s : State) (n : Nat) (f : Core → Core) : (s.modCore n f).core n = f (s.core n) :=
  Tbl.get_set_same _ _ _ _
theorem State.core_modCore_other (s : State) (n m : Nat) (f : Core → Core) (h : m ≠ n) : (s.modCore n f).core m = s.core m :=
  Tbl.get_set_other _ _ _ _ _ h
@[simp] theorem State.ctx_setCore (s : State) (n x : Nat) (c : Core) : (s.setCore n c).ctx x = s.ctx x := rfl
@[simp] theorem State.ctx_modCore (s : State) (n x : Nat) (f : Core → Core) : (s.modCore n f).ctx x = s.ctx x := rfl
@[simp] theorem State.ctx_setCtx (s : State) (n : Nat) (x : Ctx) : (s.setCtx n x).ctx n = x := Tbl.get_set_same _ _ _ _
theorem State.ctx_setCtx_other (s : State) (n m : Nat) (x : Ctx) (h : m ≠ n) : (s.setCtx n x).ctx m = s.ctx m :=
  Tbl.get_set_other _ _ _ _ _ h
@[simp] theorem State.ctx_modCtx (s : State) (n : Nat) (f : Ctx → Ctx) : (s.modCtx n f).ctx n = f (s.ctx n) :=
  Tbl.get_set_same _ _ _ _
theorem State.ctx_modCtx_other (s : State) (n m : Nat) (f : Ctx → Ctx) (h : m ≠ n) : (s.modCtx n f).ctx m = s.ctx m :=
  Tbl.get_set_other _ _ _ _ _ h
@[simp] theorem State.core_setCtx (s : State) (n c : Nat) (x : Ctx) : (s.setCtx n x).core c = s.core c := rfl
@[simp] theorem State.core_modCtx (s : State) (n c : Nat) (f : Ctx → Ctx) : (s.modCtx n f).core c = s.core c := rfl
@[simp] theorem State.core_send (s : State) (c : Nat) (m : OutMsg) : (s.send m).core c = s.core c := rfl
@[simp] theorem State.ctx_send (s : State) (c : Nat) (m : OutMsg) : (s.send m).ctx c = s.ctx c := rfl
@[simp] theorem State.setCore_setCore (s : State) (n : Nat) (c d : Core) :
    ((s.setCore n c).setCore n d).core n = d := State.core_setCore _ _ _

/-- A queue reads as what was last put there. -/
@[simp] theorem State.queue_setQueue (s : State) (q : QId) (v : Queue) : (s.setQueue q v).queue q = v := by
  cases q <;> simp [State.queue, State.setQueue]

/-! ### Updates of a core -/

@[simp] theorem Core.advance_holder (c : Core) (n : Nat) : (c.advance n).holder = c.holder := rfl
@[simp] theorem Core.advance_run (c : Core) (n : Nat) : (c.advance n).run = c.run := rfl
@[simp] theorem Core.advance_regs (c : Core) (n : Nat) : (c.advance n).regs = c.regs := rfl
@[simp] theorem Core.advance_rpois (c : Core) (n : Nat) : (c.advance n).rpois = c.rpois := rfl
@[simp] theorem Core.advance_cb (c : Core) (n : Nat) : (c.advance n).cb = c.cb := rfl
@[simp] theorem Core.advance_cbPois (c : Core) (n : Nat) : (c.advance n).cbPois = c.cbPois := rfl
@[simp] theorem Core.advance_handler (c : Core) (n : Nat) : (c.advance n).handler = c.handler := rfl
@[simp] theorem Core.advance_sysr (c : Core) (n : Nat) : (c.advance n).sysr = c.sysr := rfl
@[simp] theorem Core.advance_cycle (c : Core) (n : Nat) : (c.advance n).cycle = c.cycle := rfl
@[simp] theorem Core.advance_derated (c : Core) (n : Nat) : (c.advance n).derated = c.derated := rfl
@[simp] theorem Core.advance_clkBusy (c : Core) (n : Nat) : (c.advance n).clkBusy = c.clkBusy := rfl
@[simp] theorem Core.advance_checkQ (c : Core) (n : Nat) : (c.advance n).checkQ = c.checkQ := rfl
@[simp] theorem Core.advance_nextId (c : Core) (n : Nat) : (c.advance n).nextId = c.nextId := rfl
@[simp] theorem Core.advance_used (c : Core) (n : Nat) : (c.advance n).used = c.used := rfl
@[simp] theorem Core.advance_frac (c : Core) (n : Nat) : (c.advance n).frac = c.frac := rfl
@[simp] theorem Core.advance_outst (c : Core) (n : Nat) : (c.advance n).outst = c.outst := rfl
@[simp] theorem Core.advance_stores (c : Core) (n : Nat) : (c.advance n).stores = c.stores := rfl
@[simp] theorem Core.advance_wait (c : Core) (n : Nat) : (c.advance n).wait = c.wait := rfl
@[simp] theorem Core.advance_stall (c : Core) (n : Nat) : (c.advance n).stall = c.stall := rfl
@[simp] theorem Core.advance_ckpt (c : Core) (n : Nat) : (c.advance n).ckpt = c.ckpt := rfl
@[simp] theorem Core.advance_mism (c : Core) (n : Nat) : (c.advance n).mism = c.mism := rfl
@[simp] theorem Core.advance_share (c : Core) (n : Nat) : (c.advance n).share = c.share := rfl
@[simp] theorem Core.advance_heldFaults (c : Core) (n : Nat) : (c.advance n).heldFaults = c.heldFaults := rfl
@[simp] theorem Core.advance_observed (c : Core) (n : Nat) : (c.advance n).observed = c.observed := rfl
@[simp] theorem Core.advance_lastStore (c : Core) (n : Nat) : (c.advance n).lastStore = c.lastStore := rfl
@[simp] theorem Core.advance_fence (c : Core) (n : Nat) : (c.advance n).fence = c.fence := rfl
@[simp] theorem Core.advance_cutting (c : Core) (n : Nat) : (c.advance n).cutting = c.cutting := rfl
@[simp] theorem Core.advance_faultStrand (c : Core) (n : Nat) : (c.advance n).faultStrand = c.faultStrand := rfl
@[simp] theorem Core.advance_discards (c : Core) (n : Nat) : (c.advance n).discards = c.discards := rfl
@[simp] theorem Core.advance_endStrand (c : Core) (n : Nat) : (c.advance n).endStrand = c.endStrand := rfl
@[simp] theorem Core.advance_debug (c : Core) (n : Nat) : (c.advance n).debug = c.debug := rfl
@[simp] theorem Core.advance_sems (c : Core) (n : Nat) : (c.advance n).sems = c.sems := rfl
@[simp] theorem Core.advance_tokens (c : Core) (n : Nat) : (c.advance n).tokens = c.tokens := rfl
@[simp] theorem Core.advance_queues (c : Core) (n : Nat) : (c.advance n).queues = c.queues := rfl
@[simp] theorem Core.advance_lbs (c : Core) (n : Nat) : (c.advance n).lbs = c.lbs := rfl
@[simp] theorem Core.advance_lbv (c : Core) (n : Nat) : (c.advance n).lbv = c.lbv := rfl
@[simp] theorem Core.advance_vec (c : Core) (n : Nat) : (c.advance n).vec = c.vec := rfl
@[simp] theorem Core.advance_mtx (c : Core) (n : Nat) : (c.advance n).mtx = c.mtx := rfl

@[simp] theorem Core.setSys_holder (c : Core) (n : Nat) (v : BitVec 64) : (c.setSys n v).holder = c.holder := rfl
@[simp] theorem Core.setSys_run (c : Core) (n : Nat) (v : BitVec 64) : (c.setSys n v).run = c.run := rfl
@[simp] theorem Core.setSys_regs (c : Core) (n : Nat) (v : BitVec 64) : (c.setSys n v).regs = c.regs := rfl
@[simp] theorem Core.setSys_rpois (c : Core) (n : Nat) (v : BitVec 64) : (c.setSys n v).rpois = c.rpois := rfl
@[simp] theorem Core.setSys_pc (c : Core) (n : Nat) (v : BitVec 64) : (c.setSys n v).pc = c.pc := rfl
@[simp] theorem Core.setSys_cb (c : Core) (n : Nat) (v : BitVec 64) : (c.setSys n v).cb = c.cb := rfl
@[simp] theorem Core.setSys_cbPois (c : Core) (n : Nat) (v : BitVec 64) : (c.setSys n v).cbPois = c.cbPois := rfl
@[simp] theorem Core.setSys_handler (c : Core) (n : Nat) (v : BitVec 64) : (c.setSys n v).handler = c.handler := rfl
@[simp] theorem Core.setSys_cycle (c : Core) (n : Nat) (v : BitVec 64) : (c.setSys n v).cycle = c.cycle := rfl
@[simp] theorem Core.setSys_derated (c : Core) (n : Nat) (v : BitVec 64) : (c.setSys n v).derated = c.derated := rfl
@[simp] theorem Core.setSys_clkBusy (c : Core) (n : Nat) (v : BitVec 64) : (c.setSys n v).clkBusy = c.clkBusy := rfl
@[simp] theorem Core.setSys_checkQ (c : Core) (n : Nat) (v : BitVec 64) : (c.setSys n v).checkQ = c.checkQ := rfl
@[simp] theorem Core.setSys_nextId (c : Core) (n : Nat) (v : BitVec 64) : (c.setSys n v).nextId = c.nextId := rfl
@[simp] theorem Core.setSys_used (c : Core) (n : Nat) (v : BitVec 64) : (c.setSys n v).used = c.used := rfl
@[simp] theorem Core.setSys_frac (c : Core) (n : Nat) (v : BitVec 64) : (c.setSys n v).frac = c.frac := rfl
@[simp] theorem Core.setSys_outst (c : Core) (n : Nat) (v : BitVec 64) : (c.setSys n v).outst = c.outst := rfl
@[simp] theorem Core.setSys_stores (c : Core) (n : Nat) (v : BitVec 64) : (c.setSys n v).stores = c.stores := rfl
@[simp] theorem Core.setSys_wait (c : Core) (n : Nat) (v : BitVec 64) : (c.setSys n v).wait = c.wait := rfl
@[simp] theorem Core.setSys_stall (c : Core) (n : Nat) (v : BitVec 64) : (c.setSys n v).stall = c.stall := rfl
@[simp] theorem Core.setSys_ckpt (c : Core) (n : Nat) (v : BitVec 64) : (c.setSys n v).ckpt = c.ckpt := rfl
@[simp] theorem Core.setSys_mism (c : Core) (n : Nat) (v : BitVec 64) : (c.setSys n v).mism = c.mism := rfl
@[simp] theorem Core.setSys_share (c : Core) (n : Nat) (v : BitVec 64) : (c.setSys n v).share = c.share := rfl
@[simp] theorem Core.setSys_heldFaults (c : Core) (n : Nat) (v : BitVec 64) : (c.setSys n v).heldFaults = c.heldFaults := rfl
@[simp] theorem Core.setSys_observed (c : Core) (n : Nat) (v : BitVec 64) : (c.setSys n v).observed = c.observed := rfl
@[simp] theorem Core.setSys_lastStore (c : Core) (n : Nat) (v : BitVec 64) : (c.setSys n v).lastStore = c.lastStore := rfl
@[simp] theorem Core.setSys_fence (c : Core) (n : Nat) (v : BitVec 64) : (c.setSys n v).fence = c.fence := rfl
@[simp] theorem Core.setSys_cutting (c : Core) (n : Nat) (v : BitVec 64) : (c.setSys n v).cutting = c.cutting := rfl
@[simp] theorem Core.setSys_faultStrand (c : Core) (n : Nat) (v : BitVec 64) : (c.setSys n v).faultStrand = c.faultStrand := rfl
@[simp] theorem Core.setSys_discards (c : Core) (n : Nat) (v : BitVec 64) : (c.setSys n v).discards = c.discards := rfl
@[simp] theorem Core.setSys_endStrand (c : Core) (n : Nat) (v : BitVec 64) : (c.setSys n v).endStrand = c.endStrand := rfl
@[simp] theorem Core.setSys_debug (c : Core) (n : Nat) (v : BitVec 64) : (c.setSys n v).debug = c.debug := rfl
@[simp] theorem Core.setSys_sems (c : Core) (n : Nat) (v : BitVec 64) : (c.setSys n v).sems = c.sems := rfl
@[simp] theorem Core.setSys_tokens (c : Core) (n : Nat) (v : BitVec 64) : (c.setSys n v).tokens = c.tokens := rfl
@[simp] theorem Core.setSys_queues (c : Core) (n : Nat) (v : BitVec 64) : (c.setSys n v).queues = c.queues := rfl
@[simp] theorem Core.setSys_lbs (c : Core) (n : Nat) (v : BitVec 64) : (c.setSys n v).lbs = c.lbs := rfl
@[simp] theorem Core.setSys_lbv (c : Core) (n : Nat) (v : BitVec 64) : (c.setSys n v).lbv = c.lbv := rfl
@[simp] theorem Core.setSys_vec (c : Core) (n : Nat) (v : BitVec 64) : (c.setSys n v).vec = c.vec := rfl
@[simp] theorem Core.setSys_mtx (c : Core) (n : Nat) (v : BitVec 64) : (c.setSys n v).mtx = c.mtx := rfl

@[simp] theorem Core.setSem_holder (c : Core) (m : Nat) (v : Sem) : (c.setSem m v).holder = c.holder := rfl
@[simp] theorem Core.setSem_run (c : Core) (m : Nat) (v : Sem) : (c.setSem m v).run = c.run := rfl
@[simp] theorem Core.setSem_regs (c : Core) (m : Nat) (v : Sem) : (c.setSem m v).regs = c.regs := rfl
@[simp] theorem Core.setSem_rpois (c : Core) (m : Nat) (v : Sem) : (c.setSem m v).rpois = c.rpois := rfl
@[simp] theorem Core.setSem_pc (c : Core) (m : Nat) (v : Sem) : (c.setSem m v).pc = c.pc := rfl
@[simp] theorem Core.setSem_cb (c : Core) (m : Nat) (v : Sem) : (c.setSem m v).cb = c.cb := rfl
@[simp] theorem Core.setSem_cbPois (c : Core) (m : Nat) (v : Sem) : (c.setSem m v).cbPois = c.cbPois := rfl
@[simp] theorem Core.setSem_handler (c : Core) (m : Nat) (v : Sem) : (c.setSem m v).handler = c.handler := rfl
@[simp] theorem Core.setSem_sysr (c : Core) (m : Nat) (v : Sem) : (c.setSem m v).sysr = c.sysr := rfl
@[simp] theorem Core.setSem_cycle (c : Core) (m : Nat) (v : Sem) : (c.setSem m v).cycle = c.cycle := rfl
@[simp] theorem Core.setSem_derated (c : Core) (m : Nat) (v : Sem) : (c.setSem m v).derated = c.derated := rfl
@[simp] theorem Core.setSem_clkBusy (c : Core) (m : Nat) (v : Sem) : (c.setSem m v).clkBusy = c.clkBusy := rfl
@[simp] theorem Core.setSem_checkQ (c : Core) (m : Nat) (v : Sem) : (c.setSem m v).checkQ = c.checkQ := rfl
@[simp] theorem Core.setSem_nextId (c : Core) (m : Nat) (v : Sem) : (c.setSem m v).nextId = c.nextId := rfl
@[simp] theorem Core.setSem_used (c : Core) (m : Nat) (v : Sem) : (c.setSem m v).used = c.used := rfl
@[simp] theorem Core.setSem_frac (c : Core) (m : Nat) (v : Sem) : (c.setSem m v).frac = c.frac := rfl
@[simp] theorem Core.setSem_outst (c : Core) (m : Nat) (v : Sem) : (c.setSem m v).outst = c.outst := rfl
@[simp] theorem Core.setSem_stores (c : Core) (m : Nat) (v : Sem) : (c.setSem m v).stores = c.stores := rfl
@[simp] theorem Core.setSem_wait (c : Core) (m : Nat) (v : Sem) : (c.setSem m v).wait = c.wait := rfl
@[simp] theorem Core.setSem_stall (c : Core) (m : Nat) (v : Sem) : (c.setSem m v).stall = c.stall := rfl
@[simp] theorem Core.setSem_ckpt (c : Core) (m : Nat) (v : Sem) : (c.setSem m v).ckpt = c.ckpt := rfl
@[simp] theorem Core.setSem_mism (c : Core) (m : Nat) (v : Sem) : (c.setSem m v).mism = c.mism := rfl
@[simp] theorem Core.setSem_share (c : Core) (m : Nat) (v : Sem) : (c.setSem m v).share = c.share := rfl
@[simp] theorem Core.setSem_heldFaults (c : Core) (m : Nat) (v : Sem) : (c.setSem m v).heldFaults = c.heldFaults := rfl
@[simp] theorem Core.setSem_observed (c : Core) (m : Nat) (v : Sem) : (c.setSem m v).observed = c.observed := rfl
@[simp] theorem Core.setSem_lastStore (c : Core) (m : Nat) (v : Sem) : (c.setSem m v).lastStore = c.lastStore := rfl
@[simp] theorem Core.setSem_fence (c : Core) (m : Nat) (v : Sem) : (c.setSem m v).fence = c.fence := rfl
@[simp] theorem Core.setSem_cutting (c : Core) (m : Nat) (v : Sem) : (c.setSem m v).cutting = c.cutting := rfl
@[simp] theorem Core.setSem_faultStrand (c : Core) (m : Nat) (v : Sem) : (c.setSem m v).faultStrand = c.faultStrand := rfl
@[simp] theorem Core.setSem_discards (c : Core) (m : Nat) (v : Sem) : (c.setSem m v).discards = c.discards := rfl
@[simp] theorem Core.setSem_endStrand (c : Core) (m : Nat) (v : Sem) : (c.setSem m v).endStrand = c.endStrand := rfl
@[simp] theorem Core.setSem_debug (c : Core) (m : Nat) (v : Sem) : (c.setSem m v).debug = c.debug := rfl
@[simp] theorem Core.setSem_tokens (c : Core) (m : Nat) (v : Sem) : (c.setSem m v).tokens = c.tokens := rfl
@[simp] theorem Core.setSem_queues (c : Core) (m : Nat) (v : Sem) : (c.setSem m v).queues = c.queues := rfl
@[simp] theorem Core.setSem_lbs (c : Core) (m : Nat) (v : Sem) : (c.setSem m v).lbs = c.lbs := rfl
@[simp] theorem Core.setSem_lbv (c : Core) (m : Nat) (v : Sem) : (c.setSem m v).lbv = c.lbv := rfl
@[simp] theorem Core.setSem_vec (c : Core) (m : Nat) (v : Sem) : (c.setSem m v).vec = c.vec := rfl
@[simp] theorem Core.setSem_mtx (c : Core) (m : Nat) (v : Sem) : (c.setSem m v).mtx = c.mtx := rfl

@[simp] theorem Core.modShare_holder (c : Core) (f : Share → Share) : (c.modShare f).holder = c.holder := rfl
@[simp] theorem Core.modShare_run (c : Core) (f : Share → Share) : (c.modShare f).run = c.run := rfl
@[simp] theorem Core.modShare_regs (c : Core) (f : Share → Share) : (c.modShare f).regs = c.regs := rfl
@[simp] theorem Core.modShare_rpois (c : Core) (f : Share → Share) : (c.modShare f).rpois = c.rpois := rfl
@[simp] theorem Core.modShare_pc (c : Core) (f : Share → Share) : (c.modShare f).pc = c.pc := rfl
@[simp] theorem Core.modShare_cb (c : Core) (f : Share → Share) : (c.modShare f).cb = c.cb := rfl
@[simp] theorem Core.modShare_cbPois (c : Core) (f : Share → Share) : (c.modShare f).cbPois = c.cbPois := rfl
@[simp] theorem Core.modShare_handler (c : Core) (f : Share → Share) : (c.modShare f).handler = c.handler := rfl
@[simp] theorem Core.modShare_sysr (c : Core) (f : Share → Share) : (c.modShare f).sysr = c.sysr := rfl
@[simp] theorem Core.modShare_cycle (c : Core) (f : Share → Share) : (c.modShare f).cycle = c.cycle := rfl
@[simp] theorem Core.modShare_derated (c : Core) (f : Share → Share) : (c.modShare f).derated = c.derated := rfl
@[simp] theorem Core.modShare_clkBusy (c : Core) (f : Share → Share) : (c.modShare f).clkBusy = c.clkBusy := rfl
@[simp] theorem Core.modShare_checkQ (c : Core) (f : Share → Share) : (c.modShare f).checkQ = c.checkQ := rfl
@[simp] theorem Core.modShare_nextId (c : Core) (f : Share → Share) : (c.modShare f).nextId = c.nextId := rfl
@[simp] theorem Core.modShare_used (c : Core) (f : Share → Share) : (c.modShare f).used = c.used := rfl
@[simp] theorem Core.modShare_frac (c : Core) (f : Share → Share) : (c.modShare f).frac = c.frac := rfl
@[simp] theorem Core.modShare_outst (c : Core) (f : Share → Share) : (c.modShare f).outst = c.outst := rfl
@[simp] theorem Core.modShare_stores (c : Core) (f : Share → Share) : (c.modShare f).stores = c.stores := rfl
@[simp] theorem Core.modShare_wait (c : Core) (f : Share → Share) : (c.modShare f).wait = c.wait := rfl
@[simp] theorem Core.modShare_stall (c : Core) (f : Share → Share) : (c.modShare f).stall = c.stall := rfl
@[simp] theorem Core.modShare_ckpt (c : Core) (f : Share → Share) : (c.modShare f).ckpt = c.ckpt := rfl
@[simp] theorem Core.modShare_mism (c : Core) (f : Share → Share) : (c.modShare f).mism = c.mism := rfl
@[simp] theorem Core.modShare_heldFaults (c : Core) (f : Share → Share) : (c.modShare f).heldFaults = c.heldFaults := rfl
@[simp] theorem Core.modShare_observed (c : Core) (f : Share → Share) : (c.modShare f).observed = c.observed := rfl
@[simp] theorem Core.modShare_lastStore (c : Core) (f : Share → Share) : (c.modShare f).lastStore = c.lastStore := rfl
@[simp] theorem Core.modShare_fence (c : Core) (f : Share → Share) : (c.modShare f).fence = c.fence := rfl
@[simp] theorem Core.modShare_cutting (c : Core) (f : Share → Share) : (c.modShare f).cutting = c.cutting := rfl
@[simp] theorem Core.modShare_faultStrand (c : Core) (f : Share → Share) : (c.modShare f).faultStrand = c.faultStrand := rfl
@[simp] theorem Core.modShare_discards (c : Core) (f : Share → Share) : (c.modShare f).discards = c.discards := rfl
@[simp] theorem Core.modShare_endStrand (c : Core) (f : Share → Share) : (c.modShare f).endStrand = c.endStrand := rfl
@[simp] theorem Core.modShare_debug (c : Core) (f : Share → Share) : (c.modShare f).debug = c.debug := rfl
@[simp] theorem Core.modShare_sems (c : Core) (f : Share → Share) : (c.modShare f).sems = c.sems := rfl
@[simp] theorem Core.modShare_tokens (c : Core) (f : Share → Share) : (c.modShare f).tokens = c.tokens := rfl
@[simp] theorem Core.modShare_queues (c : Core) (f : Share → Share) : (c.modShare f).queues = c.queues := rfl
@[simp] theorem Core.modShare_lbs (c : Core) (f : Share → Share) : (c.modShare f).lbs = c.lbs := rfl
@[simp] theorem Core.modShare_lbv (c : Core) (f : Share → Share) : (c.modShare f).lbv = c.lbv := rfl
@[simp] theorem Core.modShare_vec (c : Core) (f : Share → Share) : (c.modShare f).vec = c.vec := rfl
@[simp] theorem Core.modShare_mtx (c : Core) (f : Share → Share) : (c.modShare f).mtx = c.mtx := rfl

@[simp] theorem Core.setCb_holder (c : Core) (k n : Nat) (v : BitVec 64) (p : Bool) : (c.setCb k n v p).holder = c.holder := rfl
@[simp] theorem Core.setCb_run (c : Core) (k n : Nat) (v : BitVec 64) (p : Bool) : (c.setCb k n v p).run = c.run := rfl
@[simp] theorem Core.setCb_regs (c : Core) (k n : Nat) (v : BitVec 64) (p : Bool) : (c.setCb k n v p).regs = c.regs := rfl
@[simp] theorem Core.setCb_rpois (c : Core) (k n : Nat) (v : BitVec 64) (p : Bool) : (c.setCb k n v p).rpois = c.rpois := rfl
@[simp] theorem Core.setCb_pc (c : Core) (k n : Nat) (v : BitVec 64) (p : Bool) : (c.setCb k n v p).pc = c.pc := rfl
@[simp] theorem Core.setCb_handler (c : Core) (k n : Nat) (v : BitVec 64) (p : Bool) : (c.setCb k n v p).handler = c.handler := rfl
@[simp] theorem Core.setCb_sysr (c : Core) (k n : Nat) (v : BitVec 64) (p : Bool) : (c.setCb k n v p).sysr = c.sysr := rfl
@[simp] theorem Core.setCb_cycle (c : Core) (k n : Nat) (v : BitVec 64) (p : Bool) : (c.setCb k n v p).cycle = c.cycle := rfl
@[simp] theorem Core.setCb_derated (c : Core) (k n : Nat) (v : BitVec 64) (p : Bool) : (c.setCb k n v p).derated = c.derated := rfl
@[simp] theorem Core.setCb_clkBusy (c : Core) (k n : Nat) (v : BitVec 64) (p : Bool) : (c.setCb k n v p).clkBusy = c.clkBusy := rfl
@[simp] theorem Core.setCb_checkQ (c : Core) (k n : Nat) (v : BitVec 64) (p : Bool) : (c.setCb k n v p).checkQ = c.checkQ := rfl
@[simp] theorem Core.setCb_outst (c : Core) (k n : Nat) (v : BitVec 64) (p : Bool) : (c.setCb k n v p).outst = c.outst := rfl
@[simp] theorem Core.setCb_stores (c : Core) (k n : Nat) (v : BitVec 64) (p : Bool) : (c.setCb k n v p).stores = c.stores := rfl
@[simp] theorem Core.setCb_frac (c : Core) (k n : Nat) (v : BitVec 64) (p : Bool) : (c.setCb k n v p).frac = c.frac := rfl
@[simp] theorem Core.setCb_wait (c : Core) (k n : Nat) (v : BitVec 64) (p : Bool) : (c.setCb k n v p).wait = c.wait := rfl
@[simp] theorem Core.setCb_stall (c : Core) (k n : Nat) (v : BitVec 64) (p : Bool) : (c.setCb k n v p).stall = c.stall := rfl
@[simp] theorem Core.setCb_ckpt (c : Core) (k n : Nat) (v : BitVec 64) (p : Bool) : (c.setCb k n v p).ckpt = c.ckpt := rfl
@[simp] theorem Core.setCb_mism (c : Core) (k n : Nat) (v : BitVec 64) (p : Bool) : (c.setCb k n v p).mism = c.mism := rfl
@[simp] theorem Core.setCb_share (c : Core) (k n : Nat) (v : BitVec 64) (p : Bool) : (c.setCb k n v p).share = c.share := rfl
@[simp] theorem Core.setCb_heldFaults (c : Core) (k n : Nat) (v : BitVec 64) (p : Bool) : (c.setCb k n v p).heldFaults = c.heldFaults := rfl
@[simp] theorem Core.setCb_observed (c : Core) (k n : Nat) (v : BitVec 64) (p : Bool) : (c.setCb k n v p).observed = c.observed := rfl
@[simp] theorem Core.setCb_lastStore (c : Core) (k n : Nat) (v : BitVec 64) (p : Bool) : (c.setCb k n v p).lastStore = c.lastStore := rfl
@[simp] theorem Core.setCb_fence (c : Core) (k n : Nat) (v : BitVec 64) (p : Bool) : (c.setCb k n v p).fence = c.fence := rfl
@[simp] theorem Core.setCb_cutting (c : Core) (k n : Nat) (v : BitVec 64) (p : Bool) : (c.setCb k n v p).cutting = c.cutting := rfl
@[simp] theorem Core.setCb_faultStrand (c : Core) (k n : Nat) (v : BitVec 64) (p : Bool) : (c.setCb k n v p).faultStrand = c.faultStrand := rfl
@[simp] theorem Core.setCb_discards (c : Core) (k n : Nat) (v : BitVec 64) (p : Bool) : (c.setCb k n v p).discards = c.discards := rfl
@[simp] theorem Core.setCb_endStrand (c : Core) (k n : Nat) (v : BitVec 64) (p : Bool) : (c.setCb k n v p).endStrand = c.endStrand := rfl
@[simp] theorem Core.setCb_debug (c : Core) (k n : Nat) (v : BitVec 64) (p : Bool) : (c.setCb k n v p).debug = c.debug := rfl
@[simp] theorem Core.setCb_sems (c : Core) (k n : Nat) (v : BitVec 64) (p : Bool) : (c.setCb k n v p).sems = c.sems := rfl
@[simp] theorem Core.setCb_tokens (c : Core) (k n : Nat) (v : BitVec 64) (p : Bool) : (c.setCb k n v p).tokens = c.tokens := rfl
@[simp] theorem Core.setCb_queues (c : Core) (k n : Nat) (v : BitVec 64) (p : Bool) : (c.setCb k n v p).queues = c.queues := rfl
@[simp] theorem Core.setCb_lbs (c : Core) (k n : Nat) (v : BitVec 64) (p : Bool) : (c.setCb k n v p).lbs = c.lbs := rfl
@[simp] theorem Core.setCb_lbv (c : Core) (k n : Nat) (v : BitVec 64) (p : Bool) : (c.setCb k n v p).lbv = c.lbv := rfl
@[simp] theorem Core.setCb_vec (c : Core) (k n : Nat) (v : BitVec 64) (p : Bool) : (c.setCb k n v p).vec = c.vec := rfl
@[simp] theorem Core.setCb_mtx (c : Core) (k n : Nat) (v : BitVec 64) (p : Bool) : (c.setCb k n v p).mtx = c.mtx := rfl

@[simp] theorem Core.write_holder (c : Core) (r : BitVec 5) (v : BitVec 64) (p : Bool) : (c.write r v p).holder = c.holder := by
  unfold Core.write; split <;> rfl
@[simp] theorem Core.write_run (c : Core) (r : BitVec 5) (v : BitVec 64) (p : Bool) : (c.write r v p).run = c.run := by
  unfold Core.write; split <;> rfl
@[simp] theorem Core.write_pc (c : Core) (r : BitVec 5) (v : BitVec 64) (p : Bool) : (c.write r v p).pc = c.pc := by
  unfold Core.write; split <;> rfl
@[simp] theorem Core.write_cb (c : Core) (r : BitVec 5) (v : BitVec 64) (p : Bool) : (c.write r v p).cb = c.cb := by
  unfold Core.write; split <;> rfl
@[simp] theorem Core.write_cbPois (c : Core) (r : BitVec 5) (v : BitVec 64) (p : Bool) : (c.write r v p).cbPois = c.cbPois := by
  unfold Core.write; split <;> rfl
@[simp] theorem Core.write_handler (c : Core) (r : BitVec 5) (v : BitVec 64) (p : Bool) : (c.write r v p).handler = c.handler := by
  unfold Core.write; split <;> rfl
@[simp] theorem Core.write_sysr (c : Core) (r : BitVec 5) (v : BitVec 64) (p : Bool) : (c.write r v p).sysr = c.sysr := by
  unfold Core.write; split <;> rfl
@[simp] theorem Core.write_cycle (c : Core) (r : BitVec 5) (v : BitVec 64) (p : Bool) : (c.write r v p).cycle = c.cycle := by
  unfold Core.write; split <;> rfl
@[simp] theorem Core.write_derated (c : Core) (r : BitVec 5) (v : BitVec 64) (p : Bool) : (c.write r v p).derated = c.derated := by
  unfold Core.write; split <;> rfl
@[simp] theorem Core.write_clkBusy (c : Core) (r : BitVec 5) (v : BitVec 64) (p : Bool) : (c.write r v p).clkBusy = c.clkBusy := by
  unfold Core.write; split <;> rfl
@[simp] theorem Core.write_checkQ (c : Core) (r : BitVec 5) (v : BitVec 64) (p : Bool) : (c.write r v p).checkQ = c.checkQ := by
  unfold Core.write; split <;> rfl
@[simp] theorem Core.write_nextId (c : Core) (r : BitVec 5) (v : BitVec 64) (p : Bool) : (c.write r v p).nextId = c.nextId := by
  unfold Core.write; split <;> rfl
@[simp] theorem Core.write_used (c : Core) (r : BitVec 5) (v : BitVec 64) (p : Bool) : (c.write r v p).used = c.used := by
  unfold Core.write; split <;> rfl
/-- A register that is written awaits no earlier result (04 R76). -/
theorem Core.write_outst (c : Core) (r : BitVec 5) (v : BitVec 64) (p : Bool) :
    (c.write r v p).outst = if r = 0 then c.outst else c.outst.filter (fun o => o.reg != r) := by
  unfold Core.write; split <;> rfl
/-- A write leaves a core none of whose results is awaited so. -/
theorem Core.write_outst_nil (c : Core) (r : BitVec 5) (v : BitVec 64) (p : Bool) (h : c.outst = []) : (c.write r v p).outst = [] := by
  rw [Core.write_outst, h]; split <;> rfl
@[simp] theorem Core.write_frac (c : Core) (r : BitVec 5) (v : BitVec 64) (p : Bool) : (c.write r v p).frac = c.frac := by
  unfold Core.write; split <;> rfl
@[simp] theorem Core.write_stores (c : Core) (r : BitVec 5) (v : BitVec 64) (p : Bool) : (c.write r v p).stores = c.stores := by
  unfold Core.write; split <;> rfl
@[simp] theorem Core.write_wait (c : Core) (r : BitVec 5) (v : BitVec 64) (p : Bool) : (c.write r v p).wait = c.wait := by
  unfold Core.write; split <;> rfl
@[simp] theorem Core.write_stall (c : Core) (r : BitVec 5) (v : BitVec 64) (p : Bool) : (c.write r v p).stall = c.stall := by
  unfold Core.write; split <;> rfl
@[simp] theorem Core.write_ckpt (c : Core) (r : BitVec 5) (v : BitVec 64) (p : Bool) : (c.write r v p).ckpt = c.ckpt := by
  unfold Core.write; split <;> rfl
@[simp] theorem Core.write_mism (c : Core) (r : BitVec 5) (v : BitVec 64) (p : Bool) : (c.write r v p).mism = c.mism := by
  unfold Core.write; split <;> rfl
@[simp] theorem Core.write_share (c : Core) (r : BitVec 5) (v : BitVec 64) (p : Bool) : (c.write r v p).share = c.share := by
  unfold Core.write; split <;> rfl
@[simp] theorem Core.write_heldFaults (c : Core) (r : BitVec 5) (v : BitVec 64) (p : Bool) : (c.write r v p).heldFaults = c.heldFaults := by
  unfold Core.write; split <;> rfl
@[simp] theorem Core.write_observed (c : Core) (r : BitVec 5) (v : BitVec 64) (p : Bool) : (c.write r v p).observed = c.observed := by
  unfold Core.write; split <;> rfl
@[simp] theorem Core.write_lastStore (c : Core) (r : BitVec 5) (v : BitVec 64) (p : Bool) : (c.write r v p).lastStore = c.lastStore := by
  unfold Core.write; split <;> rfl
@[simp] theorem Core.write_fence (c : Core) (r : BitVec 5) (v : BitVec 64) (p : Bool) : (c.write r v p).fence = c.fence := by
  unfold Core.write; split <;> rfl
@[simp] theorem Core.write_cutting (c : Core) (r : BitVec 5) (v : BitVec 64) (p : Bool) : (c.write r v p).cutting = c.cutting := by
  unfold Core.write; split <;> rfl
@[simp] theorem Core.write_faultStrand (c : Core) (r : BitVec 5) (v : BitVec 64) (p : Bool) : (c.write r v p).faultStrand = c.faultStrand := by
  unfold Core.write; split <;> rfl
@[simp] theorem Core.write_discards (c : Core) (r : BitVec 5) (v : BitVec 64) (p : Bool) : (c.write r v p).discards = c.discards := by
  unfold Core.write; split <;> rfl
@[simp] theorem Core.write_endStrand (c : Core) (r : BitVec 5) (v : BitVec 64) (p : Bool) : (c.write r v p).endStrand = c.endStrand := by
  unfold Core.write; split <;> rfl
@[simp] theorem Core.write_debug (c : Core) (r : BitVec 5) (v : BitVec 64) (p : Bool) : (c.write r v p).debug = c.debug := by
  unfold Core.write; split <;> rfl
@[simp] theorem Core.write_sems (c : Core) (r : BitVec 5) (v : BitVec 64) (p : Bool) : (c.write r v p).sems = c.sems := by
  unfold Core.write; split <;> rfl
@[simp] theorem Core.write_tokens (c : Core) (r : BitVec 5) (v : BitVec 64) (p : Bool) : (c.write r v p).tokens = c.tokens := by
  unfold Core.write; split <;> rfl
@[simp] theorem Core.write_queues (c : Core) (r : BitVec 5) (v : BitVec 64) (p : Bool) : (c.write r v p).queues = c.queues := by
  unfold Core.write; split <;> rfl
@[simp] theorem Core.write_lbs (c : Core) (r : BitVec 5) (v : BitVec 64) (p : Bool) : (c.write r v p).lbs = c.lbs := by
  unfold Core.write; split <;> rfl
@[simp] theorem Core.write_lbv (c : Core) (r : BitVec 5) (v : BitVec 64) (p : Bool) : (c.write r v p).lbv = c.lbv := by
  unfold Core.write; split <;> rfl
@[simp] theorem Core.write_vec (c : Core) (r : BitVec 5) (v : BitVec 64) (p : Bool) : (c.write r v p).vec = c.vec := by
  unfold Core.write; split <;> rfl
@[simp] theorem Core.write_mtx (c : Core) (r : BitVec 5) (v : BitVec 64) (p : Bool) : (c.write r v p).mtx = c.mtx := by
  unfold Core.write; split <;> rfl

theorem Core.advance_pc (c : Core) (n : Nat) : (c.advance n).pc = c.pc + BitVec.ofNat 56 n := rfl

/-! ### Ports -/

@[simp] theorem State.setPort_who (s : State) (p : Nat) (v : Port) : (s.setPort p v).who = s.who := rfl
@[simp] theorem State.setPort_sched (s : State) (p : Nat) (v : Port) : (s.setPort p v).sched = s.sched := rfl
@[simp] theorem State.setPort_focus (s : State) (p : Nat) (v : Port) : (s.setPort p v).focus = s.focus := rfl
@[simp] theorem State.setPort_fresh (s : State) (p : Nat) (v : Port) : (s.setPort p v).fresh = s.fresh := rfl
@[simp] theorem State.setPort_uid (s : State) (p : Nat) (v : Port) : (s.setPort p v).uid = s.uid := rfl
@[simp] theorem State.setPort_seqNo (s : State) (p : Nat) (v : Port) : (s.setPort p v).seqNo = s.seqNo := rfl
@[simp] theorem State.setPort_now (s : State) (p : Nat) (v : Port) : (s.setPort p v).now = s.now := rfl
@[simp] theorem State.setPort_outbox (s : State) (p : Nat) (v : Port) : (s.setPort p v).outbox = s.outbox := rfl
@[simp] theorem State.setPort_ms (s : State) (p : Nat) (v : Port) : (s.setPort p v).ms = s.ms := rfl
@[simp] theorem State.setPort_stamps (s : State) (p : Nat) (v : Port) : (s.setPort p v).stamps = s.stamps := rfl
@[simp] theorem State.setPort_cores (s : State) (p : Nat) (v : Port) : (s.setPort p v).cores = s.cores := rfl
@[simp] theorem State.setPort_ctxs (s : State) (p : Nat) (v : Port) : (s.setPort p v).ctxs = s.ctxs := rfl
@[simp] theorem State.port_setPort (s : State) (p : Nat) (v : Port) : (s.setPort p v).port p = v := Tbl.get_set_same _ _ _ _
theorem State.port_setPort_other (s : State) (p q : Nat) (v : Port) (h : q ≠ p) : (s.setPort p v).port q = s.port q :=
  Tbl.get_set_other _ _ _ _ _ h

/-! ### Sequencer registers -/

@[simp] theorem Core.reg_zero (c : Core) : c.reg 0 = 0 := rfl
@[simp] theorem Core.pois_zero (c : Core) : c.pois 0 = false := rfl
theorem Core.write_zero (c : Core) (v : BitVec 64) (p : Bool) : c.write 0 v p = c := rfl
theorem Core.reg_write_same (c : Core) (r : BitVec 5) (v : BitVec 64) (p : Bool) (h : r ≠ 0) : (c.write r v p).reg r = v := by
  rw [Core.reg, if_neg h, Core.write, if_neg h]; exact Tbl.get_set_same _ _ _ _
theorem Core.pois_write_same (c : Core) (r : BitVec 5) (v : BitVec 64) (p : Bool) (h : r ≠ 0) : (c.write r v p).pois r = p := by
  have hb : (r != 0) = true := by simp only [bne_iff_ne]; exact h
  rw [Core.pois, hb, Core.write, if_neg h, Bool.true_and]; exact NatSet.has_mark_same _ _ _
theorem Core.reg_write_other (c : Core) (r q : BitVec 5) (v : BitVec 64) (p : Bool) (h : q ≠ r) : (c.write r v p).reg q = c.reg q := by
  have hn : q.toNat ≠ r.toNat := fun e => h (BitVec.eq_of_toNat_eq e)
  unfold Core.reg Core.write
  split
  · rfl
  · split
    · rfl
    · exact Tbl.get_set_other _ _ _ _ _ hn
theorem Core.pois_write_other (c : Core) (r q : BitVec 5) (v : BitVec 64) (p : Bool) (h : q ≠ r) : (c.write r v p).pois q = c.pois q := by
  have hn : q.toNat ≠ r.toNat := fun e => h (BitVec.eq_of_toNat_eq e)
  unfold Core.pois Core.write
  split
  · rfl
  · simp [NatSet.has_mark, hn]
@[simp] theorem Core.advance_reg (c : Core) (n : Nat) (r : BitVec 5) : (c.advance n).reg r = c.reg r := rfl
@[simp] theorem Core.advance_pois (c : Core) (n : Nat) (r : BitVec 5) : (c.advance n).pois r = c.pois r := rfl
@[simp] theorem Core.setSys_reg (c : Core) (n : Nat) (v : BitVec 64) (r : BitVec 5) : (c.setSys n v).reg r = c.reg r := rfl
@[simp] theorem Core.sys_setSys (c : Core) (n : Nat) (v : BitVec 64) : (c.setSys n v).sys n = v := Tbl.get_set_same _ _ _ _
theorem Core.sys_setSys_other (c : Core) (n m : Nat) (v : BitVec 64) (h : m ≠ n) : (c.setSys n v).sys m = c.sys m :=
  Tbl.get_set_other _ _ _ _ _ h
@[simp] theorem Core.sem_setSem (c : Core) (m : Nat) (v : Sem) : (c.setSem m v).sem m = v := Tbl.get_set_same _ _ _ _
theorem Core.sem_setSem_other (c : Core) (m k : Nat) (v : Sem) (h : k ≠ m) : (c.setSem m v).sem k = c.sem k :=
  Tbl.get_set_other _ _ _ _ _ h

end Sys2Proof.Machine
end

