-- ==== Sys2Proof/Laws/Ops.lean ====
section
/-!
SUPPORT. Sys2Proof/Laws/Ops.lean: what the four shapes of a meaning answer: a sequencer's word, a member cluster's word, an engine's step word, an
event of the device; and what a step of the machine is for each kind of turn.
-/
namespace Sys2Proof.Machine

/-- A sequencer word that can issue has its effect. -/
theorem seqWord_issues {s : State} {c : Nat} {regs : List (BitVec 5)} {k : Nat → Core → State} (h : s.SeqIssues c regs) :
    seqWord s regs k = .next (k c (s.core c)) := by
  obtain ⟨h1, h2, h3⟩ := h
  have hb : regs.any (s.core c).busy = false := by
    simp only [List.any_eq_false]; intro r hr; simp [h3 r hr]
  simp [seqWord, h1, h2, hb]

/-- A sequencer word whose register has a result outstanding stalls. -/
theorem seqWord_stalls {s : State} {c : Nat} {regs : List (BitVec 5)} {k : Nat → Core → State} (h1 : s.who = .seq c)
    (h2 : (s.core c).ready = true) (h3 : ∃ r ∈ regs, (s.core c).busy r = true) :
    seqWord s regs k = .next (s.setCore c { s.core c with stall := some .result }) := by
  have hb : regs.any (s.core c).busy = true := by simpa [List.any_eq_true] using h3
  simp [seqWord, h1, h2, hb]

/-- Everything that a sequencer word can do: nothing while the sequencer waits, a stall, or its effect. -/
theorem seqWord_next {s t : State} {regs : List (BitVec 5)} {k : Nat → Core → State} (h : seqWord s regs k = .next t) :
    ∃ c, s.who = .seq c ∧ (((s.core c).ready = false ∧ t = s) ∨
      ((∃ r ∈ regs, (s.core c).busy r = true) ∧ t = s.setCore c { s.core c with stall := some .result }) ∨
      (s.SeqIssues c regs ∧ t = k c (s.core c))) := by
  unfold seqWord at h
  split at h
  · rename_i c hw
    refine ⟨c, hw, ?_⟩
    by_cases hr : (s.core c).ready = true
    · by_cases hb : regs.any (s.core c).busy = true
      · simp only [hr, hb, if_true, Host.Outcome.next.injEq] at h
        exact .inr (.inl ⟨by simpa [List.any_eq_true] using hb, h.symm⟩)
      · simp only [hr, hb, if_true, Host.Outcome.next.injEq, Bool.false_eq_true, if_false] at h
        refine .inr (.inr ⟨⟨hw, hr, fun r hm => ?_⟩, h.symm⟩)
        simp only [Bool.not_eq_true, List.any_eq_false] at hb
        simpa using hb r hm
    · simp only [hr, Bool.false_eq_true, if_false, Host.Outcome.next.injEq] at h
      exact .inl ⟨by simpa using hr, h.symm⟩
  · cases h

/-- A word with an irreversible effect has it once no checked operation before it can still fail. -/
theorem State.precisely_clear {s : State} {c : Nat} {k : State → State} (h : (s.core c).mayFail = false) : s.precisely c k = k s := by
  simp [State.precisely, h]

/-- While one can, the word stalls. -/
theorem State.precisely_stalls {s : State} {c : Nat} {k : State → State} (h : (s.core c).mayFail = true) :
    s.precisely c k = s.stallSeq c .checkBusy := by
  simp [State.precisely, h]

/-- A word that uses staging buffers has its effect once no CLOAD of one of them is under way. -/
theorem bufferWord_issues {s : State} {c : Nat} {regs : List (BitVec 5)} {bufs : List Nat} {k : Nat → Core → State} (h : s.SeqIssues c regs)
    (hl : bufs.any (s.core c).cloading = false) : bufferWord regs bufs k s = .next (k c (s.core c)) := by
  simp only [bufferWord, seqWord_issues h, hl, Bool.false_eq_true, if_false]

/-- While one is, it stalls. -/
theorem bufferWord_stalls {s : State} {c : Nat} {regs : List (BitVec 5)} {bufs : List Nat} {k : Nat → Core → State} (h : s.SeqIssues c regs)
    (hl : bufs.any (s.core c).cloading = true) : bufferWord regs bufs k s = .next (s.stallSeq c .checkBusy) := by
  simp only [bufferWord, seqWord_issues h, hl, if_true]

/-- A checked word that finds room in the queue enters it, and the sequencer goes on, or holds at a waiting word. -/
theorem checkedWord_enters {s : State} {c ulen : Nat} {regs : List (BitVec 5)} {dst : Option (BitVec 5)} {prep : Nat → Core → Issue}
    {op : CheckedOp} {remote : Bool} {hold : Option SeqWait} (h : s.SeqIssues c regs) (hp : prep c (s.core c) = .enter op remote hold)
    (hr : (s.core c).checked.length < Config.checkDepth) :
    checkedWord ulen regs dst prep s = .next (s.setCore c
      (match hold with
      | some w => { (s.core c).enter op dst remote ulen hold.isSome with wait := some ⟨w, ulen, false⟩ }
      | none => ((s.core c).enter op dst remote ulen hold.isSome).advance ulen)) := by
  cases hold <;> simp only [checkedWord, seqWord_issues h, hp, Nat.not_le.mpr hr, if_false]

/-- An event has its effect. -/
theorem eventStep_device {s : State} {k : State → State} (h : s.who = .device) : eventStep s k = .next (k s) := by
  simp [eventStep, h]

/-- A word of a member cluster that can issue ends as its effect says. -/
theorem vecIssue_issues {s : State} {w : VCx} {op : VOp} (h : s.VecIssues w) : vecIssue 16 op s = .next (s.vecFinish w (op w s)) := by
  obtain ⟨h1, h2, h3, h4, h5⟩ := h
  simp [vecIssue, h1, h2, h3, h4, h5]

/-- A step word of the command that its queue runs has its effect, or fails as `stepFails` says. -/
theorem stepWord_issues {s : State} {q : QId} {k : Cmd} {fits : QId → Bool} {op : EngOp} (h : s.StepIssues q k) (hf : fits q = true) :
    stepWord fits op s = .next (match op q k (s.serve q) with | .ok (t, j) => t.putCmd q j.next | .error e => stepFails q e k s) := by
  obtain ⟨h1, h2, h3⟩ := h
  cases h4 : op q k (s.serve q) <;> simp [stepWord, h1, hf, State.engineTurn, h2, h3, h4]

/-- A step word that succeeds. -/
theorem stepWord_done {s t : State} {q : QId} {k j : Cmd} {fits : QId → Bool} {op : EngOp} (h : s.StepIssues q k) (hf : fits q = true)
    (ho : op q k (s.serve q) = .ok (t, j)) : stepWord fits op s = stepDone q t j := by
  rw [stepWord_issues h hf, ho]; rfl

/-- A step takes the first turn of the schedule, or the default turn when it names none (log entry 2). -/
theorem step_cons {s : State} {t : Turn} {rest : List Turn} (h : s.sched = t :: rest) : step s = ({ s with sched := rest } : State).turn t := by
  simp [step, h]

end Sys2Proof.Machine
end

