-- ==== Sys2Proof/Laws/PerInstr.lean ====
section
/-!
SUPPORT. Sys2Proof/Laws/PerInstr.lean: statements about every instruction as syntax, one lemma per constructor.
-/
namespace Sys2Proof.Laws

/-- An instruction has words exactly when it is no event (02 R38, R49, R57; 95: events are transitions of their own). -/
def Encoding.Statement (i : Instr) : Prop := (encode i).isEmpty = Machine.isEvent i

/-- Words with their prefixes before them are never empty. -/
theorem Encoding.append_word (p : List Nat) (w : Nat) : (p ++ [w]).isEmpty = false := by cases p <;> rfl

theorem Encoding.add (d a b : BitVec 5) : Encoding.Statement (.add d a b) := rfl
theorem Encoding.sub (d a b : BitVec 5) : Encoding.Statement (.sub d a b) := rfl
theorem Encoding.mul (d a b : BitVec 5) : Encoding.Statement (.mul d a b) := rfl
theorem Encoding.mulh (d a b : BitVec 5) : Encoding.Statement (.mulh d a b) := rfl
theorem Encoding.mulhn (d a b : BitVec 5) : Encoding.Statement (.mulhn d a b) := rfl
theorem Encoding.div (d a b : BitVec 5) : Encoding.Statement (.div d a b) := rfl
theorem Encoding.divn (d a b : BitVec 5) : Encoding.Statement (.divn d a b) := rfl
theorem Encoding.rem (d a b : BitVec 5) : Encoding.Statement (.rem d a b) := rfl
theorem Encoding.remn (d a b : BitVec 5) : Encoding.Statement (.remn d a b) := rfl
theorem Encoding.and (d a b : BitVec 5) : Encoding.Statement (.and d a b) := rfl
theorem Encoding.or (d a b : BitVec 5) : Encoding.Statement (.or d a b) := rfl
theorem Encoding.xor (d a b : BitVec 5) : Encoding.Statement (.xor d a b) := rfl
theorem Encoding.shl (d a b : BitVec 5) : Encoding.Statement (.shl d a b) := rfl
theorem Encoding.shr (d a b : BitVec 5) : Encoding.Statement (.shr d a b) := rfl
theorem Encoding.sar (d a b : BitVec 5) : Encoding.Statement (.sar d a b) := rfl
theorem Encoding.min (d a b : BitVec 5) : Encoding.Statement (.min d a b) := rfl
theorem Encoding.max (d a b : BitVec 5) : Encoding.Statement (.max d a b) := rfl
theorem Encoding.minn (d a b : BitVec 5) : Encoding.Statement (.minn d a b) := rfl
theorem Encoding.maxn (d a b : BitVec 5) : Encoding.Statement (.maxn d a b) := rfl
theorem Encoding.slt (d a b : BitVec 5) : Encoding.Statement (.slt d a b) := rfl
theorem Encoding.sltn (d a b : BitVec 5) : Encoding.Statement (.sltn d a b) := rfl
theorem Encoding.clz (d a : BitVec 5) : Encoding.Statement (.clz d a) := rfl
theorem Encoding.popc (d a : BitVec 5) : Encoding.Statement (.popc d a) := rfl
theorem Encoding.sel (d c a b : BitVec 5) : Encoding.Statement (.sel d c a b) := rfl
theorem Encoding.addi (d a : BitVec 5) (imm : BitVec 16) : Encoding.Statement (.addi d a imm) := rfl
theorem Encoding.andi (d a : BitVec 5) (imm : BitVec 16) : Encoding.Statement (.andi d a imm) := rfl
theorem Encoding.ori (d a : BitVec 5) (imm : BitVec 16) : Encoding.Statement (.ori d a imm) := rfl
theorem Encoding.xori (d a : BitVec 5) (imm : BitVec 16) : Encoding.Statement (.xori d a imm) := rfl
theorem Encoding.shli (d a : BitVec 5) (n : BitVec 6) : Encoding.Statement (.shli d a n) := rfl
theorem Encoding.shri (d a : BitVec 5) (n : BitVec 6) : Encoding.Statement (.shri d a n) := rfl
theorem Encoding.sari (d a : BitVec 5) (n : BitVec 6) : Encoding.Statement (.sari d a n) := rfl
theorem Encoding.slti (d a : BitVec 5) (imm : BitVec 16) : Encoding.Statement (.slti d a imm) := rfl
theorem Encoding.movhi (d : BitVec 5) (imm : BitVec 16) : Encoding.Statement (.movhi d imm) := rfl
theorem Encoding.ldB (d a : BitVec 5) (imm : BitVec 16) : Encoding.Statement (.ldB d a imm) := rfl
theorem Encoding.ldH (d a : BitVec 5) (imm : BitVec 16) : Encoding.Statement (.ldH d a imm) := rfl
theorem Encoding.ldW (d a : BitVec 5) (imm : BitVec 16) : Encoding.Statement (.ldW d a imm) := rfl
theorem Encoding.ldD (d a : BitVec 5) (imm : BitVec 16) : Encoding.Statement (.ldD d a imm) := rfl
theorem Encoding.ldsB (d a : BitVec 5) (imm : BitVec 16) : Encoding.Statement (.ldsB d a imm) := rfl
theorem Encoding.ldsH (d a : BitVec 5) (imm : BitVec 16) : Encoding.Statement (.ldsH d a imm) := rfl
theorem Encoding.ldsW (d a : BitVec 5) (imm : BitVec 16) : Encoding.Statement (.ldsW d a imm) := rfl
theorem Encoding.ldsD (d a : BitVec 5) (imm : BitVec 16) : Encoding.Statement (.ldsD d a imm) := rfl
theorem Encoding.stB (d a : BitVec 5) (imm : BitVec 16) : Encoding.Statement (.stB d a imm) := rfl
theorem Encoding.stH (d a : BitVec 5) (imm : BitVec 16) : Encoding.Statement (.stH d a imm) := rfl
theorem Encoding.stW (d a : BitVec 5) (imm : BitVec 16) : Encoding.Statement (.stW d a imm) := rfl
theorem Encoding.stD (d a : BitVec 5) (imm : BitVec 16) : Encoding.Statement (.stD d a imm) := rfl
theorem Encoding.bEq (a b : BitVec 5) (off : BitVec 16) : Encoding.Statement (.bEq a b off) := rfl
theorem Encoding.bNe (a b : BitVec 5) (off : BitVec 16) : Encoding.Statement (.bNe a b off) := rfl
theorem Encoding.bLt (a b : BitVec 5) (off : BitVec 16) : Encoding.Statement (.bLt a b off) := rfl
theorem Encoding.bGe (a b : BitVec 5) (off : BitVec 16) : Encoding.Statement (.bGe a b off) := rfl
theorem Encoding.bLtn (a b : BitVec 5) (off : BitVec 16) : Encoding.Statement (.bLtn a b off) := rfl
theorem Encoding.bGen (a b : BitVec 5) (off : BitVec 16) : Encoding.Statement (.bGen a b off) := rfl
theorem Encoding.j (off : BitVec 26) : Encoding.Statement (.j off) := rfl
theorem Encoding.jal (off : BitVec 26) : Encoding.Statement (.jal off) := rfl
theorem Encoding.jr (d a : BitVec 5) : Encoding.Statement (.jr d a) := rfl
theorem Encoding.tstw (a bit : BitVec 5) (off : BitVec 16) : Encoding.Statement (.tstw a bit off) := rfl
theorem Encoding.semadd (d a : BitVec 5) (m : BitVec 9) : Encoding.Statement (.semadd d a m) := rfl
theorem Encoding.semaddc (a : BitVec 5) (m : BitVec 9) : Encoding.Statement (.semaddc a m) := rfl
theorem Encoding.semcas (d a : BitVec 5) (m : BitVec 9) : Encoding.Statement (.semcas d a m) := rfl
theorem Encoding.semset (a : BitVec 5) (m : BitVec 9) : Encoding.Statement (.semset a m) := rfl
theorem Encoding.semread (d : BitVec 5) (m : BitVec 9) : Encoding.Statement (.semread d m) := rfl
theorem Encoding.semwait (a : BitVec 5) (m : BitVec 9) : Encoding.Statement (.semwait a m) := rfl
theorem Encoding.draw (d a : BitVec 5) : Encoding.Statement (.draw d a) := rfl
theorem Encoding.rclaim (d : BitVec 5) (q : BitVec 8) : Encoding.Statement (.rclaim d q) := rfl
theorem Encoding.rfill (a : BitVec 5) (q : BitVec 8) : Encoding.Statement (.rfill a q) := rfl
theorem Encoding.rwaitf (q : BitVec 8) : Encoding.Statement (.rwaitf q) := rfl
theorem Encoding.rwaite (q : BitVec 8) : Encoding.Statement (.rwaite q) := rfl
theorem Encoding.rtake (d : BitVec 5) (q : BitVec 8) : Encoding.Statement (.rtake d q) := rfl
theorem Encoding.rfree (a : BitVec 5) (q : BitVec 8) : Encoding.Statement (.rfree a q) := rfl
theorem Encoding.rstat (d : BitVec 5) (q : BitVec 8) : Encoding.Statement (.rstat d q) := rfl
theorem Encoding.join (g : BitVec 6) : Encoding.Statement (.join g) := rfl
theorem Encoding.leave (g : BitVec 6) : Encoding.Statement (.leave g) := rfl
theorem Encoding.arrive (d : BitVec 5) (g : BitVec 6) : Encoding.Statement (.arrive d g) := rfl
theorem Encoding.bwait (a : BitVec 5) (g : BitVec 6) : Encoding.Statement (.bwait a g) := rfl
theorem Encoding.btest (d a : BitVec 5) (g : BitVec 6) : Encoding.Statement (.btest d a g) := rfl
theorem Encoding.tlwait (a : BitVec 5) (ctr inst : BitVec 4) : Encoding.Statement (.tlwait a ctr inst) := rfl
theorem Encoding.tlread (d : BitVec 5) (ctr inst : BitVec 4) : Encoding.Statement (.tlread d ctr inst) := rfl
theorem Encoding.xfenceO2E : Encoding.Statement (.xfenceO2E) := rfl
theorem Encoding.xfenceE2O : Encoding.Statement (.xfenceE2O) := rfl
theorem Encoding.cload (k : BitVec 4) (a : BitVec 5) (imm : BitVec 8) : Encoding.Statement (.cload k a imm) := rfl
theorem Encoding.cset (k n : BitVec 4) (a : BitVec 5) : Encoding.Statement (.cset k n a) := rfl
theorem Encoding.cseti (k n : BitVec 4) (imm : BitVec 18) : Encoding.Statement (.cseti k n imm) := rfl
theorem Encoding.cpush (d : BitVec 5) (k : BitVec 4) : Encoding.Statement (.cpush d k) := rfl
theorem Encoding.cstat (d : BitVec 5) (eng k : BitVec 4) : Encoding.Statement (.cstat d eng k) := rfl
theorem Encoding.tnext (d : BitVec 5) : Encoding.Statement (.tnext d) := rfl
theorem Encoding.tend : Encoding.Statement (.tend) := rfl
theorem Encoding.tabort : Encoding.Statement (.tabort) := rfl
theorem Encoding.tquery (d a : BitVec 5) : Encoding.Statement (.tquery d a) := rfl
theorem Encoding.nop : Encoding.Statement (.nop) := rfl
theorem Encoding.halt : Encoding.Statement (.halt) := rfl
theorem Encoding.trap (code : BitVec 5) : Encoding.Statement (.trap code) := rfl
theorem Encoding.eret : Encoding.Statement (.eret) := rfl
theorem Encoding.sysr (d : BitVec 5) (sr : BitVec 10) : Encoding.Statement (.sysr d sr) := rfl
theorem Encoding.sysw (a : BitVec 5) (sr : BitVec 10) : Encoding.Statement (.sysw a sr) := rfl
theorem Encoding.probe (a : BitVec 5) : Encoding.Statement (.probe a) := rfl
theorem Encoding.clean (a b : BitVec 5) : Encoding.Statement (.clean a b) := rfl
theorem Encoding.inval (a b : BitVec 5) : Encoding.Statement (.inval a b) := rfl
theorem Encoding.ptest (d a : BitVec 5) : Encoding.Statement (.ptest d a) := rfl
theorem Encoding.pfxC (coord : BitVec 8) : Encoding.Statement (.pfxC coord) := rfl
theorem Encoding.pfxI (imm : BitVec 24) : Encoding.Statement (.pfxI imm) := rfl
theorem Encoding.fadd (p : BitVec 4) (d a b : VReg) : Encoding.Statement (.fadd p d a b) := Encoding.append_word _ _
theorem Encoding.fsub (p : BitVec 4) (d a b : VReg) : Encoding.Statement (.fsub p d a b) := Encoding.append_word _ _
theorem Encoding.fmul (p : BitVec 4) (d a b : VReg) : Encoding.Statement (.fmul p d a b) := Encoding.append_word _ _
theorem Encoding.fma (p : BitVec 4) (d a b : VReg) : Encoding.Statement (.fma p d a b) := Encoding.append_word _ _
theorem Encoding.fms (p : BitVec 4) (d a b : VReg) : Encoding.Statement (.fms p d a b) := Encoding.append_word _ _
theorem Encoding.fnma (p : BitVec 4) (d a b : VReg) : Encoding.Statement (.fnma p d a b) := Encoding.append_word _ _
theorem Encoding.fmin (p : BitVec 4) (d a b : VReg) : Encoding.Statement (.fmin p d a b) := Encoding.append_word _ _
theorem Encoding.fmax (p : BitVec 4) (d a b : VReg) : Encoding.Statement (.fmax p d a b) := Encoding.append_word _ _
theorem Encoding.fabs (p : BitVec 4) (d a : VReg) : Encoding.Statement (.fabs p d a) := Encoding.append_word _ _
theorem Encoding.fneg (p : BitVec 4) (d a : VReg) : Encoding.Statement (.fneg p d a) := Encoding.append_word _ _
theorem Encoding.fcmpSet1 (p : BitVec 4) (cc : BitVec 2) (pd : BitVec 4) (a b : VReg) : Encoding.Statement (.fcmpSet1 p cc pd a b) := Encoding.append_word _ _
theorem Encoding.fcmpSet2 (p : BitVec 4) (cc : BitVec 2) (pd : BitVec 4) (a b : VReg) : Encoding.Statement (.fcmpSet2 p cc pd a b) := Encoding.append_word _ _
theorem Encoding.frcp (p : BitVec 4) (d a : VReg) : Encoding.Statement (.frcp p d a) := Encoding.append_word _ _
theorem Encoding.frsq (p : BitVec 4) (d a : VReg) : Encoding.Statement (.frsq p d a) := Encoding.append_word _ _
theorem Encoding.fsqrt (p : BitVec 4) (d a : VReg) : Encoding.Statement (.fsqrt p d a) := Encoding.append_word _ _
theorem Encoding.fdiv (p : BitVec 4) (d a b : VReg) : Encoding.Statement (.fdiv p d a b) := Encoding.append_word _ _
theorem Encoding.fexp2 (p : BitVec 4) (d a : VReg) : Encoding.Statement (.fexp2 p d a) := Encoding.append_word _ _
theorem Encoding.flog2 (p : BitVec 4) (d a : VReg) : Encoding.Statement (.flog2 p d a) := Encoding.append_word _ _
theorem Encoding.fclass (p : BitVec 4) (d a : VReg) : Encoding.Statement (.fclass p d a) := Encoding.append_word _ _
theorem Encoding.iadd (p : BitVec 4) (d a b : VReg) : Encoding.Statement (.iadd p d a b) := Encoding.append_word _ _
theorem Encoding.iadds (p : BitVec 4) (d a b : VReg) : Encoding.Statement (.iadds p d a b) := Encoding.append_word _ _
theorem Encoding.isub (p : BitVec 4) (d a b : VReg) : Encoding.Statement (.isub p d a b) := Encoding.append_word _ _
theorem Encoding.imul (p : BitVec 4) (d a b : VReg) : Encoding.Statement (.imul p d a b) := Encoding.append_word _ _
theorem Encoding.imulh (p : BitVec 4) (d a b : VReg) : Encoding.Statement (.imulh p d a b) := Encoding.append_word _ _
theorem Encoding.imad (p : BitVec 4) (d a b : VReg) : Encoding.Statement (.imad p d a b) := Encoding.append_word _ _
theorem Encoding.imin (p : BitVec 4) (d a b : VReg) : Encoding.Statement (.imin p d a b) := Encoding.append_word _ _
theorem Encoding.imax (p : BitVec 4) (d a b : VReg) : Encoding.Statement (.imax p d a b) := Encoding.append_word _ _
theorem Encoding.iabs (p : BitVec 4) (d a : VReg) : Encoding.Statement (.iabs p d a) := Encoding.append_word _ _
theorem Encoding.iand (p : BitVec 4) (d a b : VReg) : Encoding.Statement (.iand p d a b) := Encoding.append_word _ _
theorem Encoding.ior (p : BitVec 4) (d a b : VReg) : Encoding.Statement (.ior p d a b) := Encoding.append_word _ _
theorem Encoding.ixor (p : BitVec 4) (d a b : VReg) : Encoding.Statement (.ixor p d a b) := Encoding.append_word _ _
theorem Encoding.inot (p : BitVec 4) (d a : VReg) : Encoding.Statement (.inot p d a) := Encoding.append_word _ _
theorem Encoding.ishl (p : BitVec 4) (d a b : VReg) : Encoding.Statement (.ishl p d a b) := Encoding.append_word _ _
theorem Encoding.ishr (p : BitVec 4) (d a b : VReg) : Encoding.Statement (.ishr p d a b) := Encoding.append_word _ _
theorem Encoding.isar (p : BitVec 4) (d a b : VReg) : Encoding.Statement (.isar p d a b) := Encoding.append_word _ _
theorem Encoding.icmpSet1 (p : BitVec 4) (cc : BitVec 2) (pd : BitVec 4) (a b : VReg) : Encoding.Statement (.icmpSet1 p cc pd a b) := Encoding.append_word _ _
theorem Encoding.icmpSet2 (p : BitVec 4) (cc : BitVec 2) (pd : BitVec 4) (a b : VReg) : Encoding.Statement (.icmpSet2 p cc pd a b) := Encoding.append_word _ _
theorem Encoding.cvt (p : BitVec 4) (d a : VReg) (fmt : BitVec 4) : Encoding.Statement (.cvt p d a fmt) := Encoding.append_word _ _
theorem Encoding.cvtsr (p : BitVec 4) (d a : VReg) (fmt : BitVec 4) : Encoding.Statement (.cvtsr p d a fmt) := Encoding.append_word _ _
theorem Encoding.bamax (p : BitVec 4) (d a : VReg) : Encoding.Statement (.bamax p d a) := Encoding.append_word _ _
theorem Encoding.bscale (p : BitVec 4) (d a b : VReg) : Encoding.Statement (.bscale p d a b) := Encoding.append_word _ _
theorem Encoding.qnt (p : BitVec 4) (d a : VReg) (fmt : BitVec 4) : Encoding.Statement (.qnt p d a fmt) := Encoding.append_word _ _
theorem Encoding.dqnt (p : BitVec 4) (d a : VReg) (fmt : BitVec 4) : Encoding.Statement (.dqnt p d a fmt) := Encoding.append_word _ _
theorem Encoding.pack (p : BitVec 4) (d a : VReg) (fmt : BitVec 4) : Encoding.Statement (.pack p d a fmt) := Encoding.append_word _ _
theorem Encoding.unpack (p : BitVec 4) (d a : VReg) (fmt : BitVec 4) : Encoding.Statement (.unpack p d a fmt) := Encoding.append_word _ _
theorem Encoding.mov (p : BitVec 4) (d a : VReg) : Encoding.Statement (.mov p d a) := Encoding.append_word _ _
theorem Encoding.movi (p : BitVec 4) (d : VReg) (imm : BitVec 32) : Encoding.Statement (.movi p d imm) := Encoding.append_word _ _
theorem Encoding.movx (p : BitVec 4) (d a : VReg) : Encoding.Statement (.movx p d a) := Encoding.append_word _ _
theorem Encoding.vgetx (p : BitVec 4) (d : VReg) (xa : BitVec 3) : Encoding.Statement (.vgetx p d xa) := Encoding.append_word _ _
theorem Encoding.vsetx (p : BitVec 4) (xd : BitVec 3) (a : VReg) : Encoding.Statement (.vsetx p xd a) := Encoding.append_word _ _
theorem Encoding.perm (p : BitVec 4) (d a b : VReg) : Encoding.Statement (.perm p d a b) := Encoding.append_word _ _
theorem Encoding.xperm (p : BitVec 4) (d a b : VReg) : Encoding.Statement (.xperm p d a b) := Encoding.append_word _ _
theorem Encoding.bcast (p : BitVec 4) (d a : VReg) (lane : BitVec 5) : Encoding.Statement (.bcast p d a lane) := Encoding.append_word _ _
theorem Encoding.lshift (p : BitVec 4) (d a b : VReg) : Encoding.Statement (.lshift p d a b) := Encoding.append_word _ _
theorem Encoding.redsum (p : BitVec 4) (d a : VReg) : Encoding.Statement (.redsum p d a) := Encoding.append_word _ _
theorem Encoding.redmax (p : BitVec 4) (d a : VReg) : Encoding.Statement (.redmax p d a) := Encoding.append_word _ _
theorem Encoding.scan (p : BitVec 4) (d a : VReg) : Encoding.Statement (.scan p d a) := Encoding.append_word _ _
theorem Encoding.vld (p : BitVec 4) (mode : LoadMode) (d : VReg) (xa : BitVec 3) (disp : BitVec 30) : Encoding.Statement (.vld p mode d xa disp) := Encoding.append_word _ _
theorem Encoding.vst (p : BitVec 4) (mode : StoreMode) (d : VReg) (xa : BitVec 3) (disp : BitVec 30) : Encoding.Statement (.vst p mode d xa disp) := Encoding.append_word _ _
theorem Encoding.vlds (p : BitVec 4) (mode : LoadMode) (d : VReg) (xa xb : BitVec 3) : Encoding.Statement (.vlds p mode d xa xb) := Encoding.append_word _ _
theorem Encoding.vsts (p : BitVec 4) (mode : StoreMode) (d : VReg) (xa xb : BitVec 3) : Encoding.Statement (.vsts p mode d xa xb) := Encoding.append_word _ _
theorem Encoding.vldx (p : BitVec 4) (mode : LoadMode) (d : VReg) (xa : BitVec 3) (b : VReg) : Encoding.Statement (.vldx p mode d xa b) := Encoding.append_word _ _
theorem Encoding.vstx (p : BitVec 4) (mode : StoreMode) (d : VReg) (xa : BitVec 3) (b : VReg) : Encoding.Statement (.vstx p mode d xa b) := Encoding.append_word _ _
theorem Encoding.vstm (p : BitVec 4) (xa : BitVec 3) (disp : BitVec 6) : Encoding.Statement (.vstm p xa disp) := Encoding.append_word _ _
theorem Encoding.vtstw (bit : BitVec 6) (off : BitVec 12) : Encoding.Statement (.vtstw bit off) := Encoding.append_word _ _
theorem Encoding.pset (p : BitVec 4) (pd : BitVec 4) (imm : BitVec 8) : Encoding.Statement (.pset p pd imm) := Encoding.append_word _ _
theorem Encoding.pand (p : BitVec 4) (pd pa pb : BitVec 4) : Encoding.Statement (.pand p pd pa pb) := Encoding.append_word _ _
theorem Encoding.por (p : BitVec 4) (pd pa pb : BitVec 4) : Encoding.Statement (.por p pd pa pb) := Encoding.append_word _ _
theorem Encoding.pxor (p : BitVec 4) (pd pa pb : BitVec 4) : Encoding.Statement (.pxor p pd pa pb) := Encoding.append_word _ _
theorem Encoding.pnot (p : BitVec 4) (pd pa : BitVec 4) : Encoding.Statement (.pnot p pd pa) := Encoding.append_word _ _
theorem Encoding.pany (p : BitVec 4) (d : VReg) (pa : BitVec 4) : Encoding.Statement (.pany p d pa) := Encoding.append_word _ _
theorem Encoding.pcnt (p : BitVec 4) (d : VReg) (pa : BitVec 4) : Encoding.Statement (.pcnt p d pa) := Encoding.append_word _ _
theorem Encoding.vbr (p : BitVec 4) (cond : BitVec 2) (off : BitVec 18) : Encoding.Statement (.vbr p cond off) := Encoding.append_word _ _
theorem Encoding.vjmp (off : BitVec 18) : Encoding.Statement (.vjmp off) := Encoding.append_word _ _
theorem Encoding.vyield : Encoding.Statement (.vyield) := Encoding.append_word _ _
theorem Encoding.vexit : Encoding.Statement (.vexit) := Encoding.append_word _ _
theorem Encoding.vwait (m : BitVec 9) (xb : BitVec 3) : Encoding.Statement (.vwait m xb) := Encoding.append_word _ _
theorem Encoding.vsetshImm (imm : BitVec 24) : Encoding.Statement (.vsetshImm imm) := Encoding.append_word _ _
theorem Encoding.vsetshX (xa : BitVec 3) : Encoding.Statement (.vsetshX xa) := Encoding.append_word _ _
theorem Encoding.vnop : Encoding.Statement (.vnop) := Encoding.append_word _ _
theorem Encoding.vpfxr (e : Bool) (dh ah bh : BitVec 4) : Encoding.Statement (.vpfxr e dh ah bh) := Encoding.append_word _ _
theorem Encoding.vpfxi (imm : BitVec 24) : Encoding.Statement (.vpfxi imm) := Encoding.append_word _ _
theorem Encoding.mma (acc : BitVec 3) (hA hB : BitVec 6) (z : Bool) : Encoding.Statement (.mma acc hA hB z) := rfl
theorem Encoding.mmabs (acc : BitVec 3) (hA hB : BitVec 6) (z : Bool) : Encoding.Statement (.mmabs acc hA hB z) := rfl
theorem Encoding.azero (acc : BitVec 3) : Encoding.Statement (.azero acc) := rfl
theorem Encoding.aload (acc : BitVec 3) (h : BitVec 6) : Encoding.Statement (.aload acc h) := rfl
theorem Encoding.astore (acc : BitVec 3) (h : BitVec 6) (n : BitVec 8) : Encoding.Statement (.astore acc h n) := rfl
theorem Encoding.awm (acc : BitVec 3) (n : BitVec 8) : Encoding.Statement (.awm acc n) := rfl
theorem Encoding.await (acc : BitVec 3) (n : BitVec 8) : Encoding.Statement (.await acc n) := rfl
theorem Encoding.ascale (acc : BitVec 3) (h : BitVec 6) : Encoding.Statement (.ascale acc h) := rfl
theorem Encoding.acvt (acc : BitVec 3) (n : BitVec 8) : Encoding.Statement (.acvt acc n) := rfl
theorem Encoding.achk (acc : BitVec 3) : Encoding.Statement (.achk acc) := rfl
theorem Encoding.hset (h : BitVec 6) (st : BitVec 2) : Encoding.Statement (.hset h st) := rfl
theorem Encoding.hver (h : BitVec 6) (n : BitVec 8) : Encoding.Statement (.hver h n) := rfl
theorem Encoding.ctbl (t : BitVec 8) (st : BitVec 2) : Encoding.Statement (.ctbl t st) := rfl
theorem Encoding.copy (sa sb : BitVec 2) (f1 : BitVec 4) (n : BitVec 12) : Encoding.Statement (.copy sa sb f1 n) := rfl
theorem Encoding.fill (sa sb : BitVec 2) (f1 : BitVec 4) (n : BitVec 12) : Encoding.Statement (.fill sa sb f1 n) := rfl
theorem Encoding.gather (sa sb sc : BitVec 2) (f1 : BitVec 4) (n : BitVec 12) : Encoding.Statement (.gather sa sb sc f1 n) := rfl
theorem Encoding.scatter (sa sb sc : BitVec 2) (f1 : BitVec 4) (n : BitVec 12) : Encoding.Statement (.scatter sa sb sc f1 n) := rfl
theorem Encoding.mcast (sa sc : BitVec 2) (f1 : BitVec 4) (n : BitVec 12) : Encoding.Statement (.mcast sa sc f1 n) := rfl
theorem Encoding.chsend (sa : BitVec 2) (q : BitVec 8) (n : BitVec 12) : Encoding.Statement (.chsend sa q n) := rfl
theorem Encoding.xformConvert (sa sb : BitVec 2) (f1 f2 : BitVec 4) (n : BitVec 12) : Encoding.Statement (.xformConvert sa sb f1 f2 n) := rfl
theorem Encoding.xformCompress (sa sb : BitVec 2) (method : BitVec 4) (n : BitVec 12) : Encoding.Statement (.xformCompress sa sb method n) := rfl
theorem Encoding.xformExpand (sa sb : BitVec 2) (f1 method : BitVec 4) (n : BitVec 12) : Encoding.Statement (.xformExpand sa sb f1 method n) := rfl
theorem Encoding.enc (sa sb : BitVec 2) (f1 t : BitVec 4) (n : BitVec 12) : Encoding.Statement (.enc sa sb f1 t n) := rfl
theorem Encoding.dec (sa sb : BitVec 2) (f1 : BitVec 4) (n : BitVec 12) : Encoding.Statement (.dec sa sb f1 n) := rfl
theorem Encoding.dcopy (sa sb : BitVec 2) (n : BitVec 12) : Encoding.Statement (.dcopy sa sb n) := rfl
theorem Encoding.dfill (sa sb : BitVec 2) (n : BitVec 12) : Encoding.Statement (.dfill sa sb n) := rfl
theorem Encoding.dand (sa sb sc : BitVec 2) (n : BitVec 12) : Encoding.Statement (.dand sa sb sc n) := rfl
theorem Encoding.dor (sa sb sc : BitVec 2) (n : BitVec 12) : Encoding.Statement (.dor sa sb sc n) := rfl
theorem Encoding.dxor (sa sb sc : BitVec 2) (n : BitVec 12) : Encoding.Statement (.dxor sa sb sc n) := rfl
theorem Encoding.dnot (sa sb : BitVec 2) (n : BitVec 12) : Encoding.Statement (.dnot sa sb n) := rfl
theorem Encoding.dgsum (sa sb sc : BitVec 2) (f1 : BitVec 4) (n : BitVec 12) : Encoding.Statement (.dgsum sa sb sc f1 n) := rfl
theorem Encoding.sput (sa : BitVec 2) (slot n : BitVec 12) : Encoding.Statement (.sput sa slot n) := rfl
theorem Encoding.sget (sa : BitVec 2) (slot n : BitVec 12) : Encoding.Statement (.sget sa slot n) := rfl
theorem Encoding.sdrop (slot : BitVec 12) : Encoding.Statement (.sdrop slot) := rfl
theorem Encoding.spref (slot : BitVec 12) : Encoding.Statement (.spref slot) := rfl
theorem Encoding.sqry (sa : BitVec 2) (slot : BitVec 12) : Encoding.Statement (.sqry sa slot) := rfl
theorem Encoding.cred (sa : BitVec 2) (chunk : BitVec 12) (fmt : BitVec 4) (bucket : BitVec 8) : Encoding.Statement (.cred sa chunk fmt bucket) := rfl
theorem Encoding.cgath (sa : BitVec 2) (chunk : BitVec 12) (fmt : BitVec 4) (bucket : BitVec 8) : Encoding.Statement (.cgath sa chunk fmt bucket) := rfl
theorem Encoding.cbar (bucket : BitVec 8) : Encoding.Statement (.cbar bucket) := rfl
theorem Encoding.checkedOpEffect (core : Nat) (ok : Bool) : Encoding.Statement (.checkedOpEffect core ok) := rfl
theorem Encoding.loadDataReturn (dst : LoadDst) : Encoding.Statement (.loadDataReturn dst) := rfl
theorem Encoding.storePerformed (src : StoreSrc) : Encoding.Statement (.storePerformed src) := rfl
theorem Encoding.stalledIssueResume (core : Nat) : Encoding.Statement (.stalledIssueResume core) := rfl
theorem Encoding.semwaitRelease (core : Nat) : Encoding.Statement (.semwaitRelease core) := rfl
theorem Encoding.waitInterrupted (w : Waiter) : Encoding.Statement (.waitInterrupted w) := rfl
theorem Encoding.ringWaitRelease (core : Nat) : Encoding.Statement (.ringWaitRelease core) := rfl
theorem Encoding.bwaitRelease (core : Nat) : Encoding.Statement (.bwaitRelease core) := rfl
theorem Encoding.tlwaitRelease (core : Nat) : Encoding.Statement (.tlwaitRelease core) := rfl
theorem Encoding.tendReport (core : Nat) : Encoding.Statement (.tendReport core) := rfl
theorem Encoding.vwaitRelease (core strand rank : Nat) : Encoding.Statement (.vwaitRelease core strand rank) := rfl
theorem Encoding.fullWaitRelease (w : Waiter) : Encoding.Statement (.fullWaitRelease w) := rfl
theorem Encoding.syncBundleJoin (core strand : Nat) : Encoding.Statement (.syncBundleJoin core strand) := rfl
theorem Encoding.vexitJoin (core strand : Nat) : Encoding.Statement (.vexitJoin core strand) := rfl
theorem Encoding.starvationCountExpiry (core strand : Nat) : Encoding.Statement (.starvationCountExpiry core strand) := rfl
theorem Encoding.vccResume (core : Nat) : Encoding.Statement (.vccResume core) := rfl
theorem Encoding.commandHeadCheck (q : QId) : Encoding.Statement (.commandHeadCheck q) := rfl
theorem Encoding.commandWaitsMet (q : QId) : Encoding.Statement (.commandWaitsMet q) := rfl
theorem Encoding.strandCreate (core : Nat) : Encoding.Statement (.strandCreate core) := rfl
theorem Encoding.chainedCommandStart (core : Nat) : Encoding.Statement (.chainedCommandStart core) := rfl
theorem Encoding.commandComplete (q : QId) (num : Nat) : Encoding.Statement (.commandComplete q num) := rfl
theorem Encoding.commandSignal (q : QId) (num : Nat) : Encoding.Statement (.commandSignal q num) := rfl
theorem Encoding.mcastLanding (q : QId) (num idx : Nat) : Encoding.Statement (.mcastLanding q num idx) := rfl
theorem Encoding.matrixStepCheck (core : Nat) (ok : Bool) : Encoding.Statement (.matrixStepCheck core ok) := rfl
theorem Encoding.pinWaitRelease (core : Nat) : Encoding.Statement (.pinWaitRelease core) := rfl
theorem Encoding.pinTimeout (core : Nat) : Encoding.Statement (.pinTimeout core) := rfl
theorem Encoding.cutComplete (core : Nat) : Encoding.Statement (.cutComplete core) := rfl
theorem Encoding.qctlDiscard (core bit : Nat) : Encoding.Statement (.qctlDiscard core bit) := rfl
theorem Encoding.strctlEndStrand (core : Nat) : Encoding.Statement (.strctlEndStrand core) := rfl
theorem Encoding.strandDrainTimeout (core strand : Nat) : Encoding.Statement (.strandDrainTimeout core strand) := rfl
theorem Encoding.ringmasterRound (ctx stage : Nat) : Encoding.Statement (.ringmasterRound ctx stage) := rfl
theorem Encoding.taskRetire (ctx stage task : Nat) : Encoding.Statement (.taskRetire ctx stage task) := rfl
theorem Encoding.stashLookahead (ctx stage : Nat) : Encoding.Statement (.stashLookahead ctx stage) := rfl
theorem Encoding.chsendWindowGrant (ctx ring : Nat) : Encoding.Statement (.chsendWindowGrant ctx ring) := rfl
theorem Encoding.channelLanding (ctx ring slot : Nat) (first : Nat) (bytes : List (BitVec 8)) (poisoned : Bool) : Encoding.Statement (.channelLanding ctx ring slot first bytes poisoned) := rfl
theorem Encoding.channelPublish (ctx ring seq : Nat) (tag : BitVec 16) (void : Bool) : Encoding.Statement (.channelPublish ctx ring seq tag void) := rfl
theorem Encoding.channelAdvertisement (ctx ring : Nat) (freed : BitVec 32) : Encoding.Statement (.channelAdvertisement ctx ring freed) := rfl
theorem Encoding.carouselConsume (ctx die chunk : Nat) : Encoding.Statement (.carouselConsume ctx die chunk) := rfl
theorem Encoding.carouselReduceArrival (ctx die : Nat) (msg : RingWire) : Encoding.Statement (.carouselReduceArrival ctx die msg) := rfl
theorem Encoding.carouselGatherArrival (ctx die : Nat) (msg : RingWire) : Encoding.Statement (.carouselGatherArrival ctx die msg) := rfl
theorem Encoding.loadLtt (ctx : Nat) : Encoding.Statement (.loadLtt ctx) := rfl
theorem Encoding.declareStage (ctx : Nat) : Encoding.Statement (.declareStage ctx) := rfl
theorem Encoding.launch (ctx : Nat) : Encoding.Statement (.launch ctx) := rfl
theorem Encoding.preempt (ctx : Nat) : Encoding.Statement (.preempt ctx) := rfl
theorem Encoding.preemptSaved (ctx : Nat) : Encoding.Statement (.preemptSaved ctx) := rfl
theorem Encoding.resume (ctx : Nat) : Encoding.Statement (.resume ctx) := rfl
theorem Encoding.kill (ctx : Nat) : Encoding.Statement (.kill ctx) := rfl
theorem Encoding.curtainMessage (ctx : Nat) (gen : BitVec 32) (start : BitVec 56) (tag0 mbnm1 : BitVec 16) (list : CurtainList) : Encoding.Statement (.curtainMessage ctx gen start tag0 mbnm1 list) := rfl
theorem Encoding.curtainReport (ctx w4 : Nat) (fault : Bool) : Encoding.Statement (.curtainReport ctx w4 fault) := rfl
theorem Encoding.curtainRise (ctx : Nat) (joins : List ChannelJoin) : Encoding.Statement (.curtainRise ctx joins) := rfl
theorem Encoding.curtainFall (ctx : Nat) (err : BitVec 8) (fallen : CurtainFallen) : Encoding.Statement (.curtainFall ctx err fallen) := rfl
theorem Encoding.curtainTimeout (ctx : Nat) : Encoding.Statement (.curtainTimeout ctx) := rfl
theorem Encoding.lossMessage (ctx : Nat) (w4 : BitVec 24) : Encoding.Statement (.lossMessage ctx w4) := rfl
theorem Encoding.flitReceive (port : Nat) (flit : List (BitVec 8)) : Encoding.Statement (.flitReceive port flit) := rfl
theorem Encoding.linkDown (port : Nat) (lost : List (BitVec 24)) (ranks : List Nat) : Encoding.Statement (.linkDown port lost ranks) := rfl
theorem Encoding.remoteStoreAck (src : StoreSrc) : Encoding.Statement (.remoteStoreAck src) := rfl
theorem Encoding.hostMemAccess (write : Bool) (addr : Nat) (data : List (BitVec 8)) : Encoding.Statement (.hostMemAccess write addr data) := rfl
theorem Encoding.lrbaseWrite (ctx : Nat) (value : BitVec 64) : Encoding.Statement (.lrbaseWrite ctx value) := rfl
theorem Encoding.lrsizeWrite (ctx : Nat) (value : BitVec 64) : Encoding.Statement (.lrsizeWrite ctx value) := rfl
theorem Encoding.lrtailWrite (ctx : Nat) (value : BitVec 64) : Encoding.Statement (.lrtailWrite ctx value) := rfl
theorem Encoding.lrstatWrite (ctx : Nat) (value : BitVec 64) : Encoding.Statement (.lrstatWrite ctx value) := rfl
theorem Encoding.lrkillWrite (ctx : Nat) (value : BitVec 64) : Encoding.Statement (.lrkillWrite ctx value) := rfl
theorem Encoding.lttcmdWrite (ctx : Nat) (value : BitVec 64) : Encoding.Statement (.lttcmdWrite ctx value) := rfl
theorem Encoding.lttcmdRemove (ctx : Nat) (value : BitVec 64) : Encoding.Statement (.lttcmdRemove ctx value) := rfl
theorem Encoding.lttcmdResume (ctx : Nat) (value : BitVec 64) : Encoding.Statement (.lttcmdResume ctx value) := rfl
theorem Encoding.dbgctlHalt (ctx : Nat) (value : BitVec 64) : Encoding.Statement (.dbgctlHalt ctx value) := rfl
theorem Encoding.dbgctlResume (ctx : Nat) (value : BitVec 64) : Encoding.Statement (.dbgctlResume ctx value) := rfl
theorem Encoding.evbaseWrite (ctx : Nat) (value : BitVec 64) : Encoding.Statement (.evbaseWrite ctx value) := rfl
theorem Encoding.evsizeWrite (ctx : Nat) (value : BitVec 64) : Encoding.Statement (.evsizeWrite ctx value) := rfl
theorem Encoding.evheadWrite (ctx : Nat) (value : BitVec 64) : Encoding.Statement (.evheadWrite ctx value) := rfl
theorem Encoding.registerWrite (ctx : Nat) (offset : BitVec 12) (value : BitVec 64) : Encoding.Statement (.registerWrite ctx offset value) := rfl
theorem Encoding.moduleReset (fw : Bringup) : Encoding.Statement (.moduleReset fw) := rfl
theorem Encoding.wearSample (samples : List WearReading) : Encoding.Statement (.wearSample samples) := rfl
theorem Encoding.wearFlashWrite : Encoding.Statement (.wearFlashWrite) := rfl
theorem Encoding.clockChangeStart (core : Nat) : Encoding.Statement (.clockChangeStart core) := rfl
theorem Encoding.clockChangeComplete (core : Nat) : Encoding.Statement (.clockChangeComplete core) := rfl
theorem Encoding.laneRepair (stack channel : Nat) : Encoding.Statement (.laneRepair stack channel) := rfl
theorem Encoding.laneRepairDone (stack channel : Nat) : Encoding.Statement (.laneRepairDone stack channel) := rfl
theorem Encoding.tnextAnswerArrival (core : Nat) : Encoding.Statement (.tnextAnswerArrival core) := rfl
theorem Encoding.remoteResultReturn (core : Nat) (d : BitVec 5) : Encoding.Statement (.remoteResultReturn core d) := rfl
theorem Encoding.remoteAccessAtHome (acc : HomeAccess) : Encoding.Statement (.remoteAccessAtHome acc) := rfl
theorem Encoding.leaseExpiry (line : Nat) : Encoding.Statement (.leaseExpiry line) := rfl
theorem Encoding.dirtySectorWriteBack (sector : Nat) : Encoding.Statement (.dirtySectorWriteBack sector) := rfl
theorem Encoding.powerLoss : Encoding.Statement (.powerLoss) := rfl

end Sys2Proof.Laws
end

