-- ==== Sys2Proof/Tests/Slice0.lean ====
section
/-!
SUPPORT. Sys2Proof/Tests/Slice0.lean: ill-formed terms that the checks refuse, words written out from the encoding tables, single steps whose results
come from the spec's rules and worked examples, and for each statement states that meet its hypotheses.
-/
namespace Sys2Proof.Tests
open Machine

set_option maxRecDepth 8000
set_option exponentiation.threshold 1024

/-! ### Operands outside their limits (02 R43-R46, R48, R52, R54, R56, R58-R60) -/

/-- Timelines, CSTAT, TNEXT, PFX.C (R43-R46, R48). -/
theorem test_wf_sequencer :
    (Instr.tlwait 1 9 0).wf = false ∧ (Instr.tlread 1 5 1).wf = false ∧ (Instr.tlread 1 6 2).wf = false ∧ (Instr.tlwait 1 8 8).wf = false ∧
    (Instr.cstat 1 0 1).wf = false ∧ (Instr.cstat 1 3 2).wf = false ∧ (Instr.cstat 1 6 8).wf = false ∧ (Instr.cstat 1 7 0).wf = false ∧
    (Instr.tnext 0).wf = false ∧ (Instr.tnext 27).wf = false ∧ (Instr.pfxC 0x44).wf = false ∧ (Instr.pfxC 0x48).wf = false := by decide

/-- Register fields, predicates, conditions and prefixes of vector words (R49, R52, R54, R55). -/
theorem test_wf_vector :
    (Instr.fadd 0 (.win 300) (.ind 2) (.win 1)).wf = false ∧ (Instr.iabs 0 (.ind 2) (.win 56)).wf = false ∧
    (Instr.vldx 0 .plain (.win 900) 1 (.ind 0)).wf = false ∧ (Instr.fcmpSet1 0 0 0 (.win 1) (.win 2)).wf = false ∧
    (Instr.icmpSet2 0 0 0 (.win 1) (.win 2)).wf = false ∧ (Instr.pset 0 0 1).wf = false ∧ (Instr.pand 0 0 1 2).wf = false ∧
    (Instr.pnot 0 0 1).wf = false ∧ (Instr.vbr 0 3 0).wf = false ∧ (Instr.vpfxr false 1 0 0).wf = false := by decide

/-- Step words (R58-R60). -/
theorem test_wf_steps :
    (Instr.astore 0 0 16).wf = false ∧ (Instr.acvt 0 16).wf = false ∧ (Instr.awm 0 97).wf = false ∧ (Instr.await 0 0).wf = false ∧
    (Instr.await 0 97).wf = false ∧ (Instr.hset 0 3).wf = false ∧ (Instr.hver 0 8).wf = false ∧ (Instr.ctbl 16 0).wf = false ∧
    (Instr.copy 3 0 0 1).wf = false ∧ (Instr.fill 0 1 8 1).wf = false ∧ (Instr.gather 0 1 3 0 1).wf = false ∧
    (Instr.scatter 0 3 1 0 1).wf = false ∧ (Instr.mcast 0 3 0 1).wf = false ∧ (Instr.chsend 0 0 0).wf = false ∧
    (Instr.chsend 0 0 513).wf = false ∧ (Instr.xformCompress 0 1 4 1).wf = false ∧ (Instr.xformExpand 0 1 1 1 1).wf = false ∧
    (Instr.enc 0 1 1 0 1).wf = false ∧ (Instr.dec 0 1 3 1).wf = false ∧ (Instr.dcopy 0 3 1).wf = false ∧
    (Instr.dgsum 0 1 2 3 1).wf = false ∧ (Instr.dgsum 0 1 2 1 9).wf = false ∧ (Instr.sput 3 0 1).wf = false ∧
    (Instr.cred 3 0 1 0).wf = false := by decide

/-! ### Words written out from the encoding tables -/

/-- Integer and immediate words (R38-R40, R42): op, d, a, b, c, f. -/
theorem test_decode_integer :
    decodeSeq 0b000000_00001_00010_00011_00000_000001 = some (.sub 1 2 3) ∧
    decodeSeq 0b000000_00001_00010_00011_00000_000111 = some (.rem 1 2 3) ∧
    decodeSeq 0b000000_00001_00010_00011_00000_001110 = some (.sar 1 2 3) ∧
    decodeSeq 0b000000_00001_00010_00000_00000_010101 = some (.clz 1 2) ∧
    decodeSeq 0b000000_00001_00010_00011_00100_010111 = some (.sel 1 4 2 3) ∧
    decodeSeq 0b000000_00001_00010_00011_00001_000000 = none ∧ decodeSeq 0b000000_00001_00010_00000_00000_011000 = none ∧
    decodeSeq 0b000101_00001_00010_0000000000111111 = some (.shli 1 2 63) ∧ decodeSeq 0b000101_00001_00010_0000000001000000 = none ∧
    decodeSeq 0b001001_00001_00000_1000000000000000 = some (.movhi 1 0x8000) ∧ decodeSeq 0b001001_00001_00001_0000000000000000 = none ∧
    decodeSeq 0b001010_00001_00000_0000000000000000 = none := by decide

/-- Loads, branches and jumps (R39, R41). -/
theorem test_decode_memory_and_branches :
    decodeSeq 0b010001_00001_00010_0000000000000110 = some (.ldH 1 2 6) ∧ decodeSeq 0b010110_00001_00010_0000000000000100 = some (.ldsW 1 2 4) ∧
    decodeSeq 0b011000_00001_00010_1111111111111111 = some (.stB 1 2 0xFFFF) ∧
    decodeSeq 0b100101_00001_00010_0000000000000010 = some (.bGen 1 2 2) ∧ decodeSeq 0b110111_00001_11111_0000000000000010 = some (.tstw 1 31 2) ∧
    decodeSeq 0b100111_00000000000000000000000011 = some (.jal 3) ∧ decodeSeq 0b101000_00001_00010_0000000000000000 = some (.jr 1 2) ∧
    decodeSeq 0b101000_00001_00010_0000000000000001 = none := by decide

/-- Semaphore, ring, set and ordering words (R43). -/
theorem test_decode_synchronisation :
    decodeSeq 0b101100_00001_00010_0010_000111111111 = some (.semcas 1 2 511) ∧ decodeSeq 0b101100_00001_00010_0010_001000000000 = none ∧
    decodeSeq 0b101100_00001_00010_0110_000000000000 = some (.draw 1 2) ∧ decodeSeq 0b101101_00001_00000_0100_000011111111 = some (.rtake 1 255) ∧
    decodeSeq 0b101110_00001_00010_0100_000000111111 = some (.btest 1 2 63) ∧ decodeSeq 0b101111_00000_00010_0000_000001111000 = some (.tlwait 2 8 7) ∧
    decodeSeq 0b101111_00000_00000_0011_000000000000 = some .xfenceE2O := by decide

/-- Staging, task and system words, and prefixes (R44-R46). -/
theorem test_decode_control :
    decodeSeq 0b110000_00000_00010_0000_0011_00000001 = some (.cload 3 2 1) ∧ decodeSeq 0b110001_00000_00010_1111_0011_00000000 = some (.cset 3 15 2) ∧
    decodeSeq 0b110011_00001_00000_0000_0011_00000000 = some (.cpush 1 3) ∧ decodeSeq 0b110100_00001_00000_0110_0111_00000000 = some (.cstat 1 6 7) ∧
    decodeSeq 0b110101_00000_00000_00000_00000_000001 = some .tend ∧ decodeSeq 0b110101_00001_00010_00000_00000_000011 = some (.tquery 1 2) ∧
    decodeSeq 0b110110_00000_00000_00000_10101_000010 = some (.trap 21) ∧ decodeSeq 0b110110_00000_00000_00000_00000_000011 = some .eret ∧
    decodeSeq 0b110110_00000_00010_00000_11000_000101 = some (.sysw 2 24) ∧ decodeSeq 0b110110_00000_00010_00011_00000_001000 = some (.inval 2 3) ∧
    decodeSeq 0b111111_01_000000000000000000000101 = some (.pfxI 5) ∧ decodeSeq 0b111111_10_000000000000000000000000 = none := by decide

/-- Vector words (R49, R52-R55): S, OP, D, A, B, Q, P. -/
theorem test_decode_vector :
    decodeVec none none 0b0_0100011_000001_000010_000011_00_0101 = some (.imul 5 (.win 1) (.win 2) (.win 3)) ∧
    decodeVec none none 0b0_0110001_000100_000010_000011_10_0000 = some (.icmpSet2 0 2 4 (.win 2) (.win 3)) ∧
    decodeVec none none 0b0_1000110_000001_000010_000101_00_0000 = some (.pack 0 (.win 1) (.win 2) 5) ∧
    decodeVec none none 0b0_1010101_000001_000010_011111_00_0000 = some (.bcast 0 (.win 1) (.win 2) 31) ∧
    decodeVec none none 0b0_1010111_000001_000010_000000_00_0000 = some (.redsum 0 (.win 1) (.win 2)) ∧
    decodeVec none none 0b0_1100101_000001_000111_111001_01_0000 = some (.vstx 0 .sf (.win 1) 7 (.ind 1)) ∧
    decodeVec none none 0b0_1101010_000011_111111_111111_00_0000 = some (.vtstw 3 0xFFF) ∧
    decodeVec none none 0b0_1110001_000001_000010_000011_00_0000 = some (.pand 0 1 2 3) ∧
    decodeVec none none 0b0_1111011_000001_000010_000011_00_0000 = some (.vwait 66 3) ∧
    decodeVec none none 0b0_1010001_000001_000010_000011_00_0000 = some (.movi 0 (.win 1) 0x083) ∧
    decodeVec none (some 0x12345) 0b0_1010001_000001_000010_000011_00_0000 = some (.movi 0 (.win 1) 0x12345083) ∧
    decodeVec none none 0b0_0000000_000001_000010_000011_01_0000 = none ∧ decodeVec none none 0b0_0010011_000001_000010_000011_00_0000 = none := by decide

/-- Step words (R57-R59). -/
theorem test_decode_steps :
    decodeMtx 0b000010_001_000011_000101_0_00_00000000 = some (.mmabs 1 3 5 false) ∧
    decodeMtx 0b001010_001_000011_000000_0_00_00000010 = some (.astore 1 3 2) ∧ decodeMtx 0b011000_000_000000_000000_0_10_00001111 = some (.ctbl 15 2) ∧
    decodeMvCopy 0b000110_01_00000101_0000_000000000100 = some (.chsend 1 5 4) ∧
    decodeMvXform 0b000001_00_01_01_0000_0010_000000000001 = some (.xformCompress 0 1 2 1) ∧
    decodeMvXform 0b000001_00_01_01_0011_0010_000000000001 = none ∧
    decodeMvXform 0b000011_00_01_00_0100_0000_000000000010 = some (.dec 0 1 4 2) ∧
    decodeDou 0b000100_00_01_10_0000_0000_000000000011 = some (.dor 0 1 2 3) ∧ decodeStash 0b000101_01_000000000111_000000000000 = some (.sqry 1 7) ∧
    decodeCrsl 0b000011_00_000000000000_0000_00000111 = some (.cbar 7) := by decide

/-! ### Small states -/

/-- Context 0: 1 MiB from address 0 is the near slice of core 0, 1 MiB from 0x100000 is cacheable HBM with row operations. -/
def cx : Ctx :=
  { st := .running, coreList := [0], gen := 1
    ltt := [(0, some { plainEntry 0 with size := 20, pbase := sramBase }),
      (1, some { plainEntry 0x100000 with size := 20, pbase := 0x100000, cache := true, rowop := true })] }
/-- Core 0 runs context 0. -/
def co : Core := { holder := some 0, run := .on }
/-- A module after bring-up, with core 0 and context 0 changed by f and g. -/
def mk (who : Agent) (f : Core → Core) (g : Ctx → Ctx) : State :=
  { State.reset with who := who, cores := [(0, f co)], ctxs := [(0, g cx)], mod := { State.reset.mod with ready := true } }
/-- The sequencer of core 0 issues. -/
def sq (f : Core → Core) : State := mk (.seq 0) f id
/-- The device acts. -/
def dv (f : Core → Core) : State := mk .device f id

/-- A stage of context 0 on core 0. -/
def stage0 : Stage :=
  { commit := false, rr := false, phases := 1, nver := 1, vper := 0, wt := 1, dcrew := 1, agelim := 0, minc := 1, csem := 3, cls := 0,
    quota := 16, fsrc := 0, bsrc := 0, dch := 0x1FF, entries := [64, 128, 192], rows := [], items := [10, 0, 0], cores := [0],
    queues := [[], [], []], arrived := 0, waits := none, inflight := [], last := 0, cur := 0, wcount := 0, due := false, fdisp := 0,
    retiredN := [0, 0, 0], tasks := [], nextTask := 0 }
/-- A forward task of it, on core 0. -/
def task0 : Task :=
  { id := ⟨0, 0⟩, phase := 0, tag := 7, ver := 0, crew := [0], ended := [], aborts := 0, mism := 0, waiting := false, same := false }
/-- Core 0's share of it. -/
def share0 : Share := { task := ⟨0, 0⟩, rank := 0, nextPc := 32, pushed := [], held := [], slots := [], takes := [] }
/-- A sequencer's word in that task, of a stage that commits or does not. -/
def inTask (who : Agent) (commit : Bool) (f : Core → Core) : State :=
  mk who (fun c => f { c with share := some share0 }) (fun x => { x with stages := [(0, some { stage0 with commit := commit, tasks := [task0] })] })

/-! ### Single steps -/

/-- ADD wraps modulo 2^64 and moves the PC past the word (04 R79). -/
theorem test_add_wraps : ∃ t, exec (.add 3 1 2) (sq (fun c => (c.write 1 (BitVec.ofNat 64 (2 ^ 64 - 1)) false).write 2 2 false)) = .next t ∧
    (t.core 0).reg 3 = 1 ∧ (t.core 0).pc = 4 := ⟨_, rfl, by decide, by decide⟩

/-- DIV of −2^63 by −1 writes −2^63, and division by zero writes all ones (04 R79). -/
theorem test_div_corners :
    (∃ t, exec (.div 3 1 2) (sq (fun c => (c.write 1 (BitVec.ofNat 64 (2 ^ 63)) false).write 2 (BitVec.ofNat 64 (2 ^ 64 - 1)) false)) = .next t ∧
      (t.core 0).reg 3 = BitVec.ofNat 64 (2 ^ 63)) ∧
    (∃ t, exec (.div 3 1 2) (sq (fun c => c.write 1 5 false)) = .next t ∧ (t.core 0).reg 3 = BitVec.ofNat 64 (2 ^ 64 - 1)) :=
  ⟨⟨_, rfl, by decide⟩, ⟨_, rfl, by decide⟩⟩

/-- JR's source may be its destination: the jump uses the old value, the link is written (04 R83). -/
theorem test_jr_same_register : ∃ t, exec (.jr 1 1) (sq (fun c => c.write 1 64 false)) = .next t ∧ (t.core 0).pc = 64 ∧ (t.core 0).reg 1 = 4 :=
  ⟨_, rfl, by decide, by decide⟩

/-- A TRAP's EPC is the word after it, and the handler stands at TVEC with bits 1:0 zero (04 R102). -/
theorem test_trap : ∃ t, exec (.trap 5) (sq (fun c => { c.setSys 3 0x103 with pc := 16 })) = .next t ∧
    (t.core 0).sys 4 = 20 ∧ (t.core 0).pc = 0x100 ∧ (t.core 0).handler = true ∧ (t.core 0).sys 5 = 0x504 :=
  ⟨_, rfl, by decide, by decide, by decide, by decide⟩

/-- A store is little-endian (00 R4): the byte at the address is bits 7:0. -/
theorem test_store_little_endian : ∃ t, exec (.stW 2 1 0) (sq (fun c => (c.write 1 16 false).write 2 0x11223344 false)) = .next t ∧
    t.ms.peek ⟨sramBase + 16, false, 0, 0, false⟩ = 0x44 ∧ t.ms.peek ⟨sramBase + 19, false, 0, 0, false⟩ = 0x11 :=
  ⟨_, rfl, by decide, by decide⟩

/-- A load of a byte with sign (04 R81) is outstanding with its value. -/
theorem test_load_sign : ∃ t, exec (.ldsB 3 1 0) { sq id with ms := { mem := [(sramBase, 0x80)] } } = .next t ∧
    (t.core 0).outst = [⟨1, 3, some (BitVec.ofInt 64 (-128), false), true⟩] := ⟨_, rfl, by decide⟩

/-- SEMADD adds modulo 2^32 at the file and answers the old count (04 R85). -/
theorem test_semadd_effect : ∃ t, exec (.checkedOpEffect 0 true) (dv (fun c => { (c.setSem 1 { val := 0xFFFFFFFF }) with
      outst := [⟨0, 3, none, false⟩], checkQ := [⟨0, .sem 0 1 .add 2 0, some 3, false, 0, 4, false, 0, c.snapshot 4, c.prior⟩] })) = .next t ∧
    ((t.core 0).sem 1).val = 1 ∧ (t.core 0).reg 3 = 0xFFFFFFFF := ⟨_, rfl, by decide, by decide⟩

/-- The first draw of 10 items by a crew of 4, minimum 1, takes 3 (04 R87): min(rem, max(MINC, ceil(rem / P))). -/
theorem test_draw_chunk : ∃ t, exec (.checkedOpEffect 0 true) (dv (fun c => { c with
      outst := [⟨0, 3, none, false⟩], checkQ := [⟨0, .draw 0 1 10 1 3, some 3, false, 0, 4, false, 0, c.snapshot 4, c.prior⟩] })) = .next t ∧
    (t.core 0).reg 3 = BitVec.ofNat 64 (3 * 2 ^ 32) ∧ ((t.core 0).sem 1).val = 3 := ⟨_, rfl, by decide, by decide⟩

/-- A dispatch's answer: tag, phase and stage, version, rank, crew, designation (04 R98). -/
theorem test_tnext_answer : ∃ t, exec (.tnextAnswerArrival 0) (inTask .device false (fun c => { c with wait := some ⟨.tnext 5, 4, true⟩ })) = .next t ∧
    (t.core 0).reg 5 = 7 ∧ (t.core 0).reg 9 = 1 ∧ (t.core 0).pc = 64 := ⟨_, rfl, by decide, by decide, by decide⟩

/-- Writing LRTAIL off the ring's grain sets BADW (15 R269). -/
theorem test_lrtail_misaligned : ∃ t, exec (.lrtailWrite 0 8) (dv id) = .next t ∧ (t.ctx 0).badw = true := ⟨_, rfl, by decide⟩

/-- A lane repair uses up one of the four of its stack and pauses the channel (22 R368). -/
theorem test_lane_repair : ∃ t, exec (.laneRepair 2 5) (dv id) = .next t ∧ t.mod.lrep.getD 2 0 = 3 ∧ t.ms.paused = [(2, 5)] :=
  ⟨_, rfl, by decide, by decide⟩

/-! ### States that meet the hypotheses of the statements: the sequencer -/

/-- A sequencer's word issues: registers 1 to 6 free of outstanding results and of poison, nothing waits. -/
theorem witness_sequencer_issues : (sq id).SeqIssues 0 [1, 2, 3, 4, 5, 6, 31] ∧ (sq id).SeqIssues 0 [] ∧
    ((sq id).core 0).pois 1 = false ∧ ((sq id).core 0).checkQ = [] ∧ ((sq id).core 0).checkQ.length < 8 ∧ ((sq id).core 0).stores.length < 8 :=
  ⟨⟨rfl, rfl, by decide⟩, ⟨rfl, rfl, by decide⟩, rfl, rfl, by decide, by decide⟩

/-- StepRunsTheDecodedInstruction: an event, and a sequencer's word that the schedule names. -/
theorem witness_step_runs :
    ({ sq id with sched := [.event (.leaseExpiry 0)] } : State).sched = [.event (.leaseExpiry 0)] ∧
    ∃ s1, ({ sq id with ms := { mem := [(sramBase + 3, 0xD8)] } } : State).fetch 0 0 4 = .bytes 0xD8000000 s1 ∧
      decodeSeq 0xD8000000 = some .nop ∧ Instr.nop.wf = true ∧ ((sq id).core 0).heldFaults = [] ∧
      decodeSeq 0xA4000000 = none := ⟨rfl, _, rfl, by decide, rfl, rfl, by decide⟩

/-- UnassignedSequencerWordIsIllegal, IntegerWordsWaitForResults, RoundTrips. -/
theorem witness_waits_and_words :
    ((sq (fun c => { c with outst := [⟨0, 2, none, true⟩] })).core 0).busy 2 = true ∧
    ((sq (fun c => { c with outst := [⟨0, 2, none, true⟩] })).core 0).ready = true ∧
    (Instr.bEq 1 2 3).wf = true ∧ encodeSeq (.bEq 1 2 3) = some 0x80220003 ∧
    (Instr.movi 0 (.win 60) 0x1FFF).wf = true ∧ (encodeVec (.movi 0 (.win 60) 0x1FFF)).isSome = true ∧
    (Instr.dgsum 0 1 2 1 8).wf = true ∧ (encodeDou (.dgsum 0 1 2 1 8)).isSome = true := by decide

/-- PrefixedImmediateWords: PFX.I, then ADDI s1, s2, 5, ORI and MOVHI at the PC plus 4. -/
theorem witness_prefixed_immediates :
    (∃ s1, ({ sq id with ms := { mem := [(sramBase + 4, 5), (sramBase + 6, 0x22), (sramBase + 7, 0x04)] } } : State).fetch 0 4 4 = .bytes 0x04220005 s1) ∧
    decodeSeq 0x04220005 = some (.addi 1 2 5) ∧ decodeSeq 0x0C220005 = some (.ori 1 2 5) ∧ decodeSeq 0x24200005 = some (.movhi 1 5) :=
  ⟨⟨_, rfl⟩, by decide, by decide, by decide⟩

/-- BranchesAndJumps, MisalignedJumpTraps: an aligned and a misaligned target, the last address and the first beyond. -/
theorem witness_jumps :
    ((sq (fun c => c.write 1 (BitVec.ofNat 64 (2 ^ 56 - 4)) false)).core 0).reg 1 = BitVec.ofNat 64 (2 ^ 56 - 4) ∧
    (sq (fun c => c.write 1 (BitVec.ofNat 64 (2 ^ 56 - 4)) false)).SeqIssues 0 [2, 1] ∧
    (sq (fun c => c.write 1 2 false)).SeqIssues 0 [2, 1] ∧ ((sq (fun c => c.write 1 2 false)).core 0).reg 1 = 2 ∧
    (0xA0220001 : Nat) / 2 ^ 26 = 0x28 ∧ (0xA0220001 : Nat) % 2 ^ 16 ≠ 0 :=
  ⟨rfl, ⟨rfl, rfl, by decide⟩, ⟨rfl, rfl, by decide⟩, rfl, by decide, by decide⟩

/-- TakingATrap, ReturnFromTheHandler, SystemRegisters: outside and inside the handler, with the cut valid and not. -/
theorem witness_traps_and_system_registers :
    ((sq id).core 0).handler = false ∧
    (sq (fun c => { c with handler := true })).SeqIssues 0 [1] ∧ ((sq (fun c => { c with handler := true })).core 0).discards = [] ∧
    (sq (fun c => { c with handler := true })).faultedShared 0 = none ∧
    bitAt (((sq (fun c => { c.setSys 38 0x80000000 with handler := true })).core 0).sys 38).toNat 31 = true ∧
    (sq (fun c => { c.setSys 38 0x80000000 with handler := true })).SeqIssues 0 [1] ∧
    (38 : Nat) ∈ sysNumbers ∧ (38 : Nat) ∈ cutNumbers ∧ (47 : Nat) ∉ sysNumbers ∧ (1023 : Nat) ∉ sysNumbers :=
  ⟨rfl, ⟨rfl, rfl, by decide⟩, rfl, rfl, by decide, ⟨rfl, rfl, by decide⟩, by decide, by decide, by decide, by decide⟩

/-- LoadsReadMemory, StoresWriteMemory, AddressChecksOfLoadsAndStores: translated, misaligned and untranslated addresses, the last of the 2^56. -/
theorem witness_addresses :
    ((sq id).ctx 0).place false 0xFFFF8 = some ⟨sramBase + 0xFFFF8, false, 0, 8 * 255, false⟩ ∧ ((sq id).ctx 0).translated 0xFFFF8 = true ∧
    ((sq id).ctx 0).translated 0x200000 = false ∧ ((sq id).ctx 0).translated (2 ^ 56) = false ∧
    (sq id).markFor 0 16 = some (sq id) ∧ ((sq id).ctx ((sq id).ctxOf 0)).place ((sq id).core 0).inTask 16 = some ⟨sramBase + 16, false, 0, 0, false⟩ :=
  ⟨rfl, rfl, rfl, rfl, rfl, rfl⟩

/-- LoadDataReturn, RemoteResultReturn, CheckedResultsReachTheirRegister: results that are back, and one still awaited. -/
theorem witness_outstanding :
    ((dv (fun c => { c with outst := [⟨0, 3, some (5, true), true⟩] })).core 0).outst = [⟨0, 3, some (5, true), true⟩] ∧
    ((dv (fun c => { c with outst := [⟨0, 3, some (5, false), false⟩] })).core 0).outst = [⟨0, 3, some (5, false), false⟩] ∧
    ((dv (fun c => { c with outst := [⟨0, 3, none, false⟩] })).core 0).outst = [⟨0, 3, none, false⟩] ∧ (dv id).who = .device :=
  ⟨rfl, rfl, rfl, rfl⟩

/-- OrdinaryReadsLeaveMemory, OrdinaryStoresWriteTheirBytes, Acquire: a local, uncompressed place; a pending engine write; a state
that meets the invariant. -/
theorem witness_places :
    isRemote sramBase = false ∧ codecMethod 0 = false ∧ (sq id).Inv ∧
    (∀ w ∈ (sq id).ms.pendW, w.touches sramBase 8 = false) ∧
    ({ pendW := [⟨physPlace 64, [1], 7, false, false, true, 0⟩] } : MemSys).pendW = [⟨physPlace 64, [1], 7, false, false, true, 0⟩] := by
  refine ⟨by decide, rfl, ⟨rfl, ?_⟩, by decide, rfl⟩
  intro n sec h; cases h

/-- The CRC-64 of zeros is zero (18 R319). -/
theorem test_crc_of_zeros (n : Nat) : crc64 (List.replicate n 0) = 0 := by
  induction n with
  | zero => rfl
  | succ n ih =>
    have h : crcByte 0 0 = 0 := by decide
    simpa [crc64, List.replicate_succ, h] using ih

/-- The form of method 2 on the elements of the example after R322: 1.0 and -2.0 in turn. -/
theorem test_exponent_plane : compressForm 2 [0x80, 0x3F, 0x00, 0xC0, 0x80, 0x3F, 0x00, 0xC0] =
    some ([1, 0x3F, 0xC0, 0, 0, 0, 0, 0, 0, 0, 0, 0, 0, 0, 0, 0, 0x10, 0x10, 0x80, 0x00, 0x80, 0x00]) := by decide

/-- An L2 with a dirty sector under no method and one under method 2. -/
def l2Mem : MemSys := { l2 := [(0, some ⟨List.replicate 32 1, true, 0, 0, 0⟩), (2, some ⟨List.replicate 32 1, true, 2, 8192, 0⟩)] }

/-- WriteBackKeepsBytes: both sectors, a block that the codec can read, its metadata word outside it; places inside and outside. CompressionRoundTrips:
4 KiB of zeros. -/
theorem witness_write_back :
    Tbl.get none l2Mem.l2 0 = some ⟨List.replicate 32 1, true, 0, 0, 0⟩ ∧ Tbl.get none l2Mem.l2 2 = some ⟨List.replicate 32 1, true, 2, 8192, 0⟩ ∧
    codecMethod 0 = false ∧ codecMethod 2 = true ∧ (l2Mem.block (32 * 2) 8192).isSome = true ∧ 32 * 2 / 4096 * 4096 + 4096 ≤ 8192 ∧
    (4096 < 8192 ∧ 32 * 2 / 4096 * 4096 + 4096 ≤ 4096) ∧ 4095 / 4096 = 32 * 2 / 4096 ∧ 31 / 32 = 0 ∧ (List.replicate 4096 (0 : BitVec 8)).length = 4096 := by
  refine ⟨rfl, rfl, rfl, rfl, ?_, by decide, by decide, by decide, by decide, List.length_replicate⟩
  have raw : ∀ n k, l2Mem.rawBytes k n = List.replicate n 0 := by
    intro n
    induction n with
    | zero => intro k; rfl
    | succ n ih => intro k; rw [rawBytes_succ, ih]; rfl
  have zero : expandBlock (List.replicate 4096 0) 0 = some (List.replicate 4096 0) := by
    have h : (List.replicate 4096 (0 : BitVec 8)).take 4096 = List.replicate 4096 0 := List.take_of_length_le (Nat.le_of_eq List.length_replicate)
    simp only [expandBlock, expandForm, Nat.zero_div, Nat.zero_mod, if_true, h, test_crc_of_zeros]
  have md : leNat (l2Mem.rawBytes 8192 8) = 0 := by rw [raw]; rfl
  have poison : NatSet.has l2Mem.poison (lineOf 8192) = false := rfl
  unfold MemSys.block
  rw [poison, md, raw, zero]
  rfl

/-- PendingStoresComplete: the oldest store of the sequencer, and of a cluster, local and remote, marked .sf or not. -/
theorem witness_pending_stores :
    ((dv (fun c => { c with stores := [⟨[sramBase], false, true, 0, 0, 1, [], false, true⟩, ⟨[64], true, false, 0, 0, 2, [], false, true⟩] })).core 0).stores =
      [⟨[sramBase], false, true, 0, 0, 1, [], false, true⟩, ⟨[64], true, false, 0, 0, 2, [], false, true⟩] ∧
    Tbl.get [] ((dv (fun c => { c with vec := { stores := [(2, [⟨[64], true, false, 5, 0, 2, [], false, true⟩])] } })).core 0).vec.stores 2 = [⟨[64], true, false, 5, 0, 2, [], false, true⟩] :=
  ⟨rfl, rfl⟩

/-- StagingBuffers: 128 aligned bytes. CleanAndInvalidate: ranges inside the table, of length 0, at 2^40, misaligned. -/
theorem witness_buffers_and_ranges :
    ((sq (fun c => c.write 1 256 false)).core 0).reg 1 = 256 ∧ (256 + 128 * 255) % 128 = 0 ∧
    ((sq id).ctx 0).place false (256 + 128 * 255) = some ⟨sramBase + 0x8080, false, 0, 64, false⟩ ∧
    ((sq id).ctx 0).rangeKeys (fun e => if e.flip = 0 then [false] else [false, true]) 64 0 = some [] ∧
    ((sq id).ctx 0).rangeKeys (fun e => [((sq id).ctx 0).frame e false]) 0x100000 64 = some [(0x100000, 64)] ∧
    (sq id).ms.pinnedIn [(0x100000, 64)] = false ∧ ((sq (fun c => c.write 1 33 false)).core 0).reg 1 = 33 :=
  ⟨rfl, rfl, rfl, rfl, rfl, rfl, rfl⟩

/-- ProbeAndTest: an address of an entry, and one without. -/
theorem witness_probe : ((sq id).ctx 0).lookup 0x100000 = some { plainEntry 0x100000 with size := 20, pbase := 0x100000, cache := true, rowop := true } ∧
    ((sq id).ctx 0).lookup 0x200000 = none := ⟨rfl, rfl⟩

/-- SemaphoreWordsIssue, PrefixedSemaphoreWord: in a task of a COMMIT=1 stage, with 31 and with 32 held adds; PFX.C of core 0 and of another. -/
theorem witness_semaphore_words :
    ((sq id).core 0).checkRoom ∧ (sq id).commits 0 = false ∧ (inTask (.seq 0) true id).commits 0 = true ∧
    ((inTask (.seq 0) true (fun c => c.modShare (fun sh => { sh with held := (upFrom 0 32).map (fun m => (0, .add 0 m 1)) }))).core 0).addTargets.length = 32 ∧
    (0, 40) ∉ ((inTask (.seq 0) true (fun c => c.modShare (fun sh => { sh with held := (upFrom 0 32).map (fun m => (0, .add 0 m 1)) }))).core 0).addTargets ∧
    coordOk 0 = true ∧ (sq id).coreIn 0 (coreOfCoord 0) = true ∧ coordOk 1 = true ∧ (sq id).coreIn 0 (coreOfCoord 1) = false ∧ coordOk 0x44 = false ∧
    decodeSeq 0xB0E20011 = some (.semadd 7 2 17) := by
  refine ⟨by unfold Core.checkRoom; decide, rfl, rfl, rfl, by decide, by decide, rfl, by decide, rfl, by decide, by decide⟩

/-- SemaphoreEffects, DrawEffect, PushTakesEffect, RingAndSetOperationsTakeEffect: an entry of each kind at the head of the check queue. -/
def entry (op : CheckedOp) : CheckEntry := ⟨0, op, some 3, false, 0, 4, false, 0, co.snapshot 4, co.prior⟩
theorem witness_check_queue : ∀ op ∈ ([.sem 0 1 .add 2 0, .sem 0 1 .cas 2 0, .sem 0 1 .set 2 0, .sem 0 1 .read 0 0, .sem 0 1 .wait 0 0,
      .sem 0 1 .wait 5 0, .sem 0 1 .addc 2 0, .draw 0 1 10 1 3, .ring 0 .claim 0, .set 0 .join 0] : List CheckedOp),
    ((dv (fun c => { c with checkQ := [entry op] })).core 0).checkQ = [entry op] := by decide
theorem witness_push_takes_effect : ∀ k, k = newCmd (List.replicate 16 0) none 0 none 0 → k.chain = none ∧ k.sqpop = 0 ∧ k.sqpush = 0 ∧
    (dv (fun c => { c with checkQ := [entry (.push (.core 0 0) k)] })).effectReady 0 (entry (.push (.core 0 0) k)) = true := by
  rintro k rfl; exact ⟨rfl, rfl, rfl, rfl⟩

/-- SemaphoreCountAndRelease: no waiter, and one sequencer whose value the new count meets or not. -/
theorem witness_one_waiter :
    (((dv id).core 0).sem 1).waiters = [] ∧
    (((dv (fun c => { c.setSem 1 { waiters := [(.seq 0, 4)] } with wait := some ⟨.sem 0 1 4, 4, false⟩ })).core 0).sem 1).waiters = [(.seq 0, 4)] ∧
    ((dv (fun c => { c.setSem 1 { waiters := [(.seq 0, 4)] } with wait := some ⟨.sem 0 1 4, 4, false⟩ })).core 0).wait = some ⟨.sem 0 1 4, 4, false⟩ ∧
    (4 : BitVec 32).toNat ≤ (4 : BitVec 32).toNat ∧ (3 : BitVec 32).toNat < (4 : BitVec 32).toNat := ⟨rfl, rfl, rfl, by decide, by decide⟩

/-- DrawWord: a designation with its lead in the context, one with a reserved bit, one with a core of no context. -/
theorem witness_draw_word :
    slice (10 * 2 ^ 32 + 3) 19 17 = 0 ∧ slice (10 * 2 ^ 32 + 3) 16 9 = 0 ∧ coordOk 0 = true ∧ (sq id).coreIn 0 (coreOfCoord 0) = true ∧
    slice (2 ^ 17) 19 17 ≠ 0 ∧ coordOk (slice (0x44 * 2 ^ 9) 16 9) = false := by decide

/-- A ring of two slots of 64 bytes in the near slice, held in both roles. -/
def ring0 : Ring := { base := 0, logsl := 1, slotb := 64, orole := 3, chan := false, gv := false, grole := 0, gctx := 0, gq := 0 }
/-- A state with that ring, changed, and the sequencer or the device at work. -/
def rg (who : Agent) (f : Ring → Ring) : State := mk who id (fun x => { x with rings := [(5, some (f ring0))] })

/-- RingWordsIssue, RingEffects, RingFrontiersSettle: declared and undeclared rings; empty, full, claimed, filled and taken slots; a void slot. -/
theorem witness_rings :
    (rg (.seq 0) id).ringFor 0 5 .claim = some (0, 5, ring0) ∧ (rg (.seq 0) id).ringFor 0 6 .claim = none ∧
    (rg (.seq 0) (fun r => { r with orole := 2 })).ringFor 0 5 .claim = none ∧
    (rg (.seq 0) (fun r => { r with c := 2 })).ring 0 5 = some { ring0 with c := 2 } ∧ 2 ^ 1 ≤ ((2 : BitVec 32) - 0).toNat ∧
    ({ ring0 with c := 2 } : Ring).claimedUnfilled 64 = some 1 ∧ ({ ring0 with c := 2 } : Ring).claimedUnfilled 65 = none ∧
    ({ ring0 with c := 2, f := 2, t := 1 } : Ring).takenUndone 0 = some 0 ∧ ({ ring0 with c := 2, f := 2, t := 1 } : Ring).takenUndone 64 = none ∧
    ({ ring0 with c := 2, f := 2 } : Ring).f ≠ ({ ring0 with c := 2, f := 2 } : Ring).t ∧
    NatSet.has ({ ring0 with c := 2, f := 2 } : Ring).void 0 = false ∧
    (({ ring0 with c := 2, t := 1 } : Ring).c - ({ ring0 with c := 2, t := 1 } : Ring).f).toNat +
      (({ ring0 with c := 2, t := 1 } : Ring).t - ({ ring0 with c := 2, t := 1 } : Ring).r).toNat ≤ 3 := by
  refine ⟨rfl, rfl, rfl, rfl, by decide, rfl, rfl, rfl, rfl, by decide, rfl, by decide⟩

/-- SetEffects: no member, a member that has arrived and one that has not, two phases. -/
theorem witness_sets :
    (∀ e ∈ ((dv id).mset 0 3).members, e.1 ≠ .seq 0) ∧
    ((mk .device id (fun x => { x with sets := [(3, { members := [(.seq 0, true)], phase := 1 })] })).mset 0 3) = { members := [(.seq 0, true)], phase := 1 } ∧
    ((mk .device id (fun x => { x with sets := [(3, { members := [(.seq 0, false)] })] })).mset 0 3) = { members := [(.seq 0, false)] } ∧
    ((dv id).mset 0 3).phase = BitVec.ofNat 16 0 ∧ ((dv id).mset 0 3).phase ≠ BitVec.ofNat 16 1 := by
  refine ⟨by decide, rfl, rfl, rfl, by decide⟩

/-- Timelines, Fences, QueueState: a count below, at and above what is asked; the waiting sequencer; a store pending or none. -/
theorem witness_timelines :
    ((sq (fun c => { c.write 1 2 false with queues := [(0, { count := 2, last := 3 })] })).queue (timelineOf 0 0 0 0)).count = 2 ∧
    ((sq (fun c => c.write 1 2 false)).queue (timelineOf 0 0 0 0)).count < (((sq (fun c => c.write 1 2 false)).core 0).reg 1).toNat ∧
    ((dv (fun c => { c with wait := some ⟨.tl (.core 0 0) 2, 4, false⟩ })).core 0).wait = some ⟨.tl (.core 0 0) 2, 4, false⟩ ∧
    ((sq (fun c => { c with stores := [⟨[64], false, false, 0, 0, 1, [], false, true⟩] })).core 0).stores ≠ [] ∧
    queueOf 0 0 6 7 = some (.dou 0 7) ∧ queueOf 0 0 0 0 = some (.core 0 0) := ⟨rfl, by decide, rfl, by decide, rfl, rfl⟩

/-- CommandPush: buffers that name no queue, a per-core and a shared queue, a chained pair; a queue with room and one without. -/
def pushS (eng flags depth : Nat) : State :=
  sq (fun c => { c.setCb 0 0 (BitVec.ofNat 64 (eng * 2 ^ 60 + flags)) false with
    queues := [(2, { cmds := List.replicate depth (newCmd (List.replicate 16 0) none 0 none 0) })] })
theorem witness_pushes :
    ((pushS 7 0 0).core 0).bufferPois 0 = false ∧ queueOf 0 0 (slice (7 * 2 ^ 60) 63 60) (slice (7 * 2 ^ 60) 59 57) = none ∧
    (((pushS 2 0 0).core 0).buffer 0).headD 0 = BitVec.ofNat 64 (2 * 2 ^ 60) ∧ queueOf 0 0 2 0 = some (.core 0 2) ∧
    (pushS 2 0 15).roomFor 0 (.core 0 2) = true ∧ (pushS 2 0 16).roomFor 0 (.core 0 2) = false ∧
    ((pushS 2 0 0).core 0).sqReady (newCmd (((pushS 2 0 0).core 0).buffer 0) none 0 none 0) = true ∧
    queueOf 0 0 4 1 = some (.stash 0 1) ∧ isShared (.stash 0 1) = true ∧
    bitAt (2 * 2 ^ 60 + 2 ^ 55) 55 = true ∧ slice (2 * 2 ^ 60 + 2 ^ 55) 59 57 = 0 ∧ (pushS 2 (2 ^ 55) 0).roomFor 0 (.core 0 1) = true := by
  refine ⟨rfl, rfl, by decide, rfl, rfl, rfl, rfl, rfl, rfl, by decide, by decide, rfl⟩

/-- TaskReceipt, TaskEnd, RingmasterCounters: outside and inside a task, of a stage that commits or not; the answer is there. -/
theorem witness_tasks :
    ((sq id).core 0).share = none ∧ (sq id).SeqIssues 0 [26, 27, 28, 29, 30, 31] ∧
    (∀ w, w = some ⟨SeqWait.tnext 26, 4, true⟩ → ∀ s, s = inTask .device false (fun c => { c with wait := w }) →
      (s.core 0).wait = w ∧ (s.core 0).share = some share0 ∧ (s.stage 0 0).isSome = true ∧ (s.task 0 ⟨0, 0⟩).isSome = true ∧ (26 : BitVec 5).toNat + 5 < 32) ∧
    (∀ s, s = inTask .device true (fun c => { c with wait := some ⟨.tend, 4, false⟩ }) → (s.core 0).wait = some ⟨.tend, 4, false⟩ ∧
      (∀ p ∈ share0.pushed, p.2 ≤ (s.queue p.1).count)) ∧
    (inTask (.seq 0) true id).commits 0 = true ∧ (inTask (.seq 0) false id).commits 0 = false ∧
    (inTask (.seq 0) false id).stage 0 0 = some { stage0 with tasks := [task0] } ∧ (inTask (.seq 0) false id).stage 0 1 = none ∧
    slice (0 * 2 ^ 8 + 8) 3 0 = 8 ∧ slice (2 ^ 11) 63 11 ≠ 0 ∧ slice (2 ^ 4) 7 4 ≠ 0 ∧ 9 ≤ slice 9 3 0 := by
  refine ⟨rfl, ⟨rfl, rfl, by decide⟩, ?_, ?_, rfl, rfl, rfl, rfl, by decide, by decide, by decide, by decide⟩
  · rintro w rfl s rfl; exact ⟨rfl, rfl, rfl, rfl, by decide⟩
  · rintro s rfl; exact ⟨rfl, by decide⟩

/-- WaitsAndStalls: every wait, released and not; full and free resources of the stalls. -/
theorem witness_waits :
    ((dv (fun c => { c with wait := some ⟨.sem 0 1 4, 4, true⟩ })).core 0).wait = some ⟨.sem 0 1 4, 4, true⟩ ∧
    ((dv (fun c => { c with wait := some ⟨.ring 5 true, 4, true⟩ })).core 0).wait = some ⟨.ring 5 true, 4, true⟩ ∧
    ((dv (fun c => { c with wait := some ⟨.set 3 1, 4, true⟩ })).core 0).wait = some ⟨.set 3 1, 4, true⟩ ∧
    (∀ s, s = dv (fun c => { c with stall := some .checkFull, checkQ := List.replicate 8 (entry (.set 0 .join 0)) }) →
      (s.core 0).stall = some .checkFull ∧ 8 ≤ (s.core 0).checkQ.length) ∧
    ((dv (fun c => { c with stall := some .storesFull })).core 0).stores.length < 8 := by
  refine ⟨rfl, rfl, rfl, ?_, by decide⟩
  rintro s rfl; exact ⟨rfl, by decide⟩

/-! ### Strands -/

/-- A member in a cluster, with a shape and what it waits for. -/
def mem (cl : Nat) (vsh : BitVec 24) (w : SlotWait) : Member := ⟨cl, 0, 0, [], [], vsh, w⟩
/-- A strand of 64 window registers with these members. -/
def str (ms : List Member) : Strand :=
  { uid := 5, num := 1, wb := 0, ws := 64, members := ms, preds := [], ppois := [], sr := [], status := 0, iter := 0, set := none, age := 0,
    starve := 0, n := 1, d := 1, first := 0, mode := .live }
/-- Its command: iteration space of one, cluster 0, a window of 8 registers. -/
def vk : Cmd := { newCmd [0, 0, BitVec.ofNat 64 (2 ^ 32)] none 0 none 0 with uid := 5, num := 1, stage := 3 }
/-- A core with the strand. -/
def vs (who : Agent) (ms : List Member) (f : Core → Core) : State :=
  mk who (fun c => f { c with vec := { strands := [str ms] }, queues := [(0, { cmds := [vk], last := 1 })] }) id
/-- The word of member 0 of a strand of one cluster under a format. -/
def w1 (vsh : BitVec 24) : VCx := ⟨0, 0, 16, false, false, (vs (.cluster 0 5 0) [mem 0 vsh .run] id).core 0, str [mem 0 vsh .run], mem 0 vsh .run⟩

/-- A word issues in a strand of one cluster, and in one of two. FloatGroup and the others: registers 0 and 8 of the window, a pair, v[x0]. -/
theorem witness_vector_issues :
    (vs (.cluster 0 5 0) [mem 0 vshReset .run] id).VecIssues (w1 vshReset) ∧ (w1 vshReset).joint = false ∧
    (w1 vshReset).reg (.win 63) 1 = .ok (fun _ => 63) ∧ (w1 vshReset).reg (.win 62) 2 = .ok (fun _ => 62) ∧ (w1 vshReset).reg (.ind 0) 1 = .ok (fun _ => 0) ∧
    (str [mem 0 vshReset .run, mem 1 vshReset .run]).members.length = 2 ∧
    (vs (.cluster 0 5 1) [mem 0 vshReset .run, mem 1 vshReset .run] id).VecIssues
      ⟨0, 1, 16, false, false, (vs (.cluster 0 5 1) [mem 0 vshReset .run, mem 1 vshReset .run] id).core 0, str [mem 0 vshReset .run, mem 1 vshReset .run],
        mem 1 vshReset .run⟩ :=
  ⟨⟨rfl, rfl, rfl, rfl, rfl⟩, rfl, rfl, rfl, rfl, rfl, ⟨rfl, rfl, rfl, rfl, rfl⟩⟩

/-- FloatGroup, VectorIntegerGroup, ComparesAndConversions, BlockWords: every kind of format; widths that narrow, widen, and do neither. -/
theorem witness_formats :
    (w1 0x1F80).fmt = 0 ∧ fpFormat 0 = some .f64 ∧ fpFormat (w1 vshReset).fmt = some .f32 ∧ intFormat (w1 0x1F88).fmt = some (16, true) ∧ intFormat 12 = some (8, false) ∧
    NumFmt.ofCode 1 = some (.flt .f32) ∧ (NumFmt.ofCode 2).isSome = true ∧ fmtWidth 2 < fmtWidth 1 ∧ fmtWidth 1 ≤ fmtWidth 7 ∧
    (w1 vshReset).blockOk 0 = true ∧ (w1 vshReset).blockOk 1 = false ∧ (w1 0x1F80).fmt ≠ 1 ∧ plainFormat 1 = some .f32 ∧ blockElem 13 ≠ none ∧ blockElem 7 = none ∧ 6 < (7 : BitVec 4).toNat := by
  refine ⟨rfl, rfl, rfl, rfl, rfl, rfl, rfl, by decide, by decide, rfl, rfl, by decide, rfl, by decide, rfl, by decide⟩

/-- VectorWrites, LaneWords: the strand of a word, and the shape of what it writes. -/
theorem witness_vector_writes :
    ((vs (.cluster 0 5 0) [mem 0 vshReset .run] id).core 0).strand 5 = some (str [mem 0 vshReset .run]) ∧ (16 : Nat) ∈ [4, 8, 16, 32] ∧
    (w1 vshReset).active 31 = true ∧ (w1 0x0081).active 1 = false ∧ (str [mem 0 vshReset .run]).mode = .live ∧
    (str [mem 0 vshReset .run]).members.length ≤ 4 ∧ (w1 vshReset).st.pred 0 7 = 255 ∧ (w1 vshReset).m.xp 0 = false := by
  refine ⟨rfl, by decide, rfl, rfl, rfl, by decide, rfl, rfl⟩

/-- ReductionsAndPredicates: a sum under f32, a maximum under SR; the elements that take part. -/
theorem witness_reductions :
    (∃ g, (w1 vshReset).combine false = some g) ∧ (w1 vshReset).rnd ≠ 4 ∧ (∃ g, (w1 0x1FC1).combine true = some g) ∧ (w1 0x1FC1).rnd = 4 ∧
    (w1 vshReset).st.members.length = 1 ∧ (w1 vshReset).rank = 0 ∧ (w1 vshReset).takesPart 0 32 31 = true := by
  refine ⟨⟨_, rfl⟩, by decide, ⟨_, rfl⟩, rfl, rfl, rfl, rfl⟩

/-- StrandLoads, StrandStores: one active lane whose line is in the near slice, full or not; a ninth store; a line elsewhere, and none. -/
def acc0 : LaneAcc := ⟨0, 0, ⟨sramBase, false, 0, 0, false⟩⟩
theorem witness_lane_accesses :
    ((w1 0x0081).lanes.filter (fun l => (w1 0x0081).active l && bitAt ((w1 0x0081).st.pred 0 l) 0)) = [0] ∧
    acc0.ok ((vs (.cluster 0 5 0) [mem 0 0x0081 .run] id).ctx 0) false ∧ isSram acc0.place.key = true ∧ touchedLines [acc0] = [sramBase] ∧
    ({ vs (.cluster 0 5 0) [mem 0 0x0081 .run] id with ms := { full := [(sramBase, true)] } } : State).linesReady [sramBase] none = true ∧
    (vs (.cluster 0 5 0) [mem 0 0x0081 .run] id).linesReady [sramBase] none = false ∧ (w1 0x0081).task = none ∧
    ((w1 0x0081).m.xr 0 + 128 * (0 : BitVec 30).signExtend 64).toNat % 128 = 0 ∧
    ((vs (.cluster 0 5 0) [mem 0 0x0081 .run] id).ctx 0).place false 0x100000 = some ⟨0x100000, true, 0, 0, false⟩ ∧ isSram 0x100000 = false ∧
    ((vs (.cluster 0 5 0) [mem 0 0x0081 .run] id).ctx 0).place false 0x200000 = none ∧
    8 ≤ (Tbl.get [] ((vs (.cluster 0 5 0) [mem 0 0x0081 .run] (fun c => { c with vec := { c.vec with
      stores := [(0, List.replicate 8 ⟨[], false, false, 5, 0, 0, [], false, true⟩)] } })).core 0).vec.stores 0).length := by
  refine ⟨by decide, ⟨rfl, rfl⟩, by decide, by decide, by decide, by decide, rfl, by decide, rfl, by decide, rfl, by decide⟩

/-- StrandControl: VWAIT with a count at and below its value; VSETSH with RND 4 and 5, from a register of 24 bits. -/
theorem witness_strand_control :
    (0 : BitVec 32).toNat ≤ (((vs (.cluster 0 5 0) [mem 0 vshReset .run] id).core 0).sem 1).val.toNat ∧
    (((vs (.cluster 0 5 0) [mem 0 vshReset .run] id).core 0).sem 1).val.toNat < (1 : BitVec 32).toNat ∧
    slice (0x40 : BitVec 24).toNat 6 4 ≤ 4 ∧ 4 < slice (0x50 : BitVec 24).toNat 6 4 ∧ (w1 vshReset).m.xr 0 = (0 : BitVec 24).zeroExtend 64 := by
  refine ⟨by decide, by decide, by decide, by decide, rfl⟩

/-- VectorAdvance: a prefix bundle of VPFXI 5 before four MOVI v1, at the slot PC. -/
def pfxS : State := { vs (.cluster 0 5 0) [mem 0 vshReset .run] id with ms := { mem :=
  [(sramBase, 5), (sramBase + 3, 0x7F), (sramBase + 4, 5), (sramBase + 7, 0x7F), (sramBase + 8, 5), (sramBase + 11, 0x7F), (sramBase + 12, 5),
    (sramBase + 15, 0x7F), (sramBase + 18, 4), (sramBase + 19, 0x51), (sramBase + 22, 4), (sramBase + 23, 0x51), (sramBase + 26, 4),
    (sramBase + 27, 0x51), (sramBase + 30, 4), (sramBase + 31, 0x51)] } }
theorem witness_vector_prefix :
    (∃ s0, pfxS.fetch 0 0 16 = .bytes 0x7F0000057F0000057F0000057F000005 s0) ∧
    (0x7F0000057F0000057F0000057F000005 : Nat) / 2 ^ (32 * 0) % 2 ^ 32 = 0x7F * 2 ^ 24 + (5 : BitVec 24).toNat ∧
    (∃ s1, pfxS.unitOf 0 5 0 = .ok (⟨[0x7F0000057F0000057F0000057F000005], 0x51040000510400005104000051040000⟩, s1) ∧
      (∃ v, s1.vcx 0 5 0 32 false false = some v ∧ v.m = mem 0 vshReset .run)) ∧
    (⟨[0x7F0000057F0000057F0000057F000005], 0x51040000510400005104000051040000⟩ : VUnit).sync = false ∧
    (⟨[0x7F0000057F0000057F0000057F000005], 0x51040000510400005104000051040000⟩ : VUnit).instr 0 = some (.movi 0 (.win 1) 0x5000) ∧
    (∃ op, vecOp none (.movi 0 (.win 1) 0x5000) = some op) :=
  ⟨⟨_, rfl⟩, by decide, ⟨_, rfl, _, rfl, rfl⟩, by decide, by decide, ⟨_, rfl⟩⟩

/-- IterationStart, StrandCreation: a live strand at its first iteration; a command without a strand, admitted and, over the same window, not. -/
theorem witness_strand_creation :
    (str [mem 0 vshReset .run]).mode = .live ∧ (str [mem 0 vshReset .run]).first = 0 ∧
    (∀ s, s = mk .device (fun c => { c with queues := [(0, { cmds := [vk], last := 1 })] }) id →
      (s.queue (.core 0 0)).cmds.find? (fun k => k.stage == 3 && (s.core 0).lacksStrand k) = some vk ∧ (s.core 0).vecLive = true ∧
      ({} : VecUnit).admits vk = true ∧ ({ strands := [{ str [mem 0 vshReset .run] with uid := 6 }] } : VecUnit).admits vk = false) ∧
    vk.sete = false ∧ ({ vk with img := [0, 0, BitVec.ofNat 64 (2 ^ 32 + 2 ^ 17)] } : Cmd).sete = true := by
  refine ⟨rfl, rfl, ?_, rfl, rfl⟩
  rintro s rfl; exact ⟨rfl, rfl, rfl, rfl⟩

/-- StrandLife: the exit join of a last and of an earlier iteration, a member that has not exited; a synced bundle of two VNOP members. -/
def joinS : State := { vs .device [mem 0 vshReset (.join 0), mem 1 vshReset (.join 0)] id with ms := { mem :=
  [(sramBase + 3, 0xFD), (sramBase + 7, 0xFD), (sramBase + 11, 0xFD), (sramBase + 15, 0xFD)] } }
/-- Did a function answer? -/
def answers {ε α : Type} : Except ε α → Bool | .ok _ => true | .error _ => false
theorem witness_joins :
    ((vs .device [mem 0 vshReset .exit] id).core 0).strand 5 = some (str [mem 0 vshReset .exit]) ∧
    ((vs .device [mem 0 vshReset .exit] id).core 0).command 5 = some vk ∧ (str [mem 0 vshReset .exit]).n + (str [mem 0 vshReset .exit]).d - 2 ≤ 0 ∧
    ({ str [mem 0 vshReset .exit] with n := 2 } : Strand).iter < 2 + 1 - 2 ∧ (∃ m ∈ [mem 0 vshReset .exit, mem 1 vshReset .run], m.wait ≠ .exit) ∧
    (str [mem 0 vshReset (.join 0), mem 1 vshReset (.join 0)]).joinPc = some 0 ∧
    (match joinS.unitOf 0 5 0 with
      | .ok (un, s1) => un.instr 0 == some .vnop && un.instr 1 == some .vnop && !crossWord .vnop && answers (s1.runMembers 0 5 un 0 [0, 1])
      | .error _ => false) = true := by
  refine ⟨rfl, rfl, by decide, by decide, ⟨mem 1 vshReset .run, by decide, by decide⟩, rfl, by decide⟩

/-- A VBR of both members, and a bundle whose member words differ. -/
theorem witness_joint_words :
    (match ({ joinS with ms := { mem := [(sramBase + 3, 0xF7), (sramBase + 7, 0xF7), (sramBase + 11, 0xF7), (sramBase + 15, 0xF7)] } } : State).unitOf 0 5 0 with
      | .ok (un, s1) => un.instr 0 == some (.vbr 0 0 0) && un.instr 1 == some (.vbr 0 0 0) && crossWord (.vbr 0 0 0) &&
          (match s1.vcx 0 5 0 16 true true with | some w => answers (w.run none (some (.vbr 0 0 0)) s1) | none => false)
      | .error _ => false) = true ∧
    (match ({ joinS with ms := { mem := [(sramBase + 3, 0xFD), (sramBase + 7, 0xF9), (sramBase + 11, 0xFD), (sramBase + 15, 0xFD)] } } : State).unitOf 0 5 0 with
      | .ok (un, s1) => un.instr 0 != un.instr 1 && answers (s1.runMembers 0 5 un 0 [0, 1])
      | .error _ => false) = true := by decide

/-- StrandEvents: a released and an unreleased VWAIT; lines that are full and not; a count of 256; a draining strand. -/
theorem witness_strand_events :
    (str [mem 0 vshReset (.sem 0 1 true false 16)]).members[0]? = some (mem 0 vshReset (.sem 0 1 true false 16)) ∧
    (str [mem 0 vshReset (.full [sramBase] 3 false)]).members[0]? = some (mem 0 vshReset (.full [sramBase] 3 false)) ∧
    (vs .device [mem 0 vshReset (.full [sramBase] 3 false)] id).linesReady [sramBase] (some 3) = false ∧
    (∀ s, s = { vs .device [mem 0 0x0081 (.full [sramBase] 3 false)] id with ms := { full := [(sramBase, true)], mem := [(sramBase + 2, 4), (sramBase + 3, 0x60), (sramBase + 16 * 0, 0x10)] } } →
      s.linesReady [sramBase] (some 3) = true ∧ (s.core 0).vecLive = true) ∧
    256 ≤ ({ str [mem 0 vshReset .run] with starve := 256 } : Strand).starve ∧ (str [mem 0 vshReset .run]).joinPc = none ∧
    (str [mem 0 vshReset .run]).members.findIdx? (fun m => m.wait == .run) = some 0 ∧
    ({ str [mem 0 vshReset .run] with mode := .draining 1 0 } : Strand).mode = .draining 1 0 := by
  refine ⟨rfl, rfl, rfl, ?_, by decide, rfl, rfl, rfl⟩
  rintro s rfl; exact ⟨rfl, rfl⟩

/-! ### Engines -/

/-- A command in stage 3 with one step word, streams at these addresses and a loop nest of one iteration. -/
def ek (img : List (BitVec 64)) (w : Word) : Cmd := { newCmd img none 0 none 0 with uid := 9, num := 1, stage := 3, body := [w] }
/-- An engine runs it. -/
def es (q : QId) (k : Cmd) : State := (mk (.engine q) id id).setQueue q { cmds := [k], last := 1 }
/-- The same in a task of a stage that commits or does not. -/
def est (q : QId) (k : Cmd) (commit : Bool) : State := (inTask (.engine q) commit id).setQueue q { cmds := [k], last := 1 }
/-- Stream bases 0x200, 0x400 and 0x800 of the near slice; a HBM row and the one after it. -/
def img0 : List (BitVec 64) := [0, 0, 0, 0x200, 0x400, 0x800]
def imgRows : List (BitVec 64) := [0, 0, 0, 0x100000, 0x100400, 0x800]

/-- A step issues on a queue of every engine. -/
theorem witness_steps_issue : ∀ q ∈ ([.core 0 1, .core 0 2, .core 0 3, .core 0 4, .stash 0 1, .crsl 0 0, .dou 0 7] : List QId),
    (es q (ek img0 0)).who = .engine q ∧ ((es q (ek img0 0)).queue q).running = some (ek img0 0) ∧ ((es q (ek img0 0)).queue q).canRun (ek img0 0) = true := by
  decide

/-- EngineAccesses: a byte that can be read and written, outside and inside a task; one that is not translated. -/
theorem witness_engine_ranges :
    (es (.core 0 2) (ek img0 0)).Readable 0 0x200 1 ∧ (es (.core 0 2) (ek img0 0)).Writable 0 none 0x400 1 ∧
    (est (.core 0 2) (ek img0 0) true).Writable 0 (some ⟨0, 0⟩) 0x400 1 ∧ ((es (.core 0 2) (ek img0 0)).ctx 0).place false 0x200000 = none := by
  refine ⟨?_, ?_, ?_, rfl⟩
  · intro a h1 h2; obtain rfl : a = 0x200 := by omega
    rfl
  · intro a h1 h2; obtain rfl : a = 0x400 := by omega
    exact ⟨rfl, fun t h => by cases h⟩
  · intro a h1 h2; obtain rfl : a = 0x400 := by omega
    exact ⟨rfl, fun t h => .inl rfl⟩

/-- StepsAndTheirEnds: a step that is not the last of its body, the last of its iteration, the last of all; a queue that can run nothing more. -/
theorem witness_step_ends :
    ({ ek img0 0 with body := [0, 0] } : Cmd).step + 1 < ({ ek img0 0 with body := [0, 0] } : Cmd).body.length ∧
    (ek [0, 0, 0, 0, 0, 0, 1] 0).iter + 1 < (ek [0, 0, 0, 0, 0, 0, 1] 0).iterations ∧ (ek img0 0).iterations ≤ (ek img0 0).iter + 1 ∧
    ({ cmds := [ek img0 0], stop := true } : Queue).canRun (ek img0 0) = false ∧ ({ cmds := [ek img0 0] } : Queue).canRun (ek img0 0) = true := by
  refine ⟨by decide, by decide, by decide, rfl, rfl⟩

/-- CopiesAndGathers: 8 bytes that are read and written, a pattern, a misaligned source; two indices of which one skips its unit. -/
theorem witness_copies :
    (ek img0 0).AtAddr 0 8 0x200 ∧ (ek img0 0).AtAddr 1 8 0x400 ∧ (ek img0 0).AtAddr 2 8 0x800 ∧
    (match (es (.core 0 2) (ek img0 0)).engRead (ek img0 0) 0 0x200 8 with
      | .ok (bs, s1) => answers (s1.engWrite (ek img0 0) 0 0x400 bs) && answers (s1.engWrite (ek img0 0) 0 0x400 ((List.replicate 1 bs).flatten.take 8))
      | .error _ => false) = true ∧
    (ek [0, 0, 0, 0x201] 0).here 0 = (0x201 : Nat) ∧ 0x201 % 2 ≠ 0 ∧ (2 : BitVec 4).toNat < 3 ∧
    (match readIndices (.core 0 2) (ek img0 0) { es (.core 0 2) (ek img0 0) with ms := { mem := (upFrom (sramBase + 0x204) 4).map (fun a => (a, 0xFF)) } } 0 2 with
      | .ok (idx, s1) => idx == [0, 0xFFFFFFFF] && (match s1.engRead (ek img0 0) 0 0x800 8 with
        | .ok (bs, s2) => answers (s2.engWrite (ek img0 0) 0 0x400 bs) | .error _ => false)
      | .error _ => false) = true :=
  ⟨⟨rfl, by decide, by decide⟩, ⟨rfl, by decide, by decide⟩, ⟨rfl, by decide, by decide⟩, by decide, rfl, by decide, by decide, by decide⟩

/-- SendsOfTheMover: a receiver whose landing fits its slice and one whose does not; a producer end with window and without. -/
def recv : Landing := { idx := 0, core := 0, toReg := false, offs := 0, bytes := [], sem := 1, add := 1 }
def chanRing : Ring := { ring0 with orole := 0, chan := true, slotb := 256, win := { joined := true, w := 1 } }
def chS (r : Ring) (k : Cmd) : State :=
  (mk (.engine (.core 0 2)) id (fun x => { x with rings := [(5, some r)] })).setQueue (.core 0 2) { cmds := [k], last := 1 }
theorem witness_sends :
    (es (.core 0 2) (ek img0 0)).landingOk recv 0 8 = true ∧ (es (.core 0 2) (ek img0 0)).landingOk recv (-1) 8 = false ∧
    (es (.core 0 2) { ek img0 0 with lands := [recv] }).queue (.core 0 2) = { cmds := [{ ek img0 0 with lands := [recv] }], last := 1 } ∧
    (chS chanRing (ek img0 0)).producerEnd 0 5 = some chanRing ∧ (chS chanRing (ek img0 0)).producerEnd 0 6 = none ∧
    (chS chanRing (ek img0 0)).firstSender 0 5 = none ∧ chanRing.slotb < 3 * 128 ∧ (ek img0 0).AtAddr 0 128 0x200 ∧
    ((chS chanRing { ek img0 0b000110_00_00000101_0000_000000000001 with chWait := some 4 }).firstSender 0 5).isSome = true ∧ ({ chanRing with win := { joined := true } } : Ring).win.w = 0 ∧
    (match (chS chanRing (ek img0 0)).engRead (ek img0 0) 0 0x200 128 with | .ok _ => true | .error _ => false) = true ∧
    answers (sendSlot (.core 0 2) 5 0 0x200 1 (ek img0 0) (chS chanRing (ek img0 0))) = true := by
  refine ⟨by decide, by decide, rfl, rfl, rfl, rfl, by decide, ⟨rfl, by decide, by decide⟩, ?_, rfl, by decide, by decide⟩
  decide

/-- TransformWords: one block read and written; a metadata word; a tile's index entry. -/
theorem witness_transforms :
    (match (es (.core 0 3) (ek img0 0)).engRead (ek img0 0) 0 0x200 8 with
      | .ok (bs, s1) => answers (s1.engRead (ek img0 0) 0 0x400 16) && !anyBad bs && bs.length == 8
      | .error _ => false) = true ∧ (if (1 : BitVec 12) = 0 then 4096 else (1 : BitVec 12).toNat) = 1 ∧
    (EncDesc.ofBytes (List.replicate 16 0)).app % 64 = 0 ∧ (EncDesc.ofBytes (List.replicate 16 0)).tile + 1 ≤ 2 ^ 24 := by decide

/-- RowWords: rows that may be read and written, and one in the near slice, which may not. -/
theorem witness_rows :
    (ek imgRows 0).AtAddr 0 1024 0x100000 ∧ (ek imgRows 0).AtAddr 1 1024 0x100400 ∧ (ek imgRows 0).coh = false ∧
    (match (es (.dou 0 0) (ek imgRows 0)).rowCheck 0 false rowMode 0x100000 1024, (es (.dou 0 0) (ek imgRows 0)).rowCheck 0 false rowMode 0x800 1024,
        (es (.dou 0 0) (ek imgRows 0)).rowCheck 0 false plainHbm 0x100000 8 with
      | .ok _, .error .fault, .ok _ => true
      | _, _, _ => false) = true ∧
    (match (es (.dou 0 0) (ek imgRows 0)).douRead (ek imgRows 0) 0 0x100000 8 with
      | .ok (bs, s1) => answers (s1.douWrite (ek imgRows 0) 0 0x100400 bs) | .error _ => false) = true ∧
    (match (es (.dou 0 0) (ek imgRows 0)).gatherRead (ek imgRows 0) 0 0x100000 8 with
      | .ok (bs, _) => (bagsOf 256 1 256 [1, 0]).isSome && bs.length == 8 | .error _ => false) = true :=
  ⟨⟨rfl, by decide, by decide⟩, ⟨rfl, by decide, by decide⟩, rfl, by decide, by decide, by decide⟩

/-- Stash: a command of a task of a declared stage; a name that is present, absent; room in the store and none; a class for each backing. -/
def stk : Cmd := { ek [0, 0, 0, 0x1000] 0 with task := some ⟨0, 0⟩ }
def present : Stashed := ⟨0, 0, 7, 1, 0, .present 1 [] [] 0 false⟩
theorem witness_stash :
    (est (.stash 0 0) stk true).stage 0 0 = some { stage0 with commit := true, tasks := [task0] } ∧ stk.task = some ⟨0, 0⟩ ∧
    stk.AtAddr 0 4096 0x1000 ∧ ((est (.stash 0 0) stk true).ctx 0).stashed 0 0 0 1 = none ∧
    ({ cx with stash := [present] } : Ctx).stashed 0 0 7 1 = some present ∧
    (cx.residentBytes 0 + 4096 * 1 ≤ stage0.quota * 2 ^ 16) ∧ ({ stage0 with quota := 0 } : Stage).quota * 2 ^ 16 < cx.residentBytes 0 + 4096 * 1 ∧
    ({ cx with hbk := [1, 0] } : Ctx).backingBytes 0 1 + 0 ≤ ({ cx with hbk := [1, 0] } : Ctx).hbk.getD 0 0 * 2 ^ 20 ∧
    stage0.queues.getD 1 [] = [] ∧ present.stage = 0 := by
  refine ⟨rfl, rfl, ⟨rfl, by decide, by decide⟩, rfl, rfl, by decide, by decide, by decide, rfl, rfl⟩

/-- Carousel: a step of one rank that opens; a semaphore that holds one and none; a step that consumes; an arrival that nobody awaits. -/
def crS : State := es (.crsl 0 0) (ek [0, 0, 0, 0x1000] 0)
def crStep : CrslStep := { (ek [] 0).crslStep 1 0 .reduce 0 0 1 with todo := [.consume false] }
theorem witness_carousel :
    (crS.ctx 0).inProgress 0 < 256 ∧
    (match crS.openStep (ek [0, 0, 0, 0x1000] 0) 0 ((ek [0, 0, 0, 0x1000] 0).taken 1 0 false 0 0 1 0) 0 with
      | .ok (t, s1) => answers (s1.addStep 0 0 (ek [0, 0, 0, 0x1000] 0) t) | .error _ => false) = true ∧
    crS.InHand (.crsl 0 0) ∧ crS.StepIssues (.crsl 0 0) (ek [0, 0, 0, 0x1000] 0) ∧
    ¬ ((3 : Nat) = 1 ∨ (3 : Nat) = 2 ∨ (3 : Nat) = 13 ∨ (3 : Nat) = 14) ∧
    ((dv id).ctx 0).acting 0 0 = none ∧ ((mk .device id (fun x => { x with crsl := [crStep] })).ctx 0).acting 0 0 = some crStep ∧
    (((dv id).core 0).sem 0).val = 0 ∧ 1 ≤ (((dv (fun c => c.setSem 0 { val := 1 })).core 0).sem 0).val.toNat ∧
    ((mk .device id (fun x => { x with st := .empty })).ctx 0).st = .empty ∧ ((dv id).ctx 0).st ≠ .empty := by
  refine ⟨by decide, by decide, ?_, ⟨rfl, rfl, rfl, rfl⟩, by decide, rfl, rfl, rfl, by decide, rfl, by decide⟩
  rintro x d h; cases h; decide

/-- MatrixProducts: handles of f16 tiles in the near slice, a watermark of 0; two handles of f64, which no product takes. -/
def handle16 : Nat := 2 * 2 ^ 60 + 3 * 2 ^ 58 + 256 * 2 ^ 164
def mtS (h : Nat) : State := (es (.core 0 1) (ek img0 0)).modMtx 0 (fun m => { m with handles := [(1, h), (2, h)], wm := [(0, 0)] })
theorem witness_matrix_products :
    (match mmaTiles (.core 0 1) (ek img0 0) (mtS handle16) (encMtx 1 0 1 2 1 0 0) 0 with
      | .ok (a, b, kt, _, tr) => kt == 32 && tr && !b.coded &&
        (match prepare (.core 0 1) (ek img0 0) (mtS handle16) [(a, (aRuns false a 0 0 kt).1), (b, (bRuns false b 0 kt).1)] with
          | .ok (s1, k1, e, p) => answers (formStep (.core 0 1) k1 s1 [] ⟨0, [], [], 0, e, p, BitVec.ofNat 32 (encMtx 1 0 1 2 1 0 0), 0, 0, 0, 0, false⟩)
          | .error _ => false)
      | .error _ => false) = true ∧
    (((mtS handle16).queue (.core 0 1)).heldBefore 9 0 = false ∧ (((mtS handle16).queue (.core 0 1)).cmds.map (fun j => j.held.length)).sum < 4) ∧
    (match (mtS 0).tile (.core 0 1) (ek img0 0) 0 1, (mtS 0).tile (.core 0 1) (ek img0 0) 0 2 with
      | .ok a, .ok b => mmaShape false a.fmt b.fmt == none | _, _ => false) = true := by
  refine ⟨by decide +kernel, ⟨by decide, by decide⟩, by decide +kernel⟩

/-- MatrixChecks, Accumulators: a held result, first and second time; no result on an accumulator; tiles that ALOAD and ASCALE read; a handle's image. -/
def held0 : HeldStep := ⟨0, [], [], 0, [], [], 0, 0, 0, 0, 0, true⟩
theorem witness_accumulators :
    (dv (fun c => { c with queues := [(1, { cmds := [{ ek img0 0 with held := [held0] }] })] }) |>.queue (.core 0 1)).cmds.find? (fun k => !k.held.isEmpty) =
      some { ek img0 0 with held := [held0] } ∧ held0.again = true ∧ ((dv id).queue (.core 0 1)).cmds.find? (fun k => !k.held.isEmpty) = none ∧
    answers (committed (.core 0 1) (ek img0 0) (mtS handle16) 0) = true ∧ (ek img0 0).iter % (ek img0 0).count 0 = 0 ∧
    (ek img0 0).iter % (ek img0 0).count 0 + 1 = (ek img0 0).count 0 ∧ (ek [0, 0, 0, 0, 0, 0, 1] 0).iter % (ek [0, 0, 0, 0, 0, 0, 1] 0).count 0 + 1 ≠ (ek [0, 0, 0, 0, 0, 0, 1] 0).count 0 ∧
    ((es (.core 0 1) { ek img0 0 with held := [held0] }).queue (.core 0 1)).uses 5 = false ∧
    (match (mtS handle16).tile (.core 0 1) (ek img0 0) 0 1 with
      | .ok t => t.fmt == 2 && t.check .other 2 && answers (readPlain (.core 0 1) (ek img0 0) (mtS handle16) t 0)
      | .error _ => false) = true ∧
    answers (readImage (.core 0 1) (ek img0 0) (mtS 0) 0 64 64) = true ∧
    ((mtS 0).queue (.core 0 1)).running = some (ek img0 0) ∧ ((dv id).queue (.core 0 1)).running = none := by
  refine ⟨rfl, rfl, rfl, by decide, by decide, by decide, by decide, by decide, by decide +kernel, by decide, rfl, rfl⟩

/-- Commands: a queue held back; a malformed command at the head, a well-formed one; a command whose waits are met; the oldest command in stage 5. -/
def cS (k : Cmd) (stop : Bool) : State := dv (fun c => { c with queues := [(0, { cmds := [k], last := 1, stop := stop })] })
theorem witness_commands :
    (cS { vk with stage := 0 } true).heldBack (.core 0 0) = true ∧ (cS { vk with stage := 0 } false).heldBack (.core 0 0) = false ∧
    (cS { vk with stage := 0 } false).atHead (.core 0 0) = some { vk with stage := 0 } ∧
    (cS { vk with stage := 0 } false).headOk (.core 0 0) { vk with stage := 0 } = true ∧
    (cS { vk with stage := 0, img := [] } false).headOk (.core 0 0) { vk with stage := 0, img := [] } = false ∧
    answers (fetchBody (.core 0 0) { vk with stage := 0 } (cS { vk with stage := 0 } false)) = true ∧ (cS vk false).atHead (.core 0 0) = none ∧
    (((cS { vk with stage := 2 } false).retest (.core 0 0)).queue (.core 0 0)).cmds.find? (fun k => k.stage == 2) = some { vk with stage := 2, met := true } ∧
    (cS { vk with stage := 4 } false).performed (.core 0 0) { vk with stage := 4 } = true ∧ (cS vk false).performed (.core 0 0) vk = false ∧
    answers (completeCmd (.core 0 0) { vk with stage := 4 } (cS { vk with stage := 4 } false)) = true ∧ vk.statusBit = false ∧ vk.sadd = 0 ∧
    ((cS vk false).core 0).tokenRoom vk.sig (selEngine 0) = true := by
  refine ⟨rfl, rfl, rfl, by decide, by decide, rfl, rfl, rfl, rfl, rfl, rfl, rfl, rfl, rfl⟩

/-! ### Events -/

/-- CutsAndRequests: a cut that is complete; a discard asked for, of a stopped queue and of one that runs; the end of a faulted strand. -/
theorem witness_cuts :
    ((dv id).core 0).cutting = false ∧ ((dv (fun c => { c with cutting := true })).core 0).cutting = true ∧
    (∀ q < 6, ((dv (fun c => { c with cutting := true })).queue (.core 0 q)).cmds = []) ∧ (dv (fun c => { c with cutting := true })).faultedShared 0 = none ∧
    (∀ s, s = dv (fun c => { c with discards := NatSet.mark [] 2 true, queues := [(2, { cmds := [vk], last := 1, stop := true })] }) →
      NatSet.has (s.core 0).discards 2 = true ∧ (s.queue (.core 0 2)).stop = true ∧ (s.queue (.core 0 2)).cmds = [vk] ∧ NatSet.has (s.core 0).discards 3 = false) ∧
    (∀ s, s = vs .device [mem 0 vshReset (.fault false)] (fun c => { c with endStrand := true, faultStrand := some 5 }) →
      (s.core 0).endStrand = true ∧ (s.core 0).faultStrand = some 5) := by
  refine ⟨rfl, rfl, by decide, rfl, ?_, ?_⟩
  · rintro s rfl; exact ⟨rfl, rfl, rfl, rfl⟩
  · rintro s rfl; exact ⟨rfl, rfl⟩

/-- Ringmaster: one declared stage, in RUNNING and not; an arrival that a waiting core can take, one for which no core is free; two cores of equal wear. -/
def rmS (f : Ctx → Ctx) (g : Stage → Stage) (h : Core → Core) : State := mk .device h (fun x => f { x with stages := [(0, some (g stage0))] })
def arrived (st : Stage) : Stage := { st with queues := [[⟨7, 0, 0⟩], [], []], arrived := 1, rows := [BitVec.ofNat 64 (2 ^ 63)] }
theorem witness_ringmaster :
    ((rmS id id id).ctx 0).stages = [(0, some stage0)] ∧ ((rmS id id id).ctx 0).st = .running ∧ ((rmS id id id).ctx 0).preempting = false ∧
    ((rmS (fun x => { x with preempting := true }) id id).ctx 0).preempting = true ∧ stage0.tasks.find? (·.waiting) = none ∧ stage0.queues = [[], [], []] ∧
    (∀ s, s = rmS id arrived (fun c => { c with wait := some ⟨.tnext 1, 4, false⟩ }) →
      (match s.choose 0 0 (arrived stage0) with | some ch => s.crewFor (arrived stage0) ch == some [0] | none => false) = true) ∧
    (∀ s, s = rmS id arrived id →
      (match s.choose 0 0 (arrived stage0) with | some (.fresh p a m) => s.crewFor (arrived stage0) (.fresh p a m) == none | _ => false) = true) ∧
    [0, 1, 2].Nodup ∧ (((rmS id id id).core ([0].headD 0)).sem stage0.csem).waiters = [] := by
  refine ⟨rfl, rfl, rfl, rfl, rfl, rfl, ?_, ?_, by decide, rfl⟩
  · rintro s rfl; decide
  · rintro s rfl; decide

/-- TaskRetirement: a task whose core has not reported, and one whose core has, of a stage that commits or not. -/
def launch0 : Launch := { start := 64, mbn := 1, tag0 := 0, cto := 1, gen := 1, w4s := [0], arrived := [], began := 0 }
def retS (ended : List (Nat × Share)) (commit : Bool) : State :=
  mk .device id (fun x => { x with launch := some launch0, stages := [(0, some { stage0 with commit := commit, tasks := [{ task0 with ended := ended }] })] })
theorem witness_retirement :
    (retS [] false).task 0 ⟨0, 0⟩ = some task0 ∧ (∃ c ∈ task0.crew, ∀ e ∈ task0.ended, e.1 ≠ c) ∧
    (∀ commit, (retS [(0, share0)] commit).task 0 ⟨0, 0⟩ = some { task0 with ended := [(0, share0)] } ∧
      ((retS [(0, share0)] commit).ctx 0).launch = some launch0 ∧
      (∀ c ∈ task0.crew, ∃ e ∈ ({ task0 with ended := [(0, share0)] } : Task).ended, e.1 = c) ∧ ((retS [(0, share0)] commit).ctx 0).st = .running ∧
      (((retS [(0, share0)] commit).commitTask 0 { task0 with ended := [(0, share0)] }).stage 0 0).isSome = true) := by
  refine ⟨rfl, ⟨0, by decide, by decide⟩, fun commit => ⟨rfl, rfl, by decide, rfl, ?_⟩⟩
  cases commit <;> rfl

/-- ChannelEnds: a consumer end with a landing inside its slot; a producer end whose freed total an advertisement raises, and does not. -/
def consumer : Ring := { ring0 with orole := 2, chan := true, slotb := 256, chEnd := { peer := 1 } }
def ceS (r : Ring) : State := mk .device id (fun x => { x with rings := [(5, some r)] })
theorem witness_channel_ends :
    (ceS consumer).consumerEnd 0 5 = some consumer ∧ (ceS consumer).consumerEnd 0 6 = none ∧
    answers ((ceS consumer).engWrite { newCmd [] none 0 none 0 with uid := 1 } 0 (consumer.slotAddr 0) [(1, false)]) = true ∧
    (ceS chanRing).ring 0 5 = some chanRing ∧ chanRing.win.joined = true ∧ ((1 : BitVec 32) - BitVec.ofNat 32 chanRing.win.freed) ≠ 0 ∧
    ((1 : BitVec 32) - BitVec.ofNat 32 chanRing.win.freed).toNat < 2 ^ 31 ∧ ((0 : BitVec 32) - BitVec.ofNat 32 chanRing.win.freed) = 0 := by
  refine ⟨rfl, rfl, by decide, rfl, rfl, by decide, by decide, by decide⟩

/-- LaunchFrontEnd: no packet, a KILL, a PREEMPT, a RESUME with and without a reserved bit; a pre-emption that is over and one that is not. -/
def pkS (kind low : Nat) (st : CtxState) : State :=
  { mk .device id (fun x => { x with st := st, lrbase := 0x180000, lrsize := 1024, lrtail := 64 }) with ms := { mem := [(0x180000, BitVec.ofNat 8 low), (0x180007, BitVec.ofNat 8 kind)].filter (fun e => e.2 != 0) } }
theorem witness_packets :
    (dv id).packetAt 0 = none ∧ (pkS 6 0 .running).packetAt 0 = some (6 * 2 ^ 56) ∧ (pkS 4 0 .running).packetAt 0 = some (4 * 2 ^ 56) ∧
    (pkS 5 0 .saved).packetAt 0 = some (5 * 2 ^ 56) ∧ (pkS 5 1 .saved).packetAt 0 = some (5 * 2 ^ 56 + 1) ∧ slice (5 * 2 ^ 56 + 1) 63 56 = 5 ∧
    (∀ c ∈ ((pkS 5 0 .saved).ctx 0).coreList, (pkS 5 0 .saved).resumable 0 c = true) ∧
    (∃ c, (pkS 1 0 .empty).packetAt 0 = some (1 * 2 ^ 56) ∧ (pkS 1 0 .empty).loadLtt 0 (1 * 2 ^ 56) = .error c) ∧
    (∃ c, (pkS 2 0 .loaded).declareStage 0 (2 * 2 ^ 56) = .error c) ∧ (∃ c, (pkS 3 0 .running).launchPacket 0 (3 * 2 ^ 56) = .error c) ∧
    (∀ s, s = mk .device (fun c => { c with run := .saved }) (fun x => { x with preempting := true }) → (s.ctx 0).preempting = true ∧ s.preemptDone 0 = true) ∧
    (mk .device (fun c => { c with wait := some ⟨.tend, 4, false⟩ }) (fun x => { x with preempting := true })).preemptDone 0 = false := by
  refine ⟨rfl, by decide, by decide, by decide, by decide, by decide, by decide, ⟨_, by decide, rfl⟩, ⟨_, rfl⟩, ⟨_, rfl⟩, ?_, by decide⟩
  rintro s rfl; exact ⟨rfl, by decide⟩

/-- ContextRegisterWrites: before bring-up and after; empty and not; values on both sides of each limit. -/
theorem witness_register_writes :
    ({ dv id with mod := { (dv id).mod with ready := false } } : State).mod.ready = false ∧ (dv id).mod.ready = true ∧ ((dv id).ctx 1).st = .empty ∧
    ((dv id).ctx 0).st ≠ .empty ∧ (1024 : BitVec 64).toNat % 16 = 0 ∧ (1023 : BitVec 64).toNat < 1024 ∧ ((pkS 0 0 .loaded).ctx 0).lrsize = 1024 ∧
    ((pkS 0 0 .loaded).modCtx 0 (fun c => { c with lrtail := 1008 }) |>.ctx 0).ringOutside = false ∧
    bitAt (8 : BitVec 64).toNat 3 = true ∧ ((dv id).modCtx 0 (fun c => { c with stop := true }) |>.ctx 0).stop = true ∧
    (4096 : BitVec 64).toNat % 64 = 0 ∧ ((0x58 : BitVec 12)).toNat = 0x40 + 8 * 3 := by
  refine ⟨rfl, rfl, rfl, by decide, by decide, by decide, rfl, by decide, by decide, rfl, by decide, by decide⟩

/-- RecordsToTheOwner: a ring with room, one that is full, and one of size 0; sixteen records held. -/
theorem witness_records :
    (∀ s, s = mk .device id (fun x => { x with evbase := 0x180000, evsize := 4096 }) → (s.ctx 0).evHeld = [] ∧ (s.ctx 0).evsize ≠ 0 ∧
      ((s.ctx 0).evtail + 64) % (s.ctx 0).evsize ≠ (s.ctx 0).evhead ∧ (s.ctx 0).evbase + (s.ctx 0).evsize < 2 ^ 52) ∧
    (dv id).Inv ∧ ((dv id).ctx 0).evsize = 0 ∧ (({ cx with evsize := 4096, evhead := 64 } : Ctx).evtail + 64) % 4096 = 64 ∧
    16 ≤ ({ cx with evHeld := List.replicate 16 ⟨8, 0, 0, 0, 0⟩ } : Ctx).evHeld.length := by
  refine ⟨?_, ⟨rfl, ?_⟩, rfl, rfl, by decide⟩
  · rintro s rfl; exact ⟨rfl, by decide, by decide, by decide⟩
  · intro n sec h; cases h

/-- Curtain: a context in LOADED with the generation; the root in CURTAIN, before and at its timeout; a W4 that is not the root; all arrived or not. -/
def cuS (f : Launch → Launch) : State := mk .device id (fun x => { x with st := .curtain, launch := some (f launch0) })
theorem witness_curtain :
    ((pkS 0 0 .loaded).ctx 0).st = .loaded ∧ ((pkS 0 0 .loaded).ctx 0).gen = (1 : BitVec 32).toNat ∧ ((cuS id).ctx 0).launch = some launch0 ∧
    (cuS id).isRoot launch0 = true ∧ (cuS id).isRoot { launch0 with w4s := [1, 0] } = false ∧
    (∃ e ∈ launch0.w4s, launch0.arrived.contains (w4Coord e) = false) ∧
    (∀ e ∈ ({ launch0 with arrived := [0] } : Launch).w4s, ({ launch0 with arrived := [0] } : Launch).arrived.contains (w4Coord e) = true) ∧
    ((cuS id).ctx 0).joinFault [] = false ∧ ({ cx with rings := [(5, some chanRing)] } : Ctx).joinFault [] = true := by
  refine ⟨rfl, rfl, rfl, rfl, rfl, ⟨0, by decide, by decide⟩, ?_, rfl, rfl⟩
  intro e he
  rw [List.mem_singleton.mp he]; decide
/-- The curtain's timeout: a launch of 1 ms that began at 0, a cycle before and at its end. -/
theorem witness_curtain_timeout :
    launch0.began + launch0.cto * 3300000 ≤ 3300000 ∧ 3299999 < launch0.began + launch0.cto * 3300000 := by
  simp [launch0]

/-- TableDebugAndLoss: commands that write, remove and resume, and a malformed one; cores that are named; a launch with a W4 that is lost. -/
theorem witness_table_and_loss :
    lttCommand (2 ^ 12) = some 12 ∧ lttCommand (2 ^ 13 + 5) = some 13 ∧ lttCommand (2 ^ 16) = some 16 ∧ lttCommand (2 ^ 12 + 2 ^ 13) = none ∧
    ((dv id).lttWrite 0 0).isSome = false ∧ bitAt (1 : BitVec 64).toNat 0 = true ∧ bitAt (2 : BitVec 64).toNat 1 = true ∧ (cx.named 1) = [0] ∧
    ((mk .device (fun c => { c with wait := some ⟨.probe 64, 4, false⟩ }) (fun x => { x with probes := [0] })).ctx 0).probes = [0] ∧
    (∀ s, s = mk .device id (fun x => { x with launch := some { launch0 with w4s := [0, 1] } }) → (s.ctx 0).launch = some { launch0 with w4s := [0, 1] } ∧
      (({ launch0 with w4s := [0, 1] } : Launch).w4s.any (fun e => w4Coord e == (1 : BitVec 24).toNat)) = true ∧ (s.ctx 0).st = .running ∧ s.holder 0 = some 0) := by
  refine ⟨by decide, by decide, by decide, by decide, by decide, by decide, by decide, rfl, rfl, ?_⟩
  rintro s rfl; exact ⟨rfl, by decide, rfl, rfl⟩

/-- LinksAndModule: a port that is up, a flit whose CRC holds; HBM inside and beyond; a core that is due for the lower clock, one that is not. -/
theorem witness_links_and_module :
    ((dv id).port 0).down = false ∧ (List.replicate 256 (0 : BitVec 8)).length = 256 ∧ isHbm (0x180000 + 1) = true ∧ isHbm (0x8000000000 + 1) = false ∧
    (∀ x < 16, ((dv id).ctx x).launch = none) ∧ ((dv id).wrec 0).slow = false ∧ ({ st := .derated, slow := true } : Wrec).slow = true ∧
    ((dv id).wrec 0).st.enabled = true ∧ (dv id).mod.lrep.getD 7 0 = 4 ∧ (dv id).mod.lrep.length = 8 ∧
    ((dv (fun c => { c with wait := some ⟨.tnext 1, 4, false⟩ })).core 0).idle = true := by
  refine ⟨rfl, by decide, by decide, by decide, by decide, by decide, by decide, by decide, rfl, rfl, by decide⟩


/-! ### States for the clauses about words behind checked operations, remote stores, links and the module -/

/-- A core with an entry of this operation in its check queue. -/
def behind (op : CheckedOp) : State := sq (fun c => { c with checkQ := [entry op] })
/-- LoadsReadMemory, StoresWriteMemory, Timelines, Fences, StagingBuffers: a word behind a set operation that cannot fail. The "may fail" premises:
an ARRIVE can, a JOIN cannot. CLOADs under way and not; check queues that are full. -/
theorem witness_behind_checks :
    (behind (.set 0 .join 0)).SeqIssues 0 [1, 2] ∧ ((behind (.set 0 .join 0)).core 0).checkQ ≠ [] ∧ ((behind (.set 0 .join 0)).core 0).mayFail = false ∧
    ((behind (.set 0 .arrive 0)).core 0).mayFail = true ∧ ((behind (.set 0 .join 0)).core 0).cloading 0 = false ∧
    ((behind (.cload 0 (physPlace 0))).core 0).cloading 0 = true ∧ (CheckedOp.set 0 .join 0).access = false ∧ (CheckedOp.fence).access = true ∧
    ((sq (fun c => { c with checkQ := List.replicate 8 (entry (.set 0 .join 0)) })).core 0).checked.length = 8 ∧ ((sq id).core 0).storeCount = 0 ∧
    ((behind (.store (physPlace 0) [1] 0 0)).core 0).storeCount ≠ 0 :=
  ⟨⟨rfl, rfl, by decide⟩, by decide, rfl, rfl, rfl, rfl, rfl, rfl, rfl, rfl, by decide⟩

/-- LoadsReadMemory, StoresWriteMemory under PFX.I: LD s1, s2, 8 and ST s1, s2, 8 at the PC plus 4. -/
theorem witness_prefixed_accesses :
    (∃ s1, ({ sq id with ms := { mem := [(sramBase + 4, 8), (sramBase + 6, 0x22), (sramBase + 7, 0x4C)] } } : State).fetch 0 4 4 = .bytes 0x4C220008 s1 ∧
      s1.SeqIssues 0 [1, 2] ∧ (s1.ctx (s1.ctxOf 0)).place false 8 = some ⟨sramBase + 8, false, 0, 0, false⟩ ∧ (s1.core 0).checkQ = []) ∧
    decodeSeq 0x4C220008 = some (.ldD 1 2 8) ∧ decodeSeq 0x6C220008 = some (.stD 1 2 8) :=
  ⟨⟨_, rfl, ⟨rfl, rfl, by decide⟩, rfl, rfl⟩, by decide, by decide⟩

/-- OrdinaryReadsLeaveMemory, OrdinaryStoresWriteTheirBytes: a place in one line, in the L2 with room and outside it. -/
theorem witness_one_line : (sq id).ms.oneLine ⟨0x100000, true, 0, 0, false⟩ 8 ∧ (sq id).ms.oneLine ⟨sramBase + 56, false, 0, 0, false⟩ 8 :=
  ⟨⟨by decide, fun _ => .inr (by decide)⟩, ⟨by decide, fun h => by cases h⟩⟩

/-- A store of the sequencer to a line of the W4 with coordinate 1, sent and not, and a local one. -/
def farStore (sent placed : Bool) : PendingStore := ⟨[2 ^ 53], true, false, 0, 0, 1, [(⟨2 ^ 53, false, 0, 0, false⟩, [7])], sent, placed⟩
def nearStore (placed : Bool) : PendingStore := ⟨[sramBase], false, true, 0, 0, 2, [], false, placed⟩
/-- PendingStoresComplete, StoresArePending, RemoteStoresGoOneByOne: each clause's list. -/
theorem witness_remote_stores :
    isRemote (2 ^ 53) = true ∧ isRemote sramBase = false ∧
    (dv (fun c => { c with stores := [farStore true false, nearStore true, farStore false false] })).storesOf (.seq 0) =
      [farStore true false] ++ nearStore true :: [farStore false false] ∧
    (dv (fun c => { c with stores := [nearStore true, farStore true false, nearStore false] })).storesOf (.seq 0) =
      [nearStore true] ++ farStore true false :: [nearStore false] ∧
    (∀ o ∈ [nearStore true], o.remote = false ∨ o.sent = false) ∧ (∀ o ∈ [farStore true false], o.placed = false) ∧
    (∀ o ∈ [nearStore true, farStore true true], o.placed = true) ∧ (dv id).repairing (nearStore false) = false := by
  refine ⟨by decide, by decide, rfl, rfl, ?_, ?_, ?_, by decide⟩ <;> simp [farStore, nearStore]

/-- CheckedResultsReachTheirRegister: an entry with its awaited register; one that held the sequencer; a core outside the handler. -/
theorem witness_checked_results :
    ((dv (fun c => { c with outst := [⟨0, 3, none, false⟩], checkQ := [entry (.sem 0 1 .add 2 0)] })).core 0).outst.find? (fun o => o.id == 0) =
      some ⟨0, 3, none, false⟩ ∧ (entry (.sem 0 1 .add 2 0)).dst = some 3 ∧ ({ entry (.sem 0 1 .wait 2 0) with holds := true } : CheckEntry).holds = true ∧
    ((dv id).core 0).handler = false := ⟨rfl, rfl, rfl, rfl⟩

/-- AccessesFollowTheChecks: a load, a store, a CLOAD and a checked operation at the head of the queue. -/
theorem witness_accesses : ∀ op ∈ ([.load (physPlace 0) 8 true, .store (physPlace 0) [1] 0 0, .cload 0 (physPlace 0), .acquire [1], .set 0 .join 0] : List CheckedOp),
    ((behind op).core 0).checkQ = entry op :: [] := by decide

/-- RingEffects: a slot that an aborted task gave back. Timelines and WaitsAndStalls: waits that are released, and not. CommandPush: chained buffers. -/
theorem witness_rings_and_pushes :
    (rg (.seq 0) (fun r => { r with ret := [0] })).ring 0 5 = some { ring0 with ret := [0] } ∧
    slice (3 * 2 ^ 60 + 2 ^ 55) 63 60 = 3 ∧ bitAt (3 * 2 ^ 60 + 2 ^ 55) 55 = true ∧ slice (3 * 2 ^ 60 + 2 ^ 55) 59 57 ≤ 1 ∧ (0 : BitVec 4) ≠ 15 ∧
    ((pushS 2 (2 ^ 55) 0).core 0).bufferPois 1 = false ∧ (pushS 2 (2 ^ 55) 0).roomFor 0 (.core 0 2) = true ∧
    ((pushS 2 (2 ^ 55) 0).core 0).cloading 0 = false ∧ ((pushS 2 (2 ^ 55) 0).core 0).mayFail = false ∧
    ((dv (fun c => { c with wait := some ⟨.sem 0 1 4, 4, false⟩ })).core 0).wait = some ⟨.sem 0 1 4, 4, false⟩ := by
  refine ⟨rfl, by decide, by decide, by decide, by decide, rfl, rfl, rfl, rfl, rfl⟩

/-- ProbeAndTest: an entry as it is shown, and a translated address. -/
theorem witness_shown : ((sq id).shownEntry ((sq id).ctx 0) 64).isSome = true ∧ ((sq id).ctx ((sq id).ctxOf 0)).translated 64 = true ∧
    ((sq id).ctx ((sq id).ctxOf 0)).translated 0x200000 = false := ⟨rfl, rfl, rfl⟩

/-- StrandLoadData: one load of a register, of lane 0. StrandLoads: a store of the cluster that is still to fill the line. -/
def pend0 : VecLoad := ⟨1, 5, 0, 3, [(3, 9, false)]⟩
def sfStore : PendingStore := ⟨[sramBase], false, true, 5, 0, 1, [], false, true⟩
theorem witness_strand_data :
    ((vs .device [mem 0 vshReset .run] (fun c => { c with vec := { c.vec with pend := [pend0] } })).core 0).vec.pend.filter
      (fun l => l.strand == 5 && l.rank == 0 && l.reg == 3) = [pend0] ∧
    ({ w1 0x0081 with co := { (w1 0x0081).co with vec := { (w1 0x0081).co.vec with stores := [(0, [sfStore])] } } } : VCx).filling [sramBase] = true ∧
    (w1 0x0081).filling [sramBase] = false := ⟨rfl, rfl, rfl⟩

/-- SyncBundleJoin, StrandEvents: a counter that pauses at a late load; a released wait of a synced bundle; lines of a joint wait that are full. -/
theorem witness_joint_waits :
    ((vs .device [mem 0 vshReset (.join 0)] (fun c => { c with vec := { c.vec with pend := [pend0], vcc := 16, syncLoads := [⟨5, 1, 16⟩] } })).core 0).vec.vccPaused = true ∧
    ((vs .device [mem 0 vshReset (.join 0)] id).core 0).vec.vccPaused = false ∧
    (str [mem 0 vshReset (.sem 0 1 true true 16), mem 1 vshReset (.join 0)]).members[0]? = some (mem 0 vshReset (.sem 0 1 true true 16)) ∧
    ({ vs .device [mem 0 vshReset (.full [sramBase] 3 true)] id with ms := { full := [(sramBase, true)] } } : State).linesReady [sramBase] (some 3) = true ∧
    (str [mem 0 vshReset (.full [sramBase] 3 true)]).runs = true := ⟨by decide, by decide, rfl, by decide, rfl⟩

/-- CommandStages: an engine that is free and one that another context uses; a body that can be read, and one that cannot; a mover that has landed. -/
def douS : State := (es (.dou 0 7) (ek img0 0)).setQueue (.dou 1 7) { cmds := [ek img0 0], last := 1 }
theorem witness_command_stages :
    (es (.core 0 1) (ek img0 0)).engineFree (.core 0 1) = true ∧ (es (.dou 0 7) (ek img0 0)).engineFree (.dou 0 7) = true ∧ douS.engineFree (.dou 0 7) = false ∧
    (es (.dou 0 7) (ek img0 0)).InHand (.dou 0 7) ∧
    answers (beginRun (.core 0 1) { ek img0 0 with stage := 2 } (es (.core 0 1) (ek img0 0))) = true ∧
    (match beginRun (.core 0 1) { ek img0 0 with img := [BitVec.ofNat 64 (2 ^ 44 + 16)] } (es (.core 0 1) (ek img0 0)) with | .error _ => true | .ok _ => false) = true := by
  refine ⟨rfl, by decide, by decide, ?_, by decide, by decide⟩
  rintro x d h; cases h

/-- RowWords: a source row with an uncorrectable error, and one without. -/
theorem witness_row_errors :
    (∀ rows, rows = (es (.dou 0 0) (ek imgRows 0)).rowsOf (ek imgRows 0) 0 [0x100000] 0x100400 0 →
      inArray false (douStack (.dou 0 0)) rows = true ∧ ({ rowErr := NatSet.mark [] 1024 true } : MemSys).badRows rows.1 = [0x100000] ∧
      (es (.dou 0 0) (ek imgRows 0)).ms.badRows rows.1 = []) := by
  rintro rows rfl; decide

/-- CarouselEvents: the fields of a message at their limits; a step that awaits a message. -/
def msg0 : RingMsg := ringMsgOf (List.replicate 16 0) []
theorem witness_messages :
    255 < 256 ∧ msg0.bump < 16 ∧ msg0.chunk = 0 ∧ ((mk .device id id).ctx 0).st ≠ .empty ∧ ((mk .device id id).ctx 0).st ≠ .saved ∧
    ((mk .device id id).ctx 0).acting 0 msg0.chunk = none ∧ ((mk .device id (fun x => { x with st := .empty })).ctx 0).st = .empty := by decide

/-- LaunchPackets: a KILL behind a PREEMPT that is being carried out, and none. CurtainMessages: a report of a fault after the rise. -/
def killS : State :=
  { mk .device id (fun x => { x with preempting := true, lrbase := 0x180000, lrsize := 1024, lrtail := 128 }) with
    ms := { mem := [(0x180007, 4), (0x180047, 6)] } }
theorem witness_kill_behind : killS.killBehind 0 = true ∧ killS.packetAt 0 = none ∧ (dv id).killBehind 0 = false ∧
    ((mk .device id (fun x => { x with launch := some launch0 })).ctx 0).launch = some launch0 := by decide

/-- RingmasterRounds: a task that has reported and is to be retired; none. -/
theorem witness_retire_due : (retS [(0, share0)] false).retireDue 0 = true ∧ (rmS id id id).retireDue 0 = false := by decide

/-- FlitsAndRoutes: a port that is up and one that is down; traffic for this W4, and for one of another X. -/
theorem witness_routes (f : Nat) :
    (∃ s : State, s.routeTo f = none) ∧ (∃ (s : State) (o : Nat), s.routeTo f = some o) := by
  refine ⟨⟨{ State.reset with mod := { State.reset.mod with self := f } }, by simp [State.routeTo, route, axisWay]⟩, ?_⟩
  -- the X coordinate of this W4 differs from the destination's
  have h : ∃ a, w4Axis a 0 ≠ w4Axis f 0 := by
    by_cases e : w4Axis f 0 = 0
    · exact ⟨2 ^ 16, by rw [e]; decide⟩
    · exact ⟨0, fun g => e (by rw [← g]; decide)⟩
  obtain ⟨a, h⟩ := h
  exact ⟨{ State.reset with mod := { State.reset.mod with self := a } }, by simp [State.routeTo, route, axisWay, h]⟩

/-- The CRC of a flit of zeros holds; its neighbour, and one of another length, fail. -/
theorem witness_flits : flitOk (List.replicate 255 0) = false ∧ ((dv id).port 3).rejects = false ∧ ((dv id).port 3).fails < 15 ∧
    ({ dv id with mod := { (dv id).mod with ports := [(3, { fails := 15 })] } } : State).port 3 = { fails := 15 } ∧ (3 : Nat) < 6 ∧ 6 ≤ 7 := by
  refine ⟨by decide, rfl, by decide, rfl, by decide, by decide⟩

/-- ModuleEvents, WearSamples: bring-up that succeeds and fails; a stack with its last repair; a sample of a core that changes no state. -/
def bring : Bringup := { fwOk := true, idOk := true, enabled := [0], down := [] }
def reading0 : WearReading := { core := 0, dt := 1000, duty := 0, volt := 750, temp := 85000, rho := 0, drift := 0, open_ := false }
theorem witness_module :
    bring.cfgOk = true ∧ bring.newerOk = true ∧ ({ bring with fwOk := false } : Bringup).fwOk = false ∧
    ({ bring with newerOk := false, olderOk := false } : Bringup).olderOk = false ∧
    ({ dv id with mod := { (dv id).mod with lrep := [1, 4, 4, 4, 4, 4, 4, 4] } } : State).mod.lrep.getD 0 0 = 1 ∧ (dv id).ChannelsRun ∧
    ((dv id).wrec reading0.core).st.enabled = true ∧ ((dv id).wrec 0).next = ((dv id).wrec 0).st ∧ ((dv id).core 0).used = [] ∧ (dv id).holder 0 = some 0 ∧
    ((dv (fun c => { c with clkBusy := true })).core 0).clkBusy = true := by
  refine ⟨rfl, rfl, rfl, rfl, rfl, rfl, by decide, by decide, rfl, rfl, rfl⟩

/-! ### States for the clauses about places in the order, lane repairs, cycles and joint words -/

/-- The channel of the line at 0x100000 pauses. -/
def pausedMs : MemSys := { paused := [(0, Config.channelOf 16384)] }
/-- An access there waits for the repair, and so do a pending store and the write-back of a dirty sector there; an access to stage SRAM does not. -/
theorem witness_paused : pausedMs.pausedIn (physPlace 0x100000) 1 = true ∧ pausedMs.pausedIn (physPlace sramBase) 128 = false ∧
    ({ pausedMs with l2 := [(32768, some ⟨List.replicate 32 1, true, 0, 0, 0⟩)] } : MemSys).heldDirtyIn [(0x100000, 64)] = true ∧
    (sq id).ms.heldDirtyIn [(0x100000, 64)] = false ∧ (sq id).ChannelsRun ∧
    ({ dv id with ms := pausedMs } : State).repairing { nearStore false with writes := [(physPlace 0x100000, [1])] } = true := by
  have p : pausedMs.pausedIn (physPlace 0x100000) 1 = true := by
    have h : pausedMs.pausedAt { physPlace 0x100000 with key := 0x100000 } = true := by
      simp [MemSys.pausedAt, MemSys.channelPaused, pausedMs, isHbm, physPlace]
    simpa [MemSys.pausedIn, upFrom, physPlace] using h
  refine ⟨p, by decide, ?_, by decide, rfl, by simpa [State.repairing] using p⟩
  simp [MemSys.heldDirtyIn, pausedMs, inRanges, MemSys.heldDirty, MemSys.channelPaused, isHbm, Tbl.get, Tbl.find]

/-- LoadsReadMemory, StagingBuffers, StoresArePending, AddressChecksOfLoadsAndStores: a load that reads at issue, one behind a store that waits for its
place, one that the core's pending store covers; a sequencer with eight stores. -/
def behindStore : State := sq (fun c => { c with stores := [farStore true false] })
theorem witness_reads_now : (sq id).readsNow 0 (physPlace sramBase) 8 ∧ ¬ behindStore.readsNow 0 (physPlace sramBase) 8 ∧
    (sq (fun c => { c with stores := [{ nearStore false with writes := [(physPlace sramBase, List.replicate 8 1)] }] })).readsNow 0 (physPlace sramBase) 8 ∧
    (behindStore.core 0).checkClear = false ∧ ((sq id).core 0).checkClear = true ∧
    (sq (fun c => { c with stores := List.replicate 8 (nearStore true) }) |>.core 0).storeCount = 8 := by
  refine ⟨.inl ⟨rfl, by decide, by decide⟩, ?_, .inr ⟨rfl, by decide⟩, by decide, by decide, by decide⟩
  rintro (⟨-, h, -⟩ | ⟨-, h⟩)
  · exact absurd (h _ (List.mem_singleton.mpr rfl)) (by decide)
  · exact absurd h (by decide)

/-- SemaphoreEffects: a semaphore operation at the head while a store has no place. -/
theorem witness_unplaced : ∃ o ∈ ((dv (fun c => { c with stores := [nearStore false], checkQ := [entry (.sem 0 1 .add 2 0)] })).core 0).stores, o.placed = false :=
  ⟨_, List.mem_singleton.mpr rfl, rfl⟩

/-- OrdinaryStoresWriteTheirBytes: no pending store meets the bytes. -/
theorem witness_no_meeting : ∀ c o k, o ∈ (dv id).storesOf (.seq c) ++ (dv id).storesOf (.cluster c k) → o.meets [(sramBase, 1)] = false := by
  intro c o k h
  have h1 : ((dv id).core c).stores = [] := by
    by_cases e : c = 0
    · subst e; rfl
    · simp [dv, mk, State.core, Tbl.get, Tbl.find, Ne.symm e, Core.reset]
  have h2 : ((dv id).core c).vec.stores = [] := by
    by_cases e : c = 0
    · subst e; rfl
    · simp [dv, mk, State.core, Tbl.get, Tbl.find, Ne.symm e, Core.reset]
  simp [State.storesOf, h1, h2, Tbl.get] at h

/-- SetEffects: a set whose second member arrives last, with a waiter on the phase that ends and one on the next: the phase steps and the first goes on. -/
theorem test_set_completes : ∃ t : State, t = (mk .device (fun c => { c with wait := some ⟨.set 3 0, 4, false⟩ }) id).putSet 0 3
      { members := [(.seq 0, true), (.strand 0 5, true)], waiters := [(0, 0), (1, 1)] } ∧
    (t.mset 0 3).phase = 1 ∧ (t.mset 0 3).members = [(.seq 0, false), (.strand 0 5, false)] ∧ (t.mset 0 3).waiters = [(1, 1)] ∧
    (t.core 0).wait = some ⟨.set 3 0, 4, true⟩ := ⟨_, rfl, by decide, by decide, by decide, by decide⟩

/-- Acquire: two pending writes of one command to one byte stand in their order, one of another stays. -/
def twoWrites : MemSys := { pendW := [⟨physPlace sramBase, [1], 7, false, false, true, 0⟩, ⟨physPlace sramBase, [2], 7, false, false, true, 0⟩,
  ⟨physPlace sramBase, [3], 8, false, false, true, 0⟩] }
theorem test_acquire_in_order : (twoWrites.acquire [7]).peek (physPlace sramBase) = 2 ∧ (twoWrites.acquire [7]).pendW.map (·.uid) = [8] ∧
    (∀ w ∈ twoWrites.pendW.filter (fun w => [7].contains w.uid), w.dram = false ∧ codecMethod w.place.comp = false) := by decide

/-- RingFrontiersSettle: three claimed slots of which the first two are filled; F stops at the third. -/
theorem test_frontier : ∃ v : Ring, v = ({ ring0 with logsl := 2, c := 3, filled := NatSet.mark (NatSet.mark [] 0 true) 1 true } : Ring).settle 4 ∧
    v.f = 2 ∧ v.r = 0 ∧ ((3 : BitVec 32) - 0).toNat + ((0 : BitVec 32) - 0).toNat ≤ 4 := ⟨_, rfl, by decide, by decide, by decide⟩

/-- StepRunsTheDecodedInstruction, VectorCycles: strands alone in their clusters, and two in one; a cycle in which none is ready. -/
theorem witness_cycles :
    (w1 vshReset).soleIn = true ∧
    ({ w1 vshReset with co := { (w1 vshReset).co with vec := { (w1 vshReset).co.vec with
      strands := [str [mem 0 vshReset .run], { str [mem 0 vshReset .run] with uid := 6 }] } } } : VCx).soleIn = false ∧
    ((dv id).core 0).membersIn [0, 1, 2, 3] = [] ∧ ((dv id).core 0).vec.strands = [] ∧
    (⟨[(5, 0)], []⟩ : Ready).joins.contains (str [mem 0 vshReset .run]).uid = false ∧ (⟨[], [5]⟩ : Ready).joins.contains 5 = true ∧
    (str [mem 0 vshReset .run]).members[0]? = some (mem 0 vshReset .run) ∧ 256 ≤ ({ str [mem 0 vshReset .run] with starve := 256 } : Strand).starve := by
  refine ⟨by decide, by decide, by decide, rfl, by decide, by decide, rfl, by decide⟩

/-- VectorCycles: under GTO the strand of the previous choice, or else the oldest; under RR the next slot; one that yielded only when alone (10 R220). -/
theorem test_choice :
    ((({ last := [(0, 9)] } : VecUnit).choose 0 [⟨5, 1, 0, 0⟩, ⟨6, 2, 0, 1⟩]).map (·.uid)) = some 6 ∧
    ((({ last := [(0, 4)], yielded := NatSet.mark [] 0 true } : VecUnit).choose 0 [⟨5, 1, 0, 0⟩, ⟨6, 2, 0, 1⟩]).map (·.uid)) = some 6 ∧
    ((({ last := [(0, 9)], rr := true } : VecUnit).choose 0 [⟨5, 1, 0, 0⟩, ⟨6, 2, 0, 1⟩, ⟨7, 3, 0, 3⟩]).map (·.uid)) = some 7 ∧
    ((({} : VecUnit).choose 0 [⟨5, 1, 0, 0⟩, ⟨6, 2, 0, 1⟩]).map (·.uid)) = some 5 := by decide

/-- RoundingOnce: 1.0 in f32; 2^128, which overflows; the tie between the two smallest steps above 1, which goes to the even one (03 R62, R69). -/
theorem witness_rounding : (FFmt.f32, (⟨2 ^ 24 - 1, 104, 0x7F7FFFFF, 0x7F800000, 0x7FC00000⟩ : FormatTop)) ∈ topTable ∧
    RoundsTo .rne false 0 1 0 (-23) (2 ^ 23) ∧ RoundsTo .rne false 0 1 128 105 (2 ^ 23) ∧
    (2 ^ 24 - 1) * 2 ^ ((104 : Int) - 105).toNat < 2 ^ 23 * 2 ^ ((105 : Int) - 104).toNat ∧
    (XVal.finish .f32 .rne true 0 (.ex ⟨false, 1, 128, false⟩)).1 = 0x7F800000 ∧ (XVal.finish .f32 .rtz true 0 (.ex ⟨false, 1, 128, false⟩)).1 = 0x7F7FFFFF ∧
    (XVal.finish .f32 .rne true 0 (.ex ⟨false, 2 ^ 24 + 1, -24, false⟩)).1 = 0x3F800000 := by
  refine ⟨List.mem_cons_of_mem _ (List.mem_cons_self ..), by unfold RoundsTo; decide, by unfold RoundsTo; decide, by decide, by decide, by decide, by decide⟩

/-- JointWords: the word of two members, of one shape, and of two. -/
def w2 (a b : BitVec 24) : VCx := ⟨0, 0, 16, true, true, (vs .device [mem 0 a (.join 0), mem 1 b (.join 0)] id).core 0, str [mem 0 a (.join 0), mem 1 b (.join 0)],
  mem 0 a (.join 0)⟩
theorem witness_joint_reductions :
    (w2 vshReset vshReset).joint = true ∧ 1 < (w2 vshReset vshReset).st.members.length ∧ (∃ g, (w2 vshReset vshReset).combine false = some g) ∧ (w2 vshReset vshReset).rnd ≠ 4 ∧
    (∀ m ∈ (w2 vshReset vshReset).st.members, m.vsh.toNat % 16 = (w2 vshReset vshReset).fmt ∧ slice m.vsh.toNat 6 4 = (w2 vshReset vshReset).rnd) ∧
    (∃ m ∈ (w2 vshReset 0x1F82).st.members, m.vsh.toNat % 16 ≠ (w2 vshReset 0x1F82).fmt ∨ slice m.vsh.toNat 6 4 ≠ (w2 vshReset 0x1F82).rnd) ∧
    (∃ r, (w2 vshReset vshReset).reg (.win 3) 1 = .ok r) ∧ (w2 vshReset vshReset).clustersDiffer := by
  refine ⟨rfl, by decide, ⟨_, rfl⟩, by decide, by decide, ⟨mem 1 0x1F82 (.join 0), by decide, by decide⟩, ⟨_, rfl⟩, fun _ => by decide⟩

/-- StrandLoads, StrandEmptiesItsLine, StrandWait: a member behind a store of its cluster that has no place. -/
def behindVs : State := vs (.cluster 0 5 0) [mem 0 0x0081 .run] (fun c => { c with vec := { c.vec with stores := [(0, [{ sfStore with placed := false }])] } })
theorem witness_strand_behind : (w1 0x0081).behind behindVs [acc0] = true ∧ (w1 0x0081).behind (vs (.cluster 0 5 0) [mem 0 0x0081 .run] id) [acc0] = false ∧
    behindVs.unplaced (w1 0x0081).agent = true ∧ (vs (.cluster 0 5 0) [mem 0 0x0081 .run] id).unplaced (w1 0x0081).agent = false ∧
    ((w1 0x0081).m.xr 0 + 128 * (0 : BitVec 6).signExtend 64 + BitVec.ofNat 64 (128 * (w1 0x0081).rank)).toNat = 0 := by decide

/-- StrandCreation: a command that resumes with what its first strand had. -/
def kept0 : StrandRegs := ⟨[(129, 7)], [], [(0, 9)], [([(3, 5)], [], 0x1F82)]⟩
theorem test_strand_resumes : ({ vk with kept := some kept0 } : Cmd).kept = some kept0 ∧ ∃ t, t = ({} : VecUnit).create { vk with kept := some kept0 } ∧
    t.pred 1 1 = 7 ∧ Tbl.get 0 t.sr 0 = 9 ∧ t.members.map (fun m => (m.xr 3, m.vsh)) = [(5, 0x1F82)] ∧ t.members[0]?.isSome = true :=
  ⟨rfl, _, rfl, by decide, by decide, by decide, by decide⟩

/-- SyncBundleJoin: a strand alone on its core issues its bundle of two VNOPs; a bundle with an unassigned word traps before any word. -/
theorem witness_bundle_issues :
    (joinS.core 0).vec.strands = [str [mem 0 vshReset (.join 0), mem 1 vshReset (.join 0)]] ∧ (joinS.tryBundle 0 5).isSome = true ∧
    (match ({ joinS with ms := { mem := [(sramBase + 3, 0xFD), (sramBase + 7, 0x93), (sramBase + 11, 0xFD), (sramBase + 15, 0xFD)] } } : State).unitOf 0 5 0 with
      | .ok (un, s1) => un.instr 1 == none && (match s1.runMembers 0 5 un 0 [0, 1] with | .error (r, e) => r == 1 && e == .illegal | .ok _ => false)
      | .error _ => false) = true := by
  refine ⟨rfl, by decide, by decide⟩

/-! ### States for the clauses about engines, retirements, packets, curtains and the module -/

/-- EngineReads, EngineWrites: 8 bytes of one line, whose place is in the near slice; a flip region that another task has marked. -/
def flipped : Ctx := { cx with
  ltt := [(1, some { plainEntry 0x100000 with size := 20, pbase := 0x100000, flip := 1 })], flips := [(1, some ⟨0x200000, false, some ⟨0, 1⟩⟩)] }
theorem witness_one_line_of_engines :
    ((es (.core 0 2) (ek img0 0)).ctx 0).place false 0x200 = some ⟨sramBase + 0x200, false, 0, 0, false⟩ ∧ 0x200 % 64 + 8 ≤ 64 ∧
    (es (.core 0 2) (ek img0 0)).ms.pausedIn ⟨sramBase + 0x200, false, 0, 0, false⟩ 8 = false ∧ (es (.core 0 2) (ek img0 0)).ms.hist = [] ∧
    ((es (.core 0 2) (ek img0 0)).ctx 0).markAll none [0x200] = some ((es (.core 0 2) (ek img0 0)).ctx 0) ∧
    flipped.markAll (some ⟨0, 0⟩) [0x100000] = none ∧ (flipped.markAll (some ⟨0, 1⟩) [0x100000]).isSome = true ∧
    (flipped.place true 0x100000).isSome = true := by
  refine ⟨rfl, by decide, by decide, rfl, rfl, by decide, by decide, by decide⟩

/-- EngineWrites: three bytes from 6 on lie in two units, in address order. -/
theorem test_engine_units : (match (es (.core 0 2) (ek img0 0)).engPut (ek img0 0) 0 6 false [(1, false), (2, true), (3, false)] with
    | .ok (t, k) => t.ms.pendW.map (fun w => (w.place.key - sramBase, w.data)) == [(6, [1, 2]), (8, [3])] && t.ms.poisoned ⟨sramBase + 6, false, 0, 0, false⟩ &&
        k.status == addFlags 0 { poison := true }
    | .error _ => false) = true := by decide

/-- CommandStages, StepsAndTheirEnds: an engine that another context's command runs on; that command's own queue goes on. -/
theorem witness_engine_of_another :
    ({ douS with mod := { douS.mod with served := Tbl.set 0 [] (sharedKey (.dou 0 7)) 2 } } : State).engineHere (.dou 0 7) = false ∧
    ({ douS with mod := { douS.mod with served := Tbl.set 0 [] (sharedKey (.dou 0 7)) 2 } } : State).engineHere (.dou 1 7) = true ∧
    ({ douS with mod := { douS.mod with served := Tbl.set 0 [] (sharedKey (.dou 0 7)) 2 } } : State).engineFree (.dou 0 7) = false := by decide

/-- SendsOfTheMover: a landing and a copy on their way. -/
theorem witness_sends_under_way :
    ({ ek img0 0 with lands := [recv] } : Cmd).lands.find? (fun j => j.idx == 0) = some recv ∧
    ((chS chanRing { ek img0 0 with sends := [(5, 3)] }).queue (.core 0 2)).cmds.find? (fun k => k.sends.contains (5, 3)) =
      some { ek img0 0 with sends := [(5, 3)] } ∧ (∀ w ∈ (dv id).ms.pendW, w.uid ≤ (dv id).uid) := by
  refine ⟨rfl, rfl, by decide⟩

/-- MCAST_LANDING: two bytes at offset 3 of core 0's slice, the second poisoned: one unit, and its line is poisoned (08 R195, R198). -/
theorem test_landing : ∃ t : State, t = (dv id).land (.core 0 2) (ek img0 0) { recv with offs := 3, bytes := [(1, false), (2, true)] } ∧
    t.ms.pendW.map (fun w => (w.place.key, w.data)) = [(sramBase + 3, [1, 2])] ∧ t.ms.poisoned (physPlace (sramBase + 3)) = true ∧
    ((t.core 0).sem 1).val = 1 := ⟨_, rfl, by decide, by decide, by decide⟩

/-- RowWords: rows of one stack, bank and subarray, and of another stack (20 R329). -/
theorem witness_in_array : inArray false 0 ([0x100000], some 0x100000) = true ∧ inArray true 1 ([0x100000], some 0x100000) = false ∧
    inArray true 0 ([], none) = false := by decide

/-- StashClasses: over the quota with room in HBM, with room only in the second tier, and with none; a lookahead that begins and one that goes on. -/
theorem witness_stash_chain :
    ({ stage0 with quota := 0 } : Stage).quota * 2 ^ 16 < cx.residentBytes 0 + 4096 * 1 ∧ cx.hbk.getD 0 0 * 2 ^ 20 < cx.backingBytes 0 1 + 4096 ∧
    cx.tbk.getD 0 0 * 2 ^ 20 < cx.backingBytes 0 2 + 4096 ∧ ¬ ({ cx with hbk := [1, 0] } : Ctx).hbk.getD 0 0 * 2 ^ 20 < ({ cx with hbk := [1, 0] } : Ctx).backingBytes 0 1 + 4096 ∧
    ¬ ({ cx with tbk := [1, 0] } : Ctx).tbk.getD 0 0 * 2 ^ 20 < ({ cx with tbk := [1, 0] } : Ctx).backingBytes 0 2 + 4096 ∧
    ({ stage0 with looks := [{ tags := [7] }] } : Stage).looks = { tags := [7] } :: [] ∧
    ({ cx with stash := [⟨0, 0, 7, 1, 0, .present 1 [] [] 64 false⟩] } : Ctx).stashed 0 0 7 1 = some ⟨0, 0, 7, 1, 0, .present 1 [] [] 64 false⟩ := by
  refine ⟨by decide, by decide, by decide, by decide, by decide, rfl, rfl⟩

/-- CarouselEvents: a message whose flits have come, and one whose have not; 256 held. -/
theorem witness_flits_of_messages :
    ((payloadsOf (List.replicate 16 0)).isPrefixOf ((dv id).setPort 6 { got := payloadsOf (List.replicate 16 0) } |>.port (6 + 0)).got) = true ∧
    ((payloadsOf (List.replicate 16 0)).isPrefixOf ((dv id).port (6 + 0)).got) = false ∧ (dv id).crslStalls 0 0 msg0 = false ∧
    ((mk .device id (fun x => { x with crslHeld := List.replicate 256 (0, msg0) })).ctx 0).crslHeld.length = 256 ∧
    (mk .device id (fun x => { x with crsl := [{ crStep with todo := [.take none] }] })).crslStalls 0 0 msg0 = false := by
  refine ⟨by decide, by decide, by decide, by decide, by decide⟩

/-- The counts that R359 states for four ranks, h+ = 1 and h− = 2: by its distance d a rank takes 2, 2, 1 and 1 messages of a chunk, each of which adds one
to ASEM's semaphore, and consumes SSEM's one. -/
theorem test_carousel_counts :
    (List.range 4).map (fun d => ((credActs d 1 2 ++ cgathActs d 1 2).filter (fun a => match a with | .take _ => true | _ => false)).length) = [2, 2, 1, 1] ∧
    (List.range 4).map (fun d => ((credActs d 1 2 ++ cgathActs d 1 2).filter (fun a => match a with | .consume _ => true | _ => false)).length) = [1, 1, 1, 1] := by
  decide

/-- The codes of the walkthrough after 21 R356 under the scale 2^-14 (E = 113): 3.0 is 0x7A with BUMP 0, 5.0 is 0x79 with BUMP 1 and expands to 5.0; chunk 5's sum
0.5 + 0.25 + 5.0 is 5.75, 0x40B80000 (R358). -/
theorem test_carousel_codes :
    (crslEncode 14 [0x710000] ((leBytes 0x40400000 4).map (fun b => (b, false)))).1 = [0x7A] ∧
    (crslEncode 14 [0x710000] ((leBytes 0x40A00000 4).map (fun b => (b, false)))) = ([0x79], 1, {}) ∧
    (crslDecode 14 [0x710000] 1 [0x79]) = (leBytes 0x40A00000 4, {}) ∧
    ((fvAdd false (.fin false 3 (-2)) (FFmt.f32.value 0x40A00000)).finish .f32 .rne true 0).1 = 0x40B80000 := by decide

/-- MatrixStepCheck: a result with one row; one that a rerun forms again. -/
theorem witness_commit :
    (let h : HeldStep := { held0 with rows := [List.replicate 128 1], poison := [true] }
     h.acc < 8 ∧ h.rows.length ≤ 96 ∧ h.poison.length = h.rows.length ∧ ∀ r ∈ h.rows, r.length = 128) ∧
    (reform (.core 0 1) (ek img0 0) 1 [] [{ held0 with again := true }] (mtS handle16)).2.2 = none := by
  refine ⟨by decide, rfl⟩

/-- CutsAndRequests: a queue that runs; the faulted command of a DOU; a strand that has faulted. -/
theorem witness_shared_fault :
    (∀ s, s = (dv (fun c => c.setSys 5 (BitVec.ofNat 64 (6 + 8 * 2 ^ 16 + 2 ^ 20)))).setQueue (.dou 0 1) { cmds := [{ ek img0 0 with fault := true }] } →
      s.faultedShared 0 = some (.dou 0 1) ∧ (s.queue (.dou 0 1)).cmds.find? (fun k => k.fault && k.pusher == 0) = some { ek img0 0 with fault := true }) ∧
    ((dv (fun c => { c with queues := [(2, { cmds := [vk] })] })).queue (.core 0 2)).stop = false ∧
    (∀ s, s = vs .device [mem 0 vshReset (.fault false)] (fun c => { c with endStrand := true, faultStrand := some 5 }) →
      (s.core 0).faultStrand.bind (s.core 0).strand = some (str [mem 0 vshReset (.fault false)])) := by
  refine ⟨?_, rfl, ?_⟩
  · rintro s rfl; exact ⟨by decide, rfl⟩
  · rintro s rfl; rfl

/-- TaskRetirement: phases 0 and 1 with the next one declared, and the last phase; an advance that is due, with a free slot and with none. -/
theorem witness_phases :
    (∃ st : Stage, st = { stage0 with phases := 7, bsrc := 0x100 } ∧ st.declares 1 = true ∧ st.declares 2 = true ∧ st.lastPhase = 2) ∧
    stage0.declares 1 = false ∧ stage0.lastPhase = 0 ∧ task0.phase = 0 ∧
    (∃ st : Stage, st = { stage0 with nver := 2, due := true } ∧ (st.cur + 1 + 0) % st.nver ∉ st.cur :: st.inflight.map (·.2)) ∧
    (∃ st : Stage, st = { stage0 with due := true } ∧ ∀ i < st.nver, (st.cur + 1 + i) % st.nver ∈ st.cur :: st.inflight.map (·.2)) := by
  refine ⟨⟨_, rfl, by decide, by decide, by decide⟩, by decide, by decide, rfl, ⟨_, rfl, by decide⟩, ⟨_, rfl, by decide⟩⟩

/-- R286: the retirement of a phase-2 task that makes a version due goes to the next free slot. R261: two adds to one semaphore are one. -/
theorem test_version_advance :
    (({ stage0 with phases := 7, bsrc := 0x100, nver := 2, vper := 1 } : Stage).retire { task0 with phase := 2 } 5 9).cur = 1 ∧
    (({ stage0 with phases := 3, bsrc := 0x100 } : Stage).retire task0 5 9).queues.getD 1 [] = [⟨7, 5, 0⟩] ∧
    addsOf [.add 1 3 2, .fill 0 0, .add 0 9 1, .add 1 3 4] = [((0, 9), 1), ((1, 3), 6)] := by decide

/-- TaskRetirement, RingEffects: a ring that a held fill names, and a flip region that the task has marked. -/
theorem witness_commits : (rg .device id).findRing 0 5 = some (0, 5, 3) ∧ (rg .device id).ring 0 5 = some ring0 ∧
    Tbl.find 1 flipped.flips = some (some ⟨0x200000, false, some ⟨0, 1⟩⟩) ∧ (∀ k m v, HeldFx.add k m v ∈ [HeldFx.add 1 3 2] → m < 512) := by
  refine ⟨rfl, rfl, rfl, ?_⟩
  intro k m v h; cases List.mem_singleton.mp h; decide

/-- ChannelEnds: an end whose peer has failed, and one whose has not; a slot within the ring's and one beyond; a slot that is claimed and one that is not. -/
theorem witness_peers :
    NatSet.has ({ ceS consumer with mod := { (ceS consumer).mod with failed := NatSet.mark [] 1 true } } : State).mod.failed consumer.chEnd.peer = true ∧
    NatSet.has (ceS consumer).mod.failed consumer.chEnd.peer = false ∧ ((0 : BitVec 32) - consumer.r).toNat < consumer.slots ∧
    consumer.slots ≤ ((9 : BitVec 32) - consumer.r).toNat ∧ Tbl.find 0 consumer.claimed = none ∧ Tbl.find 0 (consumer.claimFor 0 0 1).claimed = some 0 ∧
    ((ceS consumer).stage 0 0) = none ∧ ((rmS id id id).stage 0 0) = some stage0 := by
  refine ⟨by decide, by decide, by decide, by decide, rfl, rfl, rfl, rfl⟩

/-- A number as 64 listed bytes from an address up. -/
def cells (a n : Nat) : List Host.Cell :=
  (upFrom 0 64).filterMap (fun i => if n / 256 ^ i % 256 = 0 then none else some (a + i, BitVec.ofNat 8 (n / 256 ^ i % 256)))
/-- A context with one packet at the head of its ring, and some more of memory. -/
def packetS (st : CtxState) (v : Nat) (more : List Host.Cell) (f : Ctx → Ctx) : State :=
  { mk .device id (fun x => f { x with st := st, lrbase := 0x180000, lrsize := 1024, lrtail := 64 }) with ms := { mem := more ++ cells 0x180000 v } }

/-- LaunchPackets: a LOAD-LTT of generation 7 whose image has one entry, 1 MiB of HBM, and core 0 (15 R272, R273; 20 R337). -/
def loadV : Nat := 2 ^ 56 + 7 + 0x4000 * 2 ^ 70
def loadS : State := packetS .empty loadV (cells 0x100000 (2 ^ 51 + 2 ^ 19) ++ cells 0x100040 (20 * 2 ^ 10)) (fun x => { x with ltt := [], coreList := [] })
def image0 : Image :=
  { ptab := 0, pinq := [0, 0], sts := [0, 0], hbk := [0, 0], tbk := [0, 0], ltt := [{ plainEntry 0 with size := 20 }], sram := [], rings := [], flips := [], cores := [(0, 0, 0)] }
theorem witness_load_ltt : loadS.packetAt 0 = some loadV ∧ slice loadV 63 56 = 1 ∧ slice loadV 55 32 = 0 ∧ slice loadV 69 64 = 0 ∧ slice loadV 127 116 = 0 ∧
    slice loadV 511 128 = 0 ∧ (loadS.ctx 0).st = .empty ∧ (memoryOf (slice loadV 115 70 * 64)).isNone = false ∧
    loadS.retireFree.enableSpares.readImage (slice loadV 115 70 * 64) = some image0 ∧ loadS.retireFree.enableSpares.imageOk 0 image0 = true ∧
    (image0.cores.map (·.1)).Nodup := by
  refine ⟨by decide, by decide, by decide, by decide, by decide, by decide, rfl, by decide, by decide +kernel, ?_, by decide⟩
  have hm : mappedRanges image0.ltt image0.flips = [(0, 2 ^ 20)] := by decide
  have ho : loadS.retireFree.enableSpares.others 0 = [] := by decide
  have r1 : loadS.retireFree.enableSpares.reserveOk 0 image0 1 = true := by
    simp only [State.reserveOk, hm, ho]
    simp [meets, dieHbm, dieLpddr, cxlBase, isSram, sramBase, covered_, unionFrom, image0]
  unfold State.imageOk
  rw [show (List.range 2) = [0, 1] from rfl, List.all_cons, List.all_cons, r1]
  decide

/-- LaunchPackets: a DECLARE-STAGE of stage 0 with phase F alone on core 0, whose block has an empty playbill (R274, R275). -/
def declV : Nat := 2 * 2 ^ 56 + 2 ^ 48 + 2 ^ 44 + 2 ^ 32 + 64 * 2 ^ 64 + 0x100000 * 2 ^ 256 + 0x100 * 2 ^ 375 + 0x1FF * 2 ^ 366 + 0x1FF * 2 ^ 357
def declS : State := packetS .loaded declV [(0x100091, 0xFF)] id
theorem witness_declare_stage : declS.packetAt 0 = some declV ∧ slice declV 63 56 = 2 ∧ slice declV 511 472 = 0 ∧ slice declV 463 457 = 0 ∧ slice declV 445 408 = 0 ∧
    slice declV 356 312 = 0 ∧ slice declV 255 248 = 0 ∧ slice declV 191 184 = 0 ∧ slice declV 127 120 = 0 ∧ slice declV 4 0 = 0 ∧ declS.declareOk 0 declV = true ∧
    (match declS.tableBytes 0 (slice declV 311 256) 256 with
      | some b => declS.quotaOk 0 declV b && declS.blockOk 0 (slice declV 50 48) b | none => false) = true ∧ (declS.ctx 0).st = .loaded := by
  refine ⟨by decide, by decide, by decide, by decide, by decide, by decide, by decide, by decide, by decide, by decide, by decide, by decide +kernel, rfl⟩

/-- LaunchPackets: a LAUNCH of generation 1 on this W4 and the W4 with coordinate 1 (R276). -/
def launchV : Nat := 3 * 2 ^ 56 + 2 ^ 80 + 2 ^ 96 + 2 ^ 16 + 64 * 2 ^ 128 + 0x100000 * 2 ^ 192
def launchS : State := packetS .loaded launchV [(0x100004, 1)] (fun x => { x with stages := [(0, some stage0)] })
theorem witness_launch : launchS.packetAt 0 = some launchV ∧ slice launchV 63 56 = 3 ∧ slice launchV 511 248 = 0 ∧ slice launchV 191 184 = 0 ∧ slice launchV 79 64 = 0 ∧
    slice launchV 15 0 = 0 ∧ slice launchV 183 128 % 4 = 0 ∧ slice launchV 95 80 ≠ 0 ∧ slice launchV 39 24 + slice launchV 55 40 ≤ 65535 ∧
    slice launchV 247 192 % 64 = 0 ∧ (launchS.ctx 0).stages.filterMap (·.2) ≠ [] ∧ launchS.w4List 0 launchV = some [0, 1] ∧
    (launchS.ctx 0).gen = slice launchV 127 96 ∧ launchS.ms.pausedIn (physPlace 0x180000) 64 = false := by
  refine ⟨by decide, by decide, by decide, by decide, by decide, by decide, by decide, by decide, by decide, by decide, by decide, by decide +kernel, by decide, by decide⟩

/-- LaunchPackets: a launch with tasks still to retire. -/
theorem witness_unfinished : ∀ s, s = mk .device id (fun x => { x with launch := some launch0, stages := [(0, some stage0)] }) →
    (s.ctx 0).launch = some launch0 ∧ some stage0 ∈ (s.ctx 0).stages.map (·.2) ∧ (∃ p < 3, stage0.declares p = true ∧ stage0.retiredN.getD p 0 < launch0.mbn) := by
  rintro s rfl
  exact ⟨rfl, List.mem_singleton.mpr rfl, 0, by decide, by decide, by decide⟩

/-- Curtain: channel ends that join and ends that do not; a W4 of the list that is not the root, in this curtain and in none; nobody waits on a set. -/
theorem witness_joins_of_ends :
    ({ cx with rings := [(5, some chanRing)] } : Ctx).joinFault [⟨5, 1, true, 0, 0⟩] = false ∧
    ({ cx with rings := [(5, some chanRing)] } : Ctx).joinFault [⟨5, 1, true, 0, 0⟩, ⟨5, 2, true, 0, 0⟩] = true ∧
    (([1, 0] : List (BitVec 32)).map w4Coord).head? ≠ some (dv id).mod.self ∧ (([0, 1] : List (BitVec 32)).map w4Coord).head? = some (dv id).mod.self ∧
    ((cuS (fun l => { l with w4s := [1, 0] })).ctx 0).launch = some { launch0 with w4s := [1, 0] } ∧ forwards [0, 1, 2] 0 = [1, 2] ∧ forwards [0, 1, 2] 1 = [] ∧
    (∀ g, ∀ e ∈ ((cuS id).mset 0 g).waiters, e.1 ∈ ((cuS id).ctx 0).coreList) := by
  refine ⟨by decide, by decide, by decide, by decide, rfl, by decide, by decide, ?_⟩
  intro g e h
  cases h

/-- ModuleEvents, WearSamples: a core that is due for the lower clock; one whose task alone held it since the last sample; a site that is left out. -/
theorem witness_wear :
    ({ dv (fun c => { c with wait := some ⟨.tnext 1, 4, false⟩ }) with
      mod := { (dv id).mod with wrec := [(0, { st := .derated, slow := true })] } } : State).clockDue 0 = true ∧
    (dv id).clockDue 0 = false ∧ ((dv (fun c => { c with used := [(1, 5)] })).core 0).used = [(0 + 1, 5)] ∧
    NatSet.has ({ (dv id).mod with off := NatSet.mark [] 3 true } : Module).off 3 = true ∧ ({} : Module).off = [] ∧ (dv id).mod.ready = true := by
  refine ⟨by decide, by decide, rfl, by decide, rfl, rfl⟩

/-- LinksHomeAndHost: HBM's last byte and the one beyond; a W4 that has failed and one that has not. -/
theorem witness_homes : isHbm (0x7FFFFFFFF8 + (8 - 1)) = true ∧ isHbm (0x7FFFFFFFF9 + (8 - 1)) = false ∧ NatSet.has (dv id).mod.failed 1 = false ∧
    NatSet.has (NatSet.mark [] 1 true) 1 = true ∧ (dv id).ms.pausedIn (physPlace 0x7FFFFFFFF8) 8 = false := by decide

/-- StrandEvents: two members of a bundle of VLD.f that wait together; their lines are full and both words go on. -/
def fullS : State := { vs .device [mem 0 0x0081 (.full [sramBase] 3 true), mem 1 0x0081 (.full [sramBase] 3 true)] id with
  ms := { full := [(sramBase, true)], mem := [(sramBase, 0x10), (sramBase + 2, 4), (sramBase + 3, 0xE0), (sramBase + 4, 0x10), (sramBase + 6, 4), (sramBase + 7, 0xE0),
    (sramBase + 11, 0xFD), (sramBase + 15, 0xFD)] } }
theorem witness_full_together :
    (match (fullS.core 0).strand 5 with
      | some t => t.runs && t.waiting 3 == [0, 1] && fullS.linesReady [sramBase] (some 3) && (fullS.core 0).vecLive &&
          (match fullS.unitOf 0 5 0 with
            | .ok (un, s1) => un.instr 0 == some (.vld 0 .f (.win 1) 0 0) && answers (s1.runMembers 0 5 un t.status (t.waiting 3))
            | .error _ => false)
      | none => false) = true := by decide
end Sys2Proof.Tests
end

section
/-!
PROOFS of the integer group (04 R79) and of CSTAT (04 R97): each value function of the model is the rule's, and a word that issues writes it.
-/
namespace Sys2Proof.Machine

/-! ### The value functions of 04 R79 -/

theorem sub_eq_ofInt (a b : BitVec 64) : a - b = BitVec.ofInt 64 ((a.toNat : Int) - b.toNat) := by
  simp only [Int.sub_eq_add_neg, BitVec.sub_eq_add_neg, BitVec.ofInt_add, BitVec.ofInt_neg, BitVec.ofInt_natCast, BitVec.ofNat_toNat,
    BitVec.setWidth_eq]

theorem mul_eq_ofNat (a b : BitVec 64) : a * b = BitVec.ofNat 64 (a.toNat * b.toNat) := by
  simp only [BitVec.ofNat_mul, BitVec.ofNat_toNat, BitVec.setWidth_eq]

theorem mulHigh_eq_fdiv (a b : BitVec 64) : mulHigh a b = BitVec.ofInt 64 ((a.toInt * b.toInt).fdiv (2 ^ 64)) := by
  rw [mulHigh, Int.fdiv_eq_ediv_of_nonneg _ (by decide)]

theorem toInt_eq_zero_iff (b : BitVec 64) : b.toInt = 0 ↔ b = 0 := BitVec.toInt_inj (y := 0)

theorem toNat_eq_zero_iff (b : BitVec 64) : b.toNat = 0 ↔ b = 0 := BitVec.toNat_inj (y := 0)

/-- R79 names the overflow -2^63 / -1 a case of its own; the quotient 2^63 has the same 64 bits. -/
theorem divS_eq_table (a b : BitVec 64) : divS a b = if b.toInt = 0 then BitVec.ofNat 64 (2 ^ 64 - 1)
    else if a.toInt = -2 ^ 63 ∧ b.toInt = -1 then BitVec.ofInt 64 (-2 ^ 63) else BitVec.ofInt 64 (a.toInt.tdiv b.toInt) := by
  simp only [divS, ← toInt_eq_zero_iff]
  split
  · rfl
  · split
    · next h => rw [h.1, h.2]; decide
    · rfl

theorem divU_eq_table (a b : BitVec 64) :
    divU a b = if b.toNat = 0 then BitVec.ofNat 64 (2 ^ 64 - 1) else BitVec.ofNat 64 (a.toNat / b.toNat) := by
  simp only [divU, toNat_eq_zero_iff]
  rfl

/-- R79 names the overflow -2^63 rem -1 a case of its own; the remainder is 0 there as well. -/
theorem remS_eq_table (a b : BitVec 64) : remS a b = if b.toInt = 0 then a
    else if a.toInt = -2 ^ 63 ∧ b.toInt = -1 then 0 else BitVec.ofInt 64 (a.toInt - b.toInt * a.toInt.tdiv b.toInt) := by
  simp only [remS, ← toInt_eq_zero_iff]
  split
  · rfl
  · split
    · next h => rw [h.1, h.2]; decide
    · rw [Int.tmod_def]

theorem remU_eq_table (a b : BitVec 64) : remU a b = if b.toNat = 0 then a else BitVec.ofNat 64 (a.toNat % b.toNat) := by
  simp only [remU, toNat_eq_zero_iff]

theorem shlW_eq_mul (a b : BitVec 64) : shlW a b = BitVec.ofNat 64 (a.toNat * 2 ^ (b.toNat % 64)) := by
  rw [shlW, shAmt, ← Nat.shiftLeft_eq]
  exact BitVec.eq_of_toNat_eq BitVec.toNat_shiftLeft

theorem shrW_eq_div (a b : BitVec 64) : shrW a b = BitVec.ofNat 64 (a.toNat / 2 ^ (b.toNat % 64)) := by
  rw [shrW, shAmt, ← Nat.shiftRight_eq_div_pow, ← BitVec.toNat_ushiftRight, BitVec.ofNat_toNat, BitVec.setWidth_eq]

theorem sarW_eq_div (a b : BitVec 64) : sarW a b = BitVec.ofInt 64 (a.toInt / 2 ^ (b.toNat % 64)) := by
  rw [sarW, shAmt, BitVec.sshiftRight, Int.shiftRight_eq_div_pow]
  norm_cast

/-- MIN and MAX compare strictly in the model and not strictly in R79: it makes no difference where equal numbers are equal words. -/
theorem ite_eq_ite_of_imp {p q : Prop} [Decidable p] [Decidable q] {x y : BitVec 64} (hpq : p → q) (h : q → ¬p → x = y) :
    (if p then x else y) = if q then x else y := by
  by_cases hp : p
  · rw [if_pos hp, if_pos (hpq hp)]
  · by_cases hq : q
    · rw [if_neg hp, if_pos hq, h hq hp]
    · rw [if_neg hp, if_neg hq]

theorem eq_of_toInt_le_of_not_lt {a b : BitVec 64} (hle : a.toInt ≤ b.toInt) (hlt : ¬a.toInt < b.toInt) : a = b :=
  BitVec.eq_of_toInt_eq (Int.le_antisymm hle (Int.not_lt.mp hlt))

theorem eq_of_toNat_le_of_not_lt {a b : BitVec 64} (hle : a.toNat ≤ b.toNat) (hlt : ¬a.toNat < b.toNat) : a = b :=
  BitVec.eq_of_toNat_eq (Nat.le_antisymm hle (Nat.not_lt.mp hlt))

theorem minS_eq_table (a b : BitVec 64) : minS a b = if a.toInt ≤ b.toInt then a else b := by
  simp only [minS, BitVec.slt_iff_toInt_lt]
  exact ite_eq_ite_of_imp Int.le_of_lt eq_of_toInt_le_of_not_lt

theorem maxS_eq_table (a b : BitVec 64) : maxS a b = if a.toInt ≤ b.toInt then b else a := by
  simp only [maxS, BitVec.slt_iff_toInt_lt]
  exact ite_eq_ite_of_imp Int.le_of_lt fun hle hlt => (eq_of_toInt_le_of_not_lt hle hlt).symm

theorem minU_eq_table (a b : BitVec 64) : minU a b = if a.toNat ≤ b.toNat then a else b := by
  simp only [minU, BitVec.ult_iff_toNat_lt]
  exact ite_eq_ite_of_imp Nat.le_of_lt eq_of_toNat_le_of_not_lt

theorem maxU_eq_table (a b : BitVec 64) : maxU a b = if a.toNat ≤ b.toNat then b else a := by
  simp only [maxU, BitVec.ult_iff_toNat_lt]
  exact ite_eq_ite_of_imp Nat.le_of_lt fun hle hlt => (eq_of_toNat_le_of_not_lt hle hlt).symm

theorem boolWord_slt (a b : BitVec 64) : boolWord (a.slt b) = if a.toInt < b.toInt then 1 else 0 := by
  simp only [boolWord, BitVec.slt_iff_toInt_lt]

theorem boolWord_ult (a b : BitVec 64) : boolWord (a.ult b) = if a.toNat < b.toNat then 1 else 0 := by
  simp only [boolWord, BitVec.ult_iff_toNat_lt]

/-- Counting leading zeros from bit n - 1 down, and searching for the first one bit in that order. -/
theorem leadingZeros_eq_find? (x : BitVec 64) (n : Nat) :
    leadingZeros x n = ((List.range n).find? (fun i => x.getLsbD (n - 1 - i))).getD n := by
  induction n with
  | zero => rfl
  | succ n ih =>
    have hpred : (fun i => x.getLsbD (n + 1 - 1 - i)) ∘ Nat.succ = fun i => x.getLsbD (n - 1 - i) :=
      funext fun i => congrArg x.getLsbD (by simp only [Nat.succ_eq_add_one]; omega)
    rw [leadingZeros, ih, List.range_succ_eq_map, List.find?_cons, List.find?_map, hpred]
    cases hbit : x.getLsbD n <;> simp [hbit, Nat.add_comm]

theorem leadingZeros_eq_leadingZeroCount (x : BitVec 64) : leadingZeros x 64 = leadingZeroCount x := leadingZeros_eq_find? x 64

theorem onesIn_eq_length_filter (x : BitVec 64) (n : Nat) : onesIn x n = ((List.range n).filter (fun i => x.getLsbD i)).length := by
  induction n with
  | zero => rfl
  | succ n ih =>
    rw [onesIn, ih, List.range_succ, List.filter_append, List.length_append, Nat.add_comm]
    cases hbit : x.getLsbD n <;> simp [hbit]

theorem onesIn_eq_oneCount (x : BitVec 64) : onesIn x 64 = oneCount x := onesIn_eq_length_filter x 64

/-! ### The words -/

/-- A word of the integer group is `alu2` of the function that its entry in the table names. -/
def ComputesEntry (e : Word3 × (BitVec 64 → BitVec 64 → BitVec 64)) : Prop := ∀ d a b s, exec (e.1 d a b) s = alu2 d a b e.2 s

theorem computesEntry_of_eq {w : Word3} {f g : BitVec 64 → BitVec 64 → BitVec 64} (hw : ∀ d a b s, exec (w d a b) s = alu2 d a b f s)
    (hfg : ∀ x y, f x y = g x y) : ComputesEntry (w, g) := by
  obtain rfl : f = g := funext fun x => funext (hfg x)
  exact hw

theorem intTable_computesEntry : ∀ e ∈ intTable, ComputesEntry e := by
  simp only [intTable, List.forall_mem_cons]
  exact ⟨computesEntry_of_eq exec_add BitVec.add_def, computesEntry_of_eq exec_sub sub_eq_ofInt, computesEntry_of_eq exec_mul mul_eq_ofNat,
    computesEntry_of_eq exec_mulh mulHigh_eq_fdiv, exec_mulhn, computesEntry_of_eq exec_div divS_eq_table,
    computesEntry_of_eq exec_divn divU_eq_table, computesEntry_of_eq exec_rem remS_eq_table, computesEntry_of_eq exec_remn remU_eq_table,
    exec_and, exec_or, exec_xor, computesEntry_of_eq exec_shl shlW_eq_mul, computesEntry_of_eq exec_shr shrW_eq_div,
    computesEntry_of_eq exec_sar sarW_eq_div, computesEntry_of_eq exec_min minS_eq_table, computesEntry_of_eq exec_max maxS_eq_table,
    computesEntry_of_eq exec_minn minU_eq_table, computesEntry_of_eq exec_maxn maxU_eq_table, computesEntry_of_eq exec_slt boolWord_slt,
    computesEntry_of_eq exec_sltn boolWord_ult, List.forall_mem_nil _⟩

section
variable {s : State} {c : Nat} {d a b k : BitVec 5}

/-- A word of two operands that issues writes its value, poisoned when either operand is (04 R78). -/
theorem alu2_issues {f : BitVec 64 → BitVec 64 → BitVec 64} (h : s.SeqIssues c [a, b]) :
    alu2 d a b f s = .next (s.setCore c (((s.core c).write d (f ((s.core c).reg a) ((s.core c).reg b))
      ((s.core c).pois a || (s.core c).pois b)).advance 4)) := by
  rw [alu2, seqWord_issues h]
  simp only [Core.anyPois, List.any_cons, List.any_nil, Bool.or_false]

theorem alu1_issues {f : BitVec 64 → BitVec 64} (h : s.SeqIssues c [a]) :
    alu1 d a f s = .next (s.setCore c (((s.core c).write d (f ((s.core c).reg a)) ((s.core c).pois a)).advance 4)) := by
  rw [alu1, seqWord_issues h]

theorem exec_clz_issues (h : s.SeqIssues c [a]) : exec (.clz d a) s = .next (s.setCore c
    (((s.core c).write d (BitVec.ofNat 64 (leadingZeroCount ((s.core c).reg a))) ((s.core c).pois a)).advance 4)) := by
  rw [exec_clz, execClz, alu1_issues h, leadingZeros_eq_leadingZeroCount]

theorem exec_popc_issues (h : s.SeqIssues c [a]) : exec (.popc d a) s = .next (s.setCore c
    (((s.core c).write d (BitVec.ofNat 64 (oneCount ((s.core c).reg a))) ((s.core c).pois a)).advance 4)) := by
  rw [exec_popc, execPopc, alu1_issues h, onesIn_eq_oneCount]

/-- SEL is poisoned through its condition and through the operand it selects, not through the other (04 R78). -/
theorem exec_sel_issues (h : s.SeqIssues c [k, a, b]) : exec (.sel d k a b) s = .next (s.setCore c
    (((s.core c).write d (if (s.core c).reg k ≠ 0 then (s.core c).reg a else (s.core c).reg b)
      ((s.core c).pois k || (if (s.core c).reg k ≠ 0 then (s.core c).pois a else (s.core c).pois b))).advance 4)) := by
  rw [exec_sel, execSel, seqWord_issues h]
  by_cases hk : (s.core c).reg k ≠ 0
  · simp only [if_pos hk, Core.anyPois, List.any_cons, List.any_nil, Bool.or_false]
  · simp only [if_neg hk, Core.anyPois, List.any_cons, List.any_nil, Bool.or_false]

end

/-- The fields of a queue's state word (04 R97): DRAIN and STOP are single bits. -/
theorem Queue.stat_eq_fields (v : Queue) (depth : Nat) : v.stat depth = BitVec.ofNat 64 (
    v.count % 2 ^ 32 * 2 ^ 32 + (if v.cmds = [] then 2 ^ 17 else 0) + (if v.stop = true ∨ v.pre = true then 2 ^ 16 else 0) +
      depth * 2 ^ 8 + v.cmds.length) := by
  have hdrain : v.cmds.isEmpty.toNat * 2 ^ 17 = if v.cmds = [] then 2 ^ 17 else 0 := by cases v.cmds <;> simp
  have hstop : (v.stop || v.pre).toNat * 2 ^ 16 = if v.stop = true ∨ v.pre = true then 2 ^ 16 else 0 := by
    cases v.stop <;> cases v.pre <;> simp
  rw [Queue.stat, hdrain, hstop]

end Sys2Proof.Machine

open Sys2Proof.Machine

/-- Settles O8: each word of the table is `alu2` of the table's function, and CLZ, POPC and SEL have their own values. -/
theorem integerGroupFollowsTheTable : Obligations.IntegerGroupFollowsTheTable := by
  intro s c d a b k
  refine ⟨fun h e he => ?_, fun h => ⟨exec_clz_issues h, exec_popc_issues h⟩, exec_sel_issues⟩
  rw [intTable_computesEntry e he, alu2_issues h]

/-- Settles O23: CSTAT writes the state word of the queue that eng and k name; its depth is 16 at a core's queue and 32 at a shared one. -/
theorem queueState : Obligations.QueueState := by
  intro s c d eng k q h hq
  rw [exec_cstat, execCstat, seqWord_issues h]
  simp only [hq, Queue.stat_eq_fields]
  cases q <;> rfl

end

section
/-!
PROOFS of the words on whole lanes (06 R133-R135): the registers that such a word leaves, lane by lane, and what each move, permute and broadcast
passes to it.
-/
namespace Sys2Proof.Machine

/-! ### What a word on whole lanes writes -/

theorem mem_upFrom {lo n l : Nat} : l ∈ upFrom lo n ↔ lo ≤ l ∧ l < lo + n := by
  induction n generalizing lo with
  | zero => simp only [upFrom, List.not_mem_nil, false_iff]; omega
  | succ n ih => simp only [upFrom, List.mem_cons, ih]; omega

/-- A physical register with its poison bit. -/
def VecUnit.cell (v : VecUnit) (k : Nat) : BitVec 32 × Bool := (Tbl.get 0 v.regs k, NatSet.has v.rpois k)

theorem VecUnit.cell_eq_iff {v : VecUnit} {k : Nat} {x : BitVec 32} {b : Bool} :
    v.cell k = (x, b) ↔ Tbl.get 0 v.regs k = x ∧ NatSet.has v.rpois k = b := by
  rw [VecUnit.cell, Prod.mk.injEq]

theorem VecUnit.cell_setLane (v : VecUnit) (t : Strand) (n l k : Nat) (x : BitVec 32) (b : Bool) :
    (v.setLane t n l x b).cell k = if k = t.regKey n l then (x, b) else v.cell k := by
  simp only [VecUnit.cell, VecUnit.setLane, Tbl.get_set, NatSet.has_mark]
  split <;> rfl

/-- The lanes in which a word on whole lanes writes: active, with bit 0 of the predicate set. -/
def VCx.writesLane (w : VCx) (p l : Nat) : Bool := w.active l && bitAt (w.st.pred p l) 0

/-- One lane of `VCx.writeWord`. -/
def VCx.putLane (w : VCx) (p : Nat) (d : LReg) (f : Nat → BitVec 32) (pois : Nat → Bool) (v : VecUnit) (l : Nat) : VecUnit :=
  if w.writesLane p l then v.setLane w.st (d l) l (f l) (pois l || w.st.predPois p l) else v

section
variable {w : VCx} {p n : Nat} {d : LReg} {f : Nat → BitVec 32} {pois : Nat → Bool}

theorem VCx.writeWord_vec (s : State) : ((w.writeWord p d f pois s).core w.core).vec = { (s.core w.core).vec with
    regs := (w.lanes.foldl (w.putLane p d f pois) w.co.vec).regs, rpois := (w.lanes.foldl (w.putLane p d f pois) w.co.vec).rpois } := by
  rw [VCx.writeWord, State.core_modCore]
  rfl

/-- The registers of no written lane keep their bits and poison. -/
theorem VCx.cell_foldl_putLane_other {k : Nat} (ls : List Nat) (v : VecUnit)
    (hk : ∀ l ∈ ls, w.writesLane p l = true → k ≠ w.st.regKey (d l) l) : (ls.foldl (w.putLane p d f pois) v).cell k = v.cell k := by
  induction ls generalizing v with
  | nil => rfl
  | cons l ls ih =>
    obtain ⟨hl, hls⟩ := List.forall_mem_cons.mp hk
    rw [List.foldl_cons, ih _ hls, VCx.putLane]
    split
    · next hw => rw [VecUnit.cell_setLane, if_neg (hl hw)]
    · rfl

/-- A written lane whose register no other lane writes takes its value. -/
theorem VCx.cell_foldl_putLane_same {l : Nat} (ls : List Nat) (v : VecUnit) (hmem : l ∈ ls) (hw : w.writesLane p l = true)
    (hinj : ∀ j ∈ ls, w.writesLane p j = true → w.st.regKey (d l) l = w.st.regKey (d j) j → j = l) :
    (ls.foldl (w.putLane p d f pois) v).cell (w.st.regKey (d l) l) = (f l, pois l || w.st.predPois p l) := by
  induction ls generalizing v with
  | nil => cases hmem
  | cons j ls ih =>
    obtain ⟨-, hls⟩ := List.forall_mem_cons.mp hinj
    rw [List.foldl_cons]
    by_cases hlater : l ∈ ls
    · exact ih _ hlater hls
    · obtain rfl : l = j := (List.mem_cons.mp hmem).resolve_right hlater
      have hfree : ∀ i ∈ ls, w.writesLane p i = true → w.st.regKey (d l) l ≠ w.st.regKey (d i) i :=
        fun i hi hwi e => hlater (hls i hi hwi e ▸ hi)
      rw [VCx.cell_foldl_putLane_other ls _ hfree, VCx.putLane, if_pos hw, VecUnit.cell_setLane, if_pos rfl]

theorem VCx.member_of_active {l : Nat} (h : w.active l = true) : ∃ m, w.st.members[l / 32]? = some m := by
  rw [VCx.active] at h
  split at h
  · next m hm => exact ⟨m, hm⟩
  · cases h

/-- One window register stands at different physical registers in different active lanes: the word's clusters differ (10 R214). -/
theorem VCx.regKey_inj {l j : Nat} (hc : w.clustersDiffer) (hl : l ∈ w.lanes) (hj : j ∈ w.lanes) (hla : w.active l = true)
    (hja : w.active j = true) (hkey : w.st.regKey n l = w.st.regKey n j) : j = l := by
  obtain ⟨m, hm⟩ := VCx.member_of_active hla
  obtain ⟨m', hm'⟩ := VCx.member_of_active hja
  simp only [Strand.regKey, hm, hm'] at hkey
  have hcluster : m.cluster = m'.cluster := by omega
  have hrank : l / 32 = j / 32 := by
    cases hjoint : w.joint
    case false =>
      simp only [VCx.lanes, hjoint, Bool.false_eq_true, if_false, mem_upFrom] at hl hj
      omega
    case true =>
      have hlen : l / 32 < (w.st.members.map (·.cluster)).length := by
        rw [List.length_map]
        exact (List.getElem?_eq_some_iff.mp hm).1
      refine (List.getElem?_inj hlen (hc hjoint)).mp ?_
      simp only [List.getElem?_map, hm, hm', Option.map_some, hcluster]
  omega

end

/-! ### How the moves, permutes and broadcasts end -/

section
variable {s : State} {w : VCx}

/-- A vector word that issues and goes on at the next word. -/
theorem vecWord_done {op : VOp} {t : State} (h : s.VecIssues w) (ho : op w s = .ok (t, .advance)) : vecWord op s = w.done t := by
  rw [vecWord, vecIssue_issues h, ho]
  rfl

theorem vecWord_illegal {op : VOp} (h : s.VecIssues w) (ho : op w s = .error .illegal) :
    vecWord op s = .next (s.strandFault w.core w.st.uid w.rank 1 0) := by
  rw [vecWord, vecIssue_issues h, ho]
  rfl

/-- A word that issues by itself issues in one member only. -/
theorem State.VecIssues.not_joint (h : s.VecIssues w) : w.joint = false := by
  obtain ⟨-, hvcx, -⟩ := h
  rw [State.vcx] at hvcx
  split at hvcx
  · obtain ⟨m, -, hw⟩ := Option.map_eq_some_iff.mp hvcx
    rw [← hw]
  · cases hvcx

theorem State.VecIssues.whole_eq (h : s.VecIssues w) : w.whole = (w.st.members.length == 1) := by
  rw [VCx.whole, h.not_joint, Bool.or_false, Strand.c]

theorem VCx.writeWord_congr {p : Nat} {d : LReg} {f g : Nat → BitVec 32} {pois pois' : Nat → Bool} (hf : ∀ l, f l = g l)
    (hpois : ∀ l, pois l = pois' l) : w.writeWord p d f pois s = w.writeWord p d g pois' s := by
  rw [funext hf, funext hpois]

variable {p : BitVec 4} {d a b : VReg} {x : BitVec 3} {imm : BitVec 32} {lane : BitVec 5} {rd ra rb : LReg}

theorem movV_ok (hd : w.reg d (slotRegs (fmtWidth w.fmt)) = .ok rd) (ha : w.reg a (slotRegs (fmtWidth w.fmt)) = .ok ra) :
    movV p d a w s = vdone (w.writeAs false p.toNat ⟨rd, fmtWidth w.fmt, 1⟩ (fun l _ => w.poisIn ra (slotRegs (fmtWidth w.fmt)) l)
      (fun _ => false) (fun l j _ => (w.elem ra (fmtWidth w.fmt) j l, {})) s) := by
  simp only [movV, hd, ha]
  rfl

theorem moviV_f64 (hd : w.reg d 1 = .ok rd) (hfmt : w.fmt = 0) :
    moviV p d imm w s = vdone (w.writeWord p.toNat rd (fun _ => imm) (fun _ => false) s) := by
  simp only [moviV, hd, hfmt, if_true]
  rfl

theorem moviV_narrow (hd : w.reg d 1 = .ok rd) (hfmt : w.fmt ≠ 0) :
    moviV p d imm w s = vdone (w.writeAs false p.toNat ⟨rd, fmtWidth w.fmt, 1⟩ (fun _ _ => false) (fun _ => false)
      (fun _ j _ => (imm.toNat / 2 ^ (fmtWidth w.fmt * j) % 2 ^ fmtWidth w.fmt, {})) s) := by
  simp only [moviV, hd, hfmt, if_false]
  rfl

theorem movxV_ok (hd : w.reg d 1 = .ok rd) (ha : w.reg a 1 = .ok ra) :
    movxV p d a w s = vdone (w.writeWord p.toNat rd (fun l => w.rl ra l + BitVec.ofNat 32 l) (fun l => w.rp ra l) s) := by
  simp only [movxV, hd, ha]
  rfl

theorem vgetxV_ok {s1 : State} (hd : w.reg d 2 = .ok rd)
    (hs1 : s1 = w.writeWord p.toNat rd (fun _ => (w.m.xr x.toNat).setWidth 32) (fun _ => w.m.xp x.toNat) s) :
    vgetxV p d x w s = vdone ({ w with co := s1.core w.core }.writeWord p.toNat (shiftReg rd 1)
      (fun _ => (w.m.xr x.toNat >>> 32).setWidth 32) (fun _ => w.m.xp x.toNat) s1) := by
  subst hs1
  simp only [vgetxV, hd]
  rfl

/-- The poison of a register pair is that of either register. -/
theorem VCx.poisIn_two (r : LReg) (l : Nat) : w.poisIn r 2 l = (w.rp r l || w.rp (shiftReg r 1) l) := by
  simp only [VCx.poisIn, List.range_succ, List.range_zero, List.nil_append, List.cons_append, List.any_cons, List.any_nil, Bool.or_false]
  rfl

theorem vsetxV_governed (ha : w.reg a 2 = .ok ra) (hpois : w.st.predPois p.toNat (32 * w.rank) = false)
    (hbit : bitAt (w.st.pred p.toNat (32 * w.rank)) 0 = true) :
    vsetxV p x a w s = vdone (s.modCore w.core (fun co => co.modStrand w.st.uid (fun t => t.modMember w.rank (fun m =>
      m.setX x.toNat (w.rl (shiftReg ra 1) (32 * w.rank) ++ w.rl ra (32 * w.rank))
        (w.rp ra (32 * w.rank) || w.rp (shiftReg ra 1) (32 * w.rank)))))) := by
  simp only [vsetxV, ha, ← VCx.poisIn_two, bind, Except.bind, hpois, hbit, Bool.false_eq_true, if_false, if_true]

theorem vsetxV_ungoverned (ha : w.reg a 2 = .ok ra) (hpois : w.st.predPois p.toNat (32 * w.rank) = false)
    (hbit : bitAt (w.st.pred p.toNat (32 * w.rank)) 0 = false) : vsetxV p x a w s = vdone s := by
  simp only [vsetxV, ha, bind, Except.bind, hpois, hbit, Bool.false_eq_true, if_false]

theorem bcastV_ok (hd : w.reg d 1 = .ok rd) (ha : w.reg a 1 = .ok ra) :
    bcastV p d a lane w s = vdone (w.writeWord p.toNat rd (fun _ => w.rl ra (32 * w.rank + lane.toNat))
      (fun _ => w.rp ra (32 * w.rank + lane.toNat)) s) := by
  simp only [bcastV, hd, ha]
  rfl

theorem permV_ok (hd : w.reg d 1 = .ok rd) (ha : w.reg a 1 = .ok ra) (hb : w.reg b 1 = .ok rb) :
    permV p d a b w s = vdone (w.writeWord p.toNat rd (fun l => w.rl ra (32 * w.rank + (w.rl rb l).toNat % 32))
      (fun l => w.rp ra (32 * w.rank + (w.rl rb l).toNat % 32) || w.rp rb l) s) := by
  simp only [permV, hd, ha, hb]
  rfl

/-- LSHIFT: a lane whose source lies outside the cluster takes zero, poisoned by the amount alone. -/
theorem lshiftV_ok {sh : Int} {src : Nat → Int} (hd : w.reg d 1 = .ok rd) (ha : w.reg a 1 = .ok ra) (hb : w.reg b 1 = .ok rb)
    (hsh : sh = ((w.rl rb (32 * w.rank)).setWidth 6).toInt) (hsrc : src = fun l : Nat => ((l % 32 : Nat) : Int) - sh) :
    lshiftV p d a b w s = vdone (w.writeWord p.toNat rd
      (fun l => if 0 ≤ src l ∧ src l ≤ 31 then w.rl ra (32 * w.rank + (src l).toNat) else 0)
      (fun l => w.rp rb (32 * w.rank) || (decide (0 ≤ src l ∧ src l ≤ 31) && w.rp ra (32 * w.rank + (src l).toNat))) s) := by
  have hsub : ∀ l : Nat, ((l % 32 : Nat) : Int) - sh = src l := fun l => by rw [hsrc]
  simp only [lshiftV, hd, ha, hb, bind, Except.bind, VCx.own, Nat.add_zero, ← hsh, hsub]
  refine congrArg vdone (VCx.writeWord_congr (fun l => ?_) (fun l => ?_)) <;> by_cases hin : 0 ≤ src l ∧ src l ≤ 31
  · simp only [if_pos hin]
  · simp only [if_neg hin]
  · simp only [if_pos hin, decide_eq_true hin, Bool.true_and]
  · simp only [if_neg hin, decide_eq_false hin, Bool.false_and]

/-- XPERM in a strand of one cluster: every selector, taken modulo 32, names a lane. -/
theorem xpermV_one (hone : w.st.members.length = 1) (hd : w.reg d 1 = .ok rd) (ha : w.reg a 1 = .ok ra) (hb : w.reg b 1 = .ok rb) :
    xpermV p d a b w s = vdone (w.writeWord p.toNat rd (fun l => w.rl ra ((w.rl rb l).toNat % 32))
      (fun l => w.rp rb l || w.rp ra ((w.rl rb l).toNat % 32)) s) := by
  have hlane : ∀ l, (w.rl rb l).toNat % 32 < 32 := fun l => Nat.mod_lt _ (by decide)
  simp only [xpermV, VCx.whole, Strand.c, hone, need, hd, ha, hb, bind, Except.bind, BEq.rfl, Bool.true_or, if_true, Nat.mul_one, hlane]

theorem xpermV_alone (h : w.whole = false) : xpermV p d a b w s = .error .illegal := by
  simp only [xpermV, need, h]
  rfl

end

/-! ### The claims -/

theorem laneWrite : Claim.LaneWrite := by
  intro w s p n f pois hc v hv
  rw [VCx.writeWord_vec] at hv
  subst hv
  refine ⟨fun l hl hla hbit => ?_, fun k hk => ?_, rfl⟩
  · have hw : w.writesLane p l = true := by rw [VCx.writesLane, hla, hbit, Bool.and_self]
    refine VecUnit.cell_eq_iff.mp (VCx.cell_foldl_putLane_same (d := fun _ => n) w.lanes w.co.vec hl hw fun j hj hwj hkey => ?_)
    exact VCx.regKey_inj hc hl hj hla (Bool.and_eq_true_iff.mp hwj).1 hkey
  · refine VecUnit.cell_eq_iff.mp (VCx.cell_foldl_putLane_other w.lanes w.co.vec fun l hl hw => ?_)
    obtain ⟨hla, hbit⟩ := Bool.and_eq_true_iff.mp hw
    exact hk l hl hla hbit

theorem moves : Claim.Moves := by
  intro s w p d a x imm rd ra h
  refine ⟨?_, fun hd => ⟨fun hfmt => ?_, fun hfmt => ?_, fun ha => ?_⟩, fun hd s1 hs1 => ?_, ?_⟩
  · rintro _ _ rfl rfl hd ha
    exact vecWord_done h (movV_ok hd ha)
  · exact vecWord_done h (moviV_f64 hd hfmt)
  · exact vecWord_done h (moviV_narrow hd hfmt)
  · exact vecWord_done h (movxV_ok hd ha)
  · exact vecWord_done h (vgetxV_ok hd hs1)
  · rintro ha _ rfl hpois
    exact ⟨fun hbit => vecWord_done h (vsetxV_governed ha hpois hbit), fun hbit => vecWord_done h (vsetxV_ungoverned ha hpois hbit)⟩

theorem permutes : Claim.Permutes := by
  intro s w p d a b lane rd ra rb h hd ha
  refine ⟨vecWord_done h (bcastV_ok hd ha), fun hb => ⟨vecWord_done h (permV_ok hd ha hb), fun sh src hsh hsrc => ?_, fun hone => ?_,
    fun hmany => ?_⟩⟩
  · exact vecWord_done h (lshiftV_ok hd ha hb hsh hsrc)
  · exact vecWord_done h (xpermV_one hone hd ha hb)
  · exact vecWord_illegal h (xpermV_alone (h.whole_eq.trans (beq_false_of_ne hmany)))

end Sys2Proof.Machine

open Sys2Proof.Machine

/-- Settles O32: a word on whole lanes writes the registers of the lanes that it governs and no others, and each move, permute and broadcast
completes with the rule's value for every lane. -/
theorem laneWords : Obligations.LaneWords := ⟨laneWrite, moves, permutes⟩

end
